-- ==== Sys2Proof/Word.lean ====
section
/-! DEFINITION. The word types of the block. -/
namespace Sys2Proof

abbrev Byte := BitVec 8
abbrev H16 := BitVec 16
/-- A register word (R81: every register is 32 bits wide). -/
abbrev W32 := BitVec 32
abbrev W64 := BitVec 64

end Sys2Proof
end

