-- ==== Sys2Proof/Syntax.lean ====
section
/-! DEFINITION. The commands of the block: one constructor of `Instr` per row of the table, and the operand types they
carry. An operand is what the outside world supplies: a frame, a register address and value, a channel, or the fact an
event brings with it (a reading, a retry's outcome). -/
namespace Sys2Proof

/-- The two access paths to registers (R94, R97). -/
inductive Path
  | icp | sideband
  deriving DecidableEq, Repr

/-- The blocks of the catalogue (R96). -/
inductive Blk
  | supv | clocks | pwr | bench | fbook | cairn | sec
  | hmac | icp | hub
  | seq | dense | gather | route | layout | cache | merid | hbm | update | numw | plat | trav | bearing | cpwr | cclk
  | cbench
  deriving DecidableEq, Repr

/-- A register page (R81): a block, its channel (0 for a block of zone 0 or 1) and its instance. -/
structure Page where
  blk : Blk
  chan : Fin 9
  inst : Fin 6
  deriving DecidableEq, Repr

/-- The executing units of a channel, as the sequencer sees them (R101, R106). -/
inductive UnitId
  | layout | arrayA | arrayB | vector | gx | score | apply
  | trav (port : Fin 6) | travAll | own | recv
  | reduce | loan | offload | update | plat | seq
  deriving DecidableEq, Repr

/-- A frame arriving at the host port: its header fields (R44), the bytes that follow the header, whether its destination
address was the broadcast address (R39), how many bytes the class's ingress buffer held when it arrived (R43), and, if the target is fenced or
reset after the frame was accepted (R48, R61, R63, R64), how far its access has come: the register of a burst that meets it, the bytes that a
MEM_WRITE has written, the MEM_DATA frames that a MEM_READ has sent. -/
structure HostFrame where
  src : BitVec 48
  bcast : Bool
  version : BitVec 4
  flags : Byte
  zone : Byte
  cls : Byte
  seq : W32
  ack : W32
  plen : H16
  addr : W64
  tag : W64
  payload : List Byte
  backlog : Nat
  cut : Option Nat
  deriving DecidableEq, Repr

/-- Why the MAC discarded a frame (R38, R39, R40). -/
inductive FilterReason
  | oversize | undersize | fcsError | fecUncorrectable | notAccepted
  deriving DecidableEq, Repr

/-- The dies that carry sensors and benchmarks (R421, R424): four of a channel, and the module's own. -/
inductive Die
  | dx (c : Fin 9) | gx (c : Fin 9) | mx (c : Fin 9) | px (c : Fin 9) | hx | hp | sxA | sxB
  deriving DecidableEq, Repr

/-- The clock domains (R395). -/
inductive Domain
  | arith (c : Fin 9) | gather (c : Fin 9) | mside (c : Fin 9) | hbma (c : Fin 9) | hbmb (c : Fin 9) | phot (c : Fin 9)
  | hmac | hub | hctl | scoreA | scoreB | srtc
  deriving DecidableEq, Repr

/-- The requester that an HBM or cache operation served (R313): a MEM_READ or MEM_WRITE of the host, a descriptor of a unit,
or a burst of a stream's BATCH_FETCH (R104). -/
inductive MemUser
  | host | unit (u : UnitId) | burst (st : Fin 4)
  deriving DecidableEq, Repr

/-- A received IDENT (R350). -/
structure IdentMsg where
  station : BitVec 14
  plane : Fin 8
  chan : BitVec 4
  epoch : BitVec 12
  feedTag : W32
  deriving DecidableEq, Repr

/-- A message of another station's plat controller (R376, R377, R382): it opens a copy session, answers the session this channel
opened, asks for the copy that this channel's store holds for it, or answers that it holds none for this channel. -/
inductive SessionMsg
  | request (station : BitVec 14)
  | answer (station : BitVec 14) (accepted : Bool) (feedTag : W32)
  | fetch (station : BitVec 14) (gen : Option W32)
  | noImage (station : BitVec 14)
  deriving DecidableEq, Repr

/-- One sample of a gauge (R430): quantity code, channel (15 for global), instance, and the sample as FP32 bits and as the
number of the bin it falls in. -/
structure GaugeSample where
  quantity : Byte
  chan : BitVec 4
  inst : Byte
  value : W32
  bin : Fin 32
  deriving DecidableEq, Repr

/-- What the supervisor collects in a second (R430): its gauge samples; and what the second has corrected without a retry: codewords of the
host link's FEC, and reads of each channel's stacks (R79, R313, R338; DESIGN CHOICE, log 72). -/
structure SecondReading where
  gauges : List GaugeSample
  fec : Nat
  ecc : List (Fin 9 × Fin 2 × Nat)
  deriving DecidableEq, Repr

/-- The commands of the block, in the table's order. -/
inductive Instr
  | regRead (f : HostFrame)
  | regWrite (f : HostFrame)
  | memWrite (f : HostFrame)
  | pfcRefresh (cls : Fin 2) (occ : Nat)
  | memRead (f : HostFrame) (failAt : Option Nat)
  | batch (f : HostFrame)
  | routePlan (f : HostFrame)
  | attest (f : HostFrame)
  | reportReady
  | ack (f : HostFrame)
  | pfcFrame (enable : BitVec 8) (quanta : List H16)
  | frameFiltered (r : FilterReason)
  | ethLinkDown
  | ethLinkUp
  | retxTimeout (seq : W32)
  | hostLostClear
  | outqRoom
  | coalTime (c : Fin 9)
  | sbRead (a : W32) (pec : Bool)
  | sbWrite (a : W32) (v : W32) (pec : Bool)
  | telem (q : Byte) (ch : Byte) (inst : Byte) (pec : Bool)
  | dynamicAddress (a : BitVec 7)
  | smbusTimeout
  | wakeN
  | sxCoreStop
  | enable (pg : Page) (on : Bool)
  | fence (pg : Page) (on : Bool)
  | drain (pg : Page)
  | drained (pg : Page)
  | reset (pg : Page)
  | resetDone (pg : Page)
  | errStatClear (pg : Page) (mask : W32)
  | errInject (pg : Page) (v : W32)
  | retryCntRead (pg : Page)
  | faultCntRead (pg : Page)
  | loRead (p : Path) (a : W32)
  | hiRead (p : Path) (a : W32)
  | loWrite (p : Path) (a : W32) (v : W32)
  | hiWrite (p : Path) (a : W32) (v : W32)
  | stakeVal (c : Fin 9) (w : Option W32)
  | allocData (c : Fin 9) (w : Option W32)
  | tableData (c : Fin 9) (w : Option W32)
  | cbenchReadData (c : Fin 9)
  | fbookReadData (p : Path)
  | cairnReadData (p : Path)
  | registerWrite (a : W32) (v : W32)
  | planeMapWrite (v : W32)
  | feedTagWrite (v : W32)
  | recover (mask : BitVec 9)
  | recoveryDone (c : Fin 9) (ok : Bool)
  | swap
  | stateReqActive (p : Path)
  | stateReqIdle (p : Path)
  | idleReached
  | stateReqDormant (p : Path)
  | stateReqStandby (p : Path)
  | leakClear (p : Path) (released : Bool)
  | tripSeen (p : Path) (clear : Bool)
  | inputMvRead (p : Path)
  | inputMaRead (p : Path)
  | surveyChannels (mask : BitVec 9)
  | surveyModule
  | surveyCancel
  | fbookClear (p : Path) (v : W32)
  | cairnRelease (mask : BitVec 10)
  | install (ch : BitVec 4) (area : BitVec 9) (comp : BitVec 3)
  | installComplete (readOk : Bool)
  | switch (comp : BitVec 3)
  | commit (comp : BitVec 3)
  | recordStatRead
  | attestStatRead
  | staleCntRead
  | dupCntRead
  | busyCnt0Read
  | busyCnt1Read
  | srcChangeCntRead
  | fecCorrCntRead
  | fecUncorrCntRead
  | fcsErrCntRead
  | oversizeCntRead
  | filterCntRead
  | pfcRxCntRead
  | pfcTxCntRead
  | portEnWrite (v : W32)
  | recall (id : Byte)
  | resetXferCntRead
  | abort (c : Fin 9) (id : W32)
  | resume (c : Fin 9) (mask : BitVec 4)
  | flush (c : Fin 9) (mask : BitVec 4)
  | park (c : Fin 9) (on : Bool)
  | rampCntRead (c : Fin 9)
  | domainStop (c : Fin 9) (d : Fin 6)
  | domainStart (c : Fin 9) (d : Fin 6)
  | arbModeChange (c : Fin 9)
  | lockLong (c : Fin 9) (owner : Fin 16)
  | lockLongCntRead (c : Fin 9)
  | outstandingRead (c : Fin 9)
  | firstInvalidRearm (c : Fin 9)
  | satCntRead (c : Fin 9)
  | invalidCntRead (c : Fin 9)
  | ovfCntRead (c : Fin 9)
  | closureExcessCntRead (c : Fin 9)
  | busyCntRead (c : Fin 9) (arr : Fin 2)
  | descErrCntRead (c : Fin 9)
  | indexRangeRearm (c : Fin 9)
  | structViolRearm (c : Fin 9)
  | indexRangeCntRead (c : Fin 9)
  | structViolCntRead (c : Fin 9)
  | planLateCntRead (c : Fin 9)
  | extraRoundCntRead (c : Fin 9)
  | eccCorrCntRead (c : Fin 9) (stack : Fin 2)
  | eccUncorrCntRead (c : Fin 9) (stack : Fin 2)
  | stackTempRead (c : Fin 9) (stack : Fin 2)
  | linkStatRead (c : Fin 9) (port : Fin 6)
  | replayCntRead (c : Fin 9) (port : Fin 6)
  | forceRx (c : Fin 9) (port : Fin 6) (fibres : BitVec 2) (wave : BitVec 3)
  | claim (c : Fin 9) (plane : Fin 8)
  | selectorSwitchDone (plane : Fin 8)
  | releaseIn (c : Fin 9) (areas : BitVec 2)
  | recopy (c : Fin 9)
  | descCreate (c : Fin 9) (st : Fin 4)
  | layoutCopy (c : Fin 9) (st : Fin 4)
  | seqTable (c : Fin 9) (st : Fin 4)
  | matmulPass (c : Fin 9) (st : Fin 4)
  | vector (c : Fin 9) (st : Fin 4)
  | gather (c : Fin 9) (st : Fin 4)
  | merge (c : Fin 9) (st : Fin 4)
  | compact (c : Fin 9) (st : Fin 4)
  | predict (c : Fin 9) (st : Fin 4)
  | bin (c : Fin 9) (st : Fin 4)
  | routeScore (c : Fin 9) (st : Fin 4)
  | routeReportCommit (c : Fin 9)
  | planDeadline (c : Fin 9) (ctx : Fin 4)
  | dispatch (c : Fin 9) (st : Fin 4)
  | collect (c : Fin 9) (st : Fin 4)
  | close (c : Fin 9) (st : Fin 4)
  | exchangeSend (c : Fin 9) (st : Fin 4)
  | exchangeRecv (c : Fin 9) (st : Fin 4)
  | reduce (c : Fin 9) (st : Fin 4)
  | reduceRegister (c : Fin 9)
  | reduceRendezvous (id : W32)
  | reduceTimeout (c : Fin 9) (id : W32)
  | update (c : Fin 9) (st : Fin 4)
  | platWrite (c : Fin 9) (st : Fin 4)
  | platRead (c : Fin 9) (st : Fin 4)
  | triRendezvous (id : W32)
  | triTimeout (id : W32)
  | platSession (c : Fin 9) (m : SessionMsg)
  | copyComplete (c : Fin 9) (second : Bool)
  | nandPageError (c : Fin 9) (program : Bool) (retryOk : Bool) (slot : Nat) (reserveGone : Bool)
  | loanPut (c : Fin 9) (st : Fin 4)
  | loanGet (c : Fin 9) (st : Fin 4)
  | offloadPut (c : Fin 9) (st : Fin 4)
  | offloadGet (c : Fin 9) (st : Fin 4)
  | stakeWait (c : Fin 9) (st : Fin 4)
  | stakeSignal (c : Fin 9) (st : Fin 4)
  | batchFetch (c : Fin 9) (st : Fin 4)
  | fetchBurst (c : Fin 9) (st : Fin 4)
  | stagedFeedStart (c : Fin 9) (u : UnitId)
  | commitRequest (c : Fin 9) (u : UnitId)
  | commitGrant (c : Fin 9) (arr : Fin 2)
  | descriptorCompletion (c : Fin 9) (u : UnitId)
  | fillMaxReached (c : Fin 9) (arr : Fin 2)
  | closureMaxWait (c : Fin 9) (arr : Fin 2)
  | closureCompare (c : Fin 9) (arr : Fin 2)
  | repeatResult (c : Fin 9) (arr : Fin 2) (r1EqN : Bool) (r2EqR1 : Bool) (r2EqN : Bool)
  | hbmUncorrectable (c : Fin 9) (stack : Fin 2)
  | hbmReread (c : Fin 9) (stack : Fin 2) (addr : BitVec 40) (ok : Bool) (answers : Bool) (user : MemUser)
  | hbmWriteCrc (c : Fin 9) (stack : Fin 2) (ok : Bool) (answers : Bool) (user : MemUser)
  | cacheEccError (c : Fin 9) (dirty : Bool) (ok : Bool) (user : MemUser)
  | stackTempChange (c : Fin 9) (stack : Fin 2) (temp : Byte)
  | mxUnresponsive (c : Fin 9)
  | flitReceive (c : Fin 9) (port : Fin 6) (flit : List Byte)
  | ident (c : Fin 9) (port : Fin 6) (m : IdentMsg)
  | creditInit (c : Fin 9) (port : Fin 6) (credits : List Nat)
  | credit (c : Fin 9) (port : Fin 6) (totals : List H16)
  | nak (c : Fin 9) (port : Fin 6) (seq : BitVec 12)
  | switchReq (c : Fin 9) (port : Fin 6) (fibre : Fin 2) (wave : Fin 5)
  | switchReady (c : Fin 9) (port : Fin 6) (fibre : Fin 2) (wave : Fin 5)
  | switchAt (c : Fin 9) (port : Fin 6) (fibre : Fin 2) (wave : Fin 5) (s : BitVec 12)
  | feedTag (c : Fin 9) (port : Fin 6) (tag : W32)
  | feedAck (c : Fin 9) (port : Fin 6) (tag : W32)
  | down (c : Fin 9) (port : Fin 6)
  | linkMsgRepeat (c : Fin 9) (port : Fin 6)
  | lossOfSignal (c : Fin 9) (port : Fin 6)
  | holdExpiry (c : Fin 9) (port : Fin 6)
  | windowWaitExpiry (c : Fin 9) (port : Fin 6)
  | marginLow (c : Fin 9) (port : Fin 6) (fibre : Fin 2) (wave : Fin 5)
  | laserLow (c : Fin 9) (port : Fin 6) (fibre : Fin 2) (wave : Fin 5)
  | waveLockLoss (c : Fin 9) (port : Fin 6) (fibre : Fin 2) (wave : Fin 5)
  | lightDetected (c : Fin 9) (port : Fin 6)
  | lockTimeout (c : Fin 9) (port : Fin 6) (fibre : Fin 2) (wave : Fin 5)
  | bringupRetry (c : Fin 9) (port : Fin 6)
  | trainingRetry (c : Fin 9) (port : Fin 6)
  | lockLoss (d : Domain) (relocks : Bool)
  | freqChange (d : Domain)
  | freqDrainTimeout (d : Domain)
  | benchmarkRead (readings : List (Die × List H16)) (samples : List GaugeSample)
  | datumWrite
  | surveyDue
  | resurvey (d : Die) (atEntry : List (List H16)) (atNext : List (List H16)) (fault : Bool)
  | opHours
  | epochRecord
  | powerOn (identOk : Bool) (datumBad : List Die)
  | loadTimeout (comp : BitVec 3) (ch : Option (Fin 9)) (retryOk : Bool) (otherOk : Bool)
  | heartbeatTimeout
  | uvTrip
  | uvRelease
  | ovTrip
  | ovRelease
  | coolantTrip
  | coolantRelease
  | leakTrip
  | inputLow
  | coolantWarn
  | phaseFail (rail : Fin 58)
  | thermalPark (c : Fin 9) (hot : Bool)
  | thermalTrip (d : Die)
  | nonHostTypeFrame (f : HostFrame) (typ : BitVec 4)
  | rampComplete (c : Fin 9) (arr : Fin 2)
  | gaugeSample (samples : SecondReading) (inputMv : H16) (inputMa : H16)
  | pauseQuantaExpiry (cls : Fin 2)
  | alwaysOnPowerLoss
  deriving DecidableEq, Repr

end Sys2Proof
end

