-- ==== Sys2Proof/Config.lean ====
section
/-! DEFINITION. What one module's manufacture fixes and what the spec leaves open. Every constant is opaque: no proof can see
its value. -/
namespace Sys2Proof

/-- A free value, drawn by the state's counter (DESIGN CHOICE, log 2). -/
opaque Config.free : Nat → W32

/-- The containers that manufacture wrote into flash, by type and target: header, body and signature block (R457, R470). -/
opaque Config.shippedFile : H16 → H16 → List Byte

/-- The SHA-384 hashes of the four vendor key sets in SX ROM (R458). -/
opaque Config.keySetHash : Nat → List Byte

/-- RSA-3072 and SLH-DSA verification of a header under a key (R457, R458): key, message, signature. -/
opaque Config.rsaVerify : List Byte → List Byte → List Byte → Bool
opaque Config.slhVerify : List Byte → List Byte → List Byte → Bool

/-- The two signatures an SX makes over a report (R471), RSA then SLH-DSA; the model keeps the first 384 and 16,224 bytes. -/
opaque Config.rsaSign : Bool → List Byte → List Byte
opaque Config.slhSign : Bool → List Byte → List Byte

/-- What a repair record of a type, target and generation gives its block's repair register fields (R193, R337, R338): the spec
does not lay out record bodies. -/
opaque Config.repairFields : H16 → H16 → Nat → W32

/-- A rating table's KMAX and ALLOW, by target and generation (R426). -/
opaque Config.ratingKmax : H16 → Nat → BitVec 4
opaque Config.ratingAllow : H16 → Nat → Nat

/-- Which of the FP32 values within one unit in the last place of the exact result the fixed design of a VECTOR function
returns (R184), by function and operand: the spec bounds the result and does not fix it. -/
opaque Config.ulpPick : Nat → W32 → Fin 3

/-- The fixed hash of address bits [36:8] that names a cache line's set (R318): the spec does not give it. -/
opaque Config.cacheSet : Nat → BitVec 16

/-- What a read of an address outside the channel-local map gives, where no rule refuses it (R310, log 12). -/
opaque Config.outsideByte : Nat → Byte

/-- The sideband strap value read on SB_ADDR2 to SB_ADDR0 (R483). -/
opaque Config.sbStrap : BitVec 3

end Sys2Proof
end

