-- ==== Sys2Proof/Machine/State.lean ====
section
/-! DEFINITION. The state of the block, as plain data: everything the spec gives the module, and the queue of waiting
commands. Sparse tables are lists of (key, value) pairs; a key that is not listed holds the table's default. -/
namespace Sys2Proof.Machine

/-! ## Pages and registers -/

/-- The common page header of one page (R84): the registers whose bits the block keeps. BLK_ID, BLK_REV and CLK_DOMAIN are
computed. `draining` is the drain in progress that BLK_CTRL.DRAIN starts (R404). -/
structure Hdr where
  enable : Bool
  fence : Bool
  draining : Bool
  drained : Bool
  resetting : Bool
  faulted : Bool
  errStat : W32
  errEnable : W32
  errFirst : W32
  errInject : W32
  retryCnt : W32
  faultCnt : W32
  epoch : W32
  deriving DecidableEq, Repr

/-! ## Host port -/

/-- A frame the module sends (R44). -/
structure TxFrame where
  dst : BitVec 48
  typ : BitVec 4
  cls : Fin 2
  flags : Byte
  zone : Byte
  seq : W32
  ack : W32
  status : H16
  addr : W64
  tag : W64
  payload : List Byte
  deriving DecidableEq, Repr

/-- What the module puts on the wire: an ICP frame, with the priority of its tag if it is tagged (R41), or a PFC frame naming
a priority and its pause quanta (R43). -/
inductive Sent
  | icp (f : TxFrame) (pcp : Option (BitVec 3))
  | pfc (priority : BitVec 3) (quanta : H16)
  deriving DecidableEq, Repr

/-- A module-originated frame in the out-queue (R58): the frame, how many sendings the present attempt has begun, whether it was ever
sent, the sending that still waits and whether that one carries RETX, and for an OFFLOAD_PUT the channel memory its payload is read from
again (R304). -/
structure OutqEntry where
  frame : TxFrame
  tries : Nat
  sentEver : Bool
  due : Option Bool
  src : Option (Fin 9 × Nat × Nat)
  deriving DecidableEq, Repr

/-- An event record (R68). -/
structure EventRec where
  code : H16
  zone : Byte
  severity : Byte
  block : H16
  inst : Byte
  time : Nat
  deriving DecidableEq, Repr

/-- A completion record (R113), with its place in its stream's issue order (R116). -/
structure CompRec where
  no : Nat
  id : W32
  status : H16
  flags : H16
  opcode : Byte
  stream : Fin 4
  fetched : Bool
  detail : W32
  time : Nat
  deriving DecidableEq, Repr

/-- An attestation report being generated (R471, R472). -/
structure AttestReq where
  seq : W32
  nonce : List Byte
  src : BitVec 48
  tag : W64
  deriving DecidableEq, Repr

/-- The ICP engine and the MAC: the duplicate window (R50), the response cache (R52), the out-queue (R58 to R60), the ingress
buffers (R43) and the pause state of the two classes (R40). -/
structure IcpS where
  rxSeqHigh : W32
  marks : List W32
  cache : List (W32 × TxFrame)
  attestCache : Option (W32 × List TxFrame)
  attestReq : Option AttestReq
  txSeq : W32
  txAcked : W32
  outq : List OutqEntry
  hostLost : Bool
  heldEvents : List EventRec
  linkUp : Bool
  paused : Vector Bool 2
  txWait : Vector (List TxFrame) 2
  ingress : Vector Nat 2
  xoff : Vector Bool 2
  lastSrc : Option (BitVec 48)
  deriving DecidableEq, Repr

/-! ## Descriptors -/

/-- A descriptor in a queue or a fetch buffer: its 64 bytes and the abort mark of R118. -/
structure QDesc where
  bytes : List Byte
  aborted : Bool
  deriving DecidableEq, Repr

/-- An active BATCH_FETCH (R103): its descriptor, the next address to read, the descriptors not yet fetched, those that
issued, the fetch buffer, whether its first descriptor has issued (its commit point), whether a late abort was registered
(R118), its place in the stream's issue order, and whether a burst of it failed, so that it has completed while the descriptors fetched
before stay buffered (R104). -/
structure Fetch where
  desc : List Byte
  fetched : Bool
  next : Nat
  remaining : Nat
  issued : Nat
  buf : List QDesc
  committed : Bool
  abortLate : Bool
  no : Nat
  failed : Bool
  deriving DecidableEq, Repr

/-- A stream (R102, R103, R119): its queue, its active BATCH_FETCH, and whether it is halted. -/
structure Stream where
  queue : List QDesc
  fetch : Option Fetch
  halted : Bool
  deriving DecidableEq, Repr

/-- Where an issued descriptor stands in its unit (R106): waiting outside the two slots, staged, feeding, or fed. -/
inductive Phase
  | waiting | staged | feeding | fed
  deriving DecidableEq, Repr

/-- What a descriptor does once its commit is granted, held until then (R117). `units` are the aligned 64-byte units of a store, each with
the bytes written in it, in the order in which they are written (R211, R215); `drainSat` and `drainNan` are what an array's drain finds as it
converts (R140, R162). -/
inductive Eff
  | store (addr : Nat) (bytes : List Byte)
  | block (puts : List (Nat × List Byte))
  | units (l : List (List (Nat × List Byte)))
  | sat (n : Nat)
  | lateSat (n : Nat)
  | drainSat (n : Nat)
  | drainNan
  | invalid (products : Nat)
  | nanResult
  | overflow (n : Nat)
  | firstInvalid (id : W32) (m : Nat) (n : Nat) (chunk : Nat)
  | busy (arr : Fin 2) (cycles : Nat)
  | pass (arr : Fin 2)
  | indexRange (n : Nat) (first : W32)
  | structViol (n : Nat) (first : W32)
  | mispredict (n : Nat)
  | remote (chan : Fin 9) (addr : Nat) (bytes : List Byte)
  | eligible (arr : Fin 2) (narrow : List W32) (rmax : List Int)
  | tensor (handle : Nat) (img : Option (List Byte)) (aliased : Bool)
  | scaleHistory (addr : Nat) (amax : W32)
  | seqTable (img : List Byte)
  | held (arr : Fin 2) (m : Nat) (n : Nat) (vals : List W32)
  | gradBad
  | report (ctx : Fin 4) (bytes : List Byte)
  deriving DecidableEq, Repr

/-- An entry of the sequence table (R121). -/
structure SeqEntry where
  tokenStart : W32
  tokenCount : W32
  posBase : W32
  seqTag : W32
  valid : Bool
  causal : Bool
  continues : Bool
  deriving DecidableEq, Repr

/-- A handle's entry (R195, R199): its 128-byte image and the ALIASED mark. -/
structure TensorEntry where
  img : List Byte
  aliased : Bool
  deriving DecidableEq, Repr

/-- What a descriptor copies at its issue (R121, R196, R246, R273, R282): the tensor and sequence tables, the registers SEED, STEP,
MODE, AUDIT_RATE, CLOSURE_RATE and TOKEN_CAP, the history records of its destinations, and the count it read (R225). -/
structure Env where
  tensors : List (Nat × Option TensorEntry)
  seqTable : Vector SeqEntry 16
  seed : W64
  step : W64
  nearest : Bool
  auditRate : Nat
  closureRate : W32
  tokenCap : Nat
  hist : List (Nat × List Byte)
  live : Nat
  deriving DecidableEq, Repr

/-- An issued descriptor that has not completed (R106, R117): its bytes, stream and unit, its place in issue order, its phase,
whether it is committed, granted and finished, and the outcome and effects it holds. -/
structure Fly where
  desc : List Byte
  stream : Fin 4
  fetched : Bool
  no : Nat
  unit : UnitId
  env : Env
  phase : Phase
  begun : Bool
  committed : Bool
  granted : Bool
  done : Bool
  abortLate : Bool
  status : H16
  flags : H16
  detail : W32
  effs : List Eff
  deriving DecidableEq, Repr

/-! ## Tensors, arrays, routing -/

/-- How an array's activity stands (R189 to R191): at rest since its reset, active, ramping, or ramped down. -/
inductive Ramp
  | full | rampDown | rest | parked | rampUp
  deriving DecidableEq, Repr

/-- An accumulator set held by an array between passes (R176): its shape and its FP32 values, row by row. -/
structure HeldSet where
  m : Nat
  n : Nat
  vals : List W32
  deriving DecidableEq, Repr

/-- A pending closure sample (R285 to R290): the issue number of the sampled pass, the narrow results and the largest reference
exponent of each element, whether the work is presented before the next pass, and whether the sample was in excess. -/
structure Closure where
  no : Nat
  narrow : List W32
  rmax : List Int
  presented : Bool
  inExcess : Bool
  err : Int
  deriving DecidableEq, Repr

/-- What the operand store of an array holds (R178): the pass that feeds it, the images of its operands, and the bytes read for each. -/
structure Operands where
  desc : List Byte
  aImg : List Byte
  bImg : List Byte
  aBytes : List (Nat × List Byte)
  bBytes : List (Nat × List Byte)
  deriving DecidableEq, Repr

/-- An array of a channel: its held set, the accumulator set in turn, its ramp, the remainder of BUSY_CNT, its pending closure
work, whether a sample fell due while such work was pending (R285), the grants on their way to it: the EPOCH that each carries and the
issue number of its pass (R117, R407), the value of `CPWR.FILL_CTRL` in force at it (R191), its operand store (R178), and the uncommitted
pass whose set has been discarded before it is held (R176). -/
structure ArrayS where
  heldSet : Option HeldSet
  parity : Bool
  ramp : Ramp
  busyRem : Nat
  owed : Bool
  closure : Option Closure
  grants : List (W32 × Nat)
  fillCtl : W32
  operands : Option Operands
  dropped : Option Nat
  deriving DecidableEq, Repr

/-- One half of a routing context (R260, R261): the current round, the round count R once round 0 has been collected, and how many
of its COLLECTs have completed. -/
structure RouteHalf where
  round : Nat
  rounds : Nat
  finished : Nat
  deriving DecidableEq, Repr

/-- A routing context (R247): what its ROUTE_SCORE gave it, whether its plan deadline is running and whether that deadline was
zero, whether its DISPATCH has adopted a plan. -/
structure RouteCtx where
  isOpen : Bool
  layer : H16
  experts : Nat
  tokens : Nat
  token0 : Nat
  reportId : W32
  running : Bool
  noWait : Bool
  dispatched : Bool
  halves : Vector RouteHalf 2
  deriving DecidableEq, Repr

/-- The routing unit of a channel: its contexts, the plan buffer with the bytes received so far and whether they are a whole plan
(R253), the report counter (R250). -/
structure RouteS where
  ctxs : Vector RouteCtx 4
  planBuf : List Byte
  planDone : Bool
  reportNo : W32
  deriving DecidableEq, Repr

/-! ## Traverse -/

/-- A flit: the fields of its envelope (R352) and its payload. -/
structure Flit where
  dest : BitVec 14
  src : BitVec 14
  lane : Fin 4
  kind : Fin 4
  window : Nat
  cls : Fin 2
  offset : Nat
  len : Nat
  seq : BitVec 12
  payload : List Byte
  deriving DecidableEq, Repr

/-- A flit waiting in a port: the issue number of the local send it belongs to, if any; for a relayed flit its arrival port and
the class it occupies there. A flit of the plat controller has neither. -/
structure TxFlit where
  flit : Flit
  owner : Option Nat
  src : Option (Fin 6)
  cls0 : Fin 2
  deriving DecidableEq, Repr

/-- A traverse port's link state (R365). -/
inductive LinkState
  | off | training | active | hold | fenced
  deriving DecidableEq, Repr

/-- A message a port goes on repeating until it is answered (R351). -/
structure LinkMsg where
  code : Byte
  body : List Byte
  left : Option Nat
  deriving DecidableEq, Repr

/-- A switch-over of a wavelength to its fibre's spare that runs at a port (R346, R347): whether this end receives, whether the wavelength has
lost its lock, and the link sequence from which the spare carries the stripe, once SWITCH_AT has named it. -/
structure WaveSwitch where
  fibre : Fin 2
  wave : Fin 5
  rx : Bool
  lost : Bool
  at_ : Option (BitVec 12)
  deriving DecidableEq, Repr

/-- A traverse port (R339 to R365): link state, whether light is received, identity of the peer and whether its IDENT passed since
training began, queued flits, replay buffer, link sequence numbers, the replay awaited (and whether it answers a lost lock) or
made, how many data flits are to be replayed and whether an injection failed the first, the acknowledgement last told, credits held per lane
and class (lane-major), totals counted from the peer, totals returned to it, told to it in envelopes, and sent in CREDIT, received flits held
for an unposted window, the switch-overs running, consecutive bring-up failures, the turns of arbitration, the link messages it
repeats, and the flits it has put on the line. -/
structure Port where
  state : LinkState
  light : Bool
  identOk : Bool
  peer : Option (BitVec 14 × BitVec 4 × BitVec 12)
  txq : List TxFlit
  replay : List TxFlit
  nextSeq : BitVec 12
  ackedSeq : BitVec 12
  rxSeq : BitVec 12
  nakking : Bool
  nakLock : Bool
  replayedOnce : Bool
  retryLeft : Nat
  retryInj : Bool
  ackTold : BitVec 12
  credits : List Nat
  creditSeen : List H16
  creditRet : List H16
  creditTold : List H16
  creditSent : List H16
  creditMore : Bool
  rxHeld : List Flit
  switching : List WaveSwitch
  failures : Nat
  turns : List Nat
  redTurn : Bool
  platWait : Nat
  msgs : List LinkMsg
  line : List (List Byte)
  deriving DecidableEq, Repr

/-- A wavelength has lost its lock, and its switch-over has not completed (R347). -/
def Port.lockLost (q : Port) : Bool := q.switching.any fun w => w.rx && w.lost

/-- A posted receive window (R358 to R361): its descriptor, mode and places, the bytes counted, the members whose segment is
complete, and for each source station the routing header of the segment arriving. -/
structure Window where
  no : Nat
  mode : Nat
  half : Fin 2
  base : Nat
  length : Nat
  expect : Nat
  hdrTable : Nat
  slotRows : Nat
  g : Nat
  arrStake : Option (Nat × H16)
  count : Nat
  segs : List Nat
  heads : List (Nat × List Byte)
  round : Nat
  deriving DecidableEq, Repr

/-! ## Plat store -/

/-- A plat image (R367, R375): its header fields, its segments and their data, its shard hashes. -/
structure PlatImage where
  gen : W32
  complete : Bool
  plane : Fin 8
  chan : Fin 9
  station : BitVec 14
  time : Nat
  step : W64
  seed : W64
  segs : List (Nat × Nat × Nat × Bool)
  data : List (List Byte)
  hashes : List (List Byte)
  readable : Bool
  deriving DecidableEq, Repr

/-- An inbound area (R367, R377): the station it is bound to and the plane of that station, its newest complete copy, and the bytes
of the copy being received. -/
structure Inbound where
  bound : Option (BitVec 14)
  plane : Fin 8
  copy : Option PlatImage
  receiving : Option (List Byte)
  deriving DecidableEq, Repr

/-- A triangulating PLAT_READ that waits for its rendezvous, or that has met the others there and has not completed (R386, R388). -/
structure TriWait where
  id : W32
  planes : Byte
  plane : Fin 8
  gen : W32
  hashes : List (List Byte)
  recorded : List (List Byte)
  vouch : Bool
  chan : Fin 9
  no : Nat
  met : Bool
  deriving DecidableEq, Repr

/-- A copy going out (R376): to which partner register's station, of which generation, and whether its session has been accepted. -/
structure CopyOut where
  second : Bool
  station : BitVec 14
  gen : W32
  sending : Bool
  deriving DecidableEq, Repr

/-- The plat store and its controller (R367 to R393). `fetched` is what a PARTNER read has received so far. -/
structure PlatS where
  own : Vector (Option PlatImage) 3
  inbound : Vector Inbound 2
  writing : Option (Fin 3)
  copyOut : Option CopyOut
  fetched : Option (BitVec 14 × List Byte)
  copyQueue : List Bool
  copyValid : Vector Bool 2
  cofed : Vector Bool 2
  deriving DecidableEq, Repr

/-! ## Channel memory -/

/-- A line of the channel cache (R318, R319): which of its four 64-byte sectors are valid, and which are dirty. -/
structure CLine where
  valid : BitVec 4
  dirty : BitVec 4
  deriving DecidableEq, Repr

/-- Equal transactions that a Meridian port has requested one after the other (R324): how many, their direction and beats, whether they
carry LOCK, whether they end a locked sequence (R329), the stacks their data come from (R311, R317), the page that requests and its EPOCH,
which the reply carries back (R407), the descriptor they serve, and when they were requested. -/
structure MRun where
  count : Nat
  write : Bool
  beats : Nat
  lock : Bool
  final : Bool
  origin : BitVec 2
  page : Page
  epoch : W32
  owner : Option Nat
  arrival : Nat
  deriving DecidableEq, Repr

/-- A transfer on the Meridian's data path: its port, its transaction, and the beats it has driven (R324, R326). -/
structure MTransfer where
  port : Fin 16
  run : MRun
  beat : Nat
  deriving DecidableEq, Repr

/-- The Meridian and its tracker (R323 to R334): each port's requests that have not been granted, in order; the tracker entries each port
holds; the transfer driving now and the one granted the next tenure; the port granted last and, for each rank, the port of that rank
granted last; the lock in force and whether it has been reported as long; the peak of the tracker's occupancy; the replies that have not
reached their requesters, each with its page, its epoch and how many there are. -/
structure MeridS where
  queue : Vector (List MRun) 16
  held : Vector Nat 16
  cur : Option MTransfer
  next : Option MTransfer
  owner : Fin 16
  rr : Vector (Fin 16) 4
  lock : Option (Fin 16)
  lockLong : Bool
  peak : Nat
  arrivals : Nat
  replies : List (Page × W32 × Nat)
  deriving DecidableEq, Repr

/-! ## Channel -/

/-- The state of a channel (R25). -/
inductive Role
  | off | serving | spare | lending | filling | fenced | failed
  deriving DecidableEq, Repr

/-- A channel's benchmarks (R424 to R426, R439): latest readings with their offset, data collected for the datum, the datum,
offsets and entries in force, rating-table limits. -/
structure BenchS where
  latest : List (Nat × (H16 × BitVec 4))
  samples : List (Nat × List H16)
  datum : List (Nat × H16)
  offset : Vector (BitVec 4) 4
  entryDx : Nat
  entryGx : Nat
  entryMx : Nat
  done : BitVec 4
  bad : BitVec 4
  hours : Nat
  aged : Bool
  tables : Vector Nat 4
  deriving DecidableEq, Repr

/-- The settings of a channel's dies before the survey that is under way (R428). -/
structure SurveyBase where
  offset : Vector (BitVec 4) 4
  entryDx : Nat
  entryGx : Nat
  entryMx : Nat
  deriving DecidableEq, Repr

/-- A channel. `platPause` holds from the completion of a PLAT_WRITE that leaves nothing issued until the next issue (R35);
`entryNow` are the frequency entries in force of ARITH, GATHER and MSIDE (R397); `domOnce` the domains that relocked once (R410).
`filling` is the fill that a power loss leaves to be started again (R392). `cache` lists the lines that hold a valid sector, by line number;
`writeBack` names the stacks whose held lines are being written back after a release (R317). -/
structure Chan where
  role : Role
  lasting : Bool
  answers : Bool
  mem : List Host.Cell
  stakes : List (Nat × W32)
  streams : Vector Stream 4
  seqTable : Vector SeqEntry 16
  rrChan : Fin 4
  rrUnit : List (UnitId × Fin 4)
  fly : List Fly
  issueNo : Nat
  recs : List CompRec
  recsWait : List CompRec
  filling : Bool
  surveyHold : Bool
  surveyed : BitVec 4
  surveyFrom : Option SurveyBase
  platPause : Bool
  entryNow : Vector Nat 3
  tensors : List (Nat × Option TensorEntry)
  alloc : List (Nat × List W32)
  allocHeld : List (Nat × List W32)
  arrays : Vector ArrayS 2
  eligible : Nat
  route : RouteS
  windows : List (Nat × Window)
  localHeld : List TxFlit
  ports : Vector Port 6
  bearing : List (Nat × W32)
  plat : PlatS
  cache : List (Nat × CLine)
  writeBack : BitVec 2
  merid : MeridS
  domRun : Vector Bool 6
  domLost : Vector Bool 6
  domOnce : Vector Bool 6
  bench : BenchS
  thermalPark : Bool
  deriving DecidableEq, Repr

/-! ## Module -/

/-- A loan (R306, R307): an inactive identifier is not listed; `recalled` marks one recalled and not created anew. -/
structure Loan where
  plane : Fin 8
  base : Nat
  length : Nat
  recalled : Bool
  deriving DecidableEq, Repr

/-- A participant of a reduction (R300): plane, channel, issue number, mode and sizes. -/
structure RedPart where
  plane : Fin 8
  chan : Fin 9
  no : Nat
  gather : Bool
  planes : Byte
  length : Nat
  finished : Bool
  deriving DecidableEq, Repr

/-- A reduction in flight at the hub (R300). -/
structure Reduction where
  id : W32
  parts : List RedPart
  met : Bool
  deriving DecidableEq, Repr

/-- An outstanding OFFLOAD_GET (R305). -/
structure OffGet where
  chan : Fin 9
  no : Nat
  addr : Nat
  length : Nat
  tag : W64
  count : Nat
  deriving DecidableEq, Repr

/-- An OFFLOAD_PUT in flight (R304): its source, its tag, the bytes already framed, and the module sequence of the last frame
made. -/
structure OffPut where
  chan : Fin 9
  no : Nat
  addr : Nat
  length : Nat
  tag : W64
  framed : Nat
  last : W32
  deriving DecidableEq, Repr

/-- The hub's transactions (R28 to R30, R299 to R307). -/
structure HubS where
  reductions : List Reduction
  waiting : List (W32 × RedPart)
  loans : List (Nat × Loan)
  gets : List OffGet
  puts : List OffPut
  tris : List TriWait
  deriving DecidableEq, Repr

/-- A cairn entry (R435). -/
structure CairnE where
  time : Nat
  code : H16
  kind : Byte
  flags : Byte
  block : H16
  zone : Byte
  inst : Byte
  detail : List Byte
  deriving DecidableEq, Repr

/-- A cairn ring (R435, R436): its entries, oldest first, the freeze record if it is frozen, and the entries lost. -/
structure Ring where
  entries : List CairnE
  frozen : Option (Nat × H16 × Byte × W32 × W32)
  lost : Nat
  deriving DecidableEq, Repr

/-- A flash slot of the cairn (R436), with the order in which it was written. -/
structure CairnSlot where
  ring : Nat
  content : Ring
  order : Nat
  deriving DecidableEq, Repr

/-- A gauge of the open epoch (R430). -/
structure Gauge where
  quantity : Byte
  chan : BitVec 4
  inst : Byte
  count : W32
  least : W32
  greatest : W32
  latest : W32
  bins : List W32
  deriving DecidableEq, Repr

/-- The field book (R429 to R434): its records, its sequence, what was dropped, and the open epoch's accumulations: gauges,
per-page (transients, lasting, stale replies) and per-channel totals. -/
structure BookS where
  records : List (List Byte)
  seq : W32
  full : Bool
  dropped : Nat
  gauges : List Gauge
  counters : List (Nat × (Nat × Nat × Nat))
  totals : Vector (List Nat) 9
  deriving DecidableEq, Repr

/-- An image or record copy in flash (R457): type, target, security version, generation, the vendor key set that signed it, the container
itself, and whether it was written whole, having passed R458. -/
structure Container where
  typ : H16
  target : H16
  svn : Nat
  gen : Nat
  key : Nat
  file : List Byte
  valid : Bool
  deriving DecidableEq, Repr

/-- The boot and security function (R457 to R476). -/
structure SecS where
  slotA : Vector Container 6
  slotB : Vector Container 6
  active : BitVec 6
  preferred : BitVec 6
  rollback : Vector Nat 6
  revoked : BitVec 4
  floors : List (Nat × Nat)
  records : List (Container × Container)
  inForce : List Container
  rejected : Nat
  installing : Option (BitVec 4 × BitVec 9 × BitVec 3)
  result : BitVec 3
  identOk : Bool
  keySx : Bool
  reports : Nat
  sxActive : Bool
  standbyOk : Bool
  faultedA : Bool
  faultedB : Bool
  deriving DecidableEq, Repr

/-- The power state of the module (R445); `unpowered` has no valid input. -/
inductive Power
  | unpowered | standby | active | idle | dormant
  deriving DecidableEq, Repr

/-- The power function and the always-on domain (R442 to R456, R483 to R486). `wakePending` is a wake taken in Standby and whether
it names Dormant; `idleWanted` an accepted Idle request that awaits the end of a plat pause (R447); `pendingNotes` are the trips of Standby that the next start of the SX core reports (R451). -/
structure PwrS where
  power : Power
  changing : Bool
  idleWanted : Bool
  uv : Bool
  ov : Bool
  coolant : Bool
  leak : Bool
  wakeSrc : BitVec 3
  tripSeen : Bool
  alert : Bool
  pendingNotes : List (H16 × Byte)
  wakePending : Option Bool
  inputMv : H16
  inputMin : H16
  inputMa : H16
  inputPeak : H16
  opHours : W32
  powerCycles : W32
  phasesLost : List (Nat × Nat)
  lastRail : Nat
  coreRunning : Bool
  dynAddr : Option (BitVec 7)
  sbResp : Option (List Byte)
  deriving DecidableEq, Repr

/-- A claim in progress (R389): channel, plane. -/
structure ClaimS where
  chan : Fin 9
  plane : Fin 8
  deriving DecidableEq, Repr

/-- The supervisor's state: planes, selectors, claims, recoveries, surveys, frequency changes, module benchmarks. -/
structure SupvS where
  planeMap : W32
  onSpare : BitVec 8
  switching : BitVec 8
  feedTag : W32
  claim : Option ClaimS
  recovering : BitVec 9
  surveyPending : BitVec 10
  surveyRunning : BitVec 10
  surveyAsked : BitVec 10
  lastSurveyAll : Nat
  lastSurvey : W32
  hubEntry : Nat
  hubNow : Nat
  modOffset : Vector (BitVec 4) 3
  modSamples : List (Nat × List H16)
  modDatum : List (Nat × H16)
  modDatumDone : Bool
  modAged : Bool
  modBad : BitVec 3
  hubTable : Nat
  freqWait : List Domain
  hmacRun : Vector Bool 6
  hmacLost : Vector Bool 6
  hmacOnce : Vector Bool 6
  deriving DecidableEq, Repr

/-- The module. `draws` is the model's own counter of free values taken (no part of the spec's state); `sent` is what the
module has put on the host link and `regOut` the status and value of the last single register access, both the model's view of
the outputs. -/
structure State where
  pending : List Instr
  refCycles : Nat
  draws : Nat
  hdrs : List (Nat × Hdr)
  regs : List (Nat × W32)
  loLatch : List (Nat × Option W32)
  loHeld : List (Nat × Option W32)
  regOut : Option (H16 × W32)
  sent : List Sent
  icp : IcpS
  chans : Vector Chan 9
  hub : HubS
  rings : Vector Ring 10
  slots : List CairnSlot
  book : BookS
  sec : SecS
  pwr : PwrS
  supv : SupvS
  deriving DecidableEq, Repr

/-- How the model stops with a fault: it never does. Every command of the table has an effect in every state. -/
inductive Fault
  deriving DecidableEq, Repr

/-- How the model refuses. -/
inductive Refusal
  /-- The command has no meaning in the model yet. Raised by the arms of `exec` only. Safe. -/
  | notModelled (mnemonic : String)
  deriving DecidableEq, Repr

/-! ## The state at reset -/

/-- A page header at module power-on (R84): disabled, fenced, error enables 0x6, everything else zero. -/
def Hdr.reset : Hdr :=
  ⟨false, true, false, false, false, false, 0, 6, 0, 0, 0, 0, 0⟩

def IcpS.reset : IcpS :=
  { rxSeqHigh := 0, marks := [], cache := [], attestCache := none, attestReq := none, txSeq := 1, txAcked := 0,
    outq := [], hostLost := false, heldEvents := [], linkUp := false,
    paused := .replicate 2 false, txWait := .replicate 2 [], ingress := .replicate 2 0, xoff := .replicate 2 false,
    lastSrc := none }

def Stream.reset : Stream := ⟨[], none, false⟩

def SeqEntry.invalid : SeqEntry := ⟨0, 0, 0, 0, false, false, false⟩

def ArrayS.reset : ArrayS := ⟨none, false, .rest, 0, false, none, [], 0x0200000C, none, none⟩

def RouteHalf.reset : RouteHalf := ⟨0, 0, 0⟩

def RouteCtx.closed : RouteCtx := ⟨false, 0, 0, 0, 0, 0, false, false, false, .replicate 2 .reset⟩

/-- The routing unit at reset: contexts closed, no plan, reports numbered from 1 (R250). -/
def RouteS.reset : RouteS := ⟨.replicate 4 .closed, [], false, 1⟩

def Port.reset : Port :=
  { state := .off, light := false, identOk := false, peer := none, txq := [], replay := [], nextSeq := 1, ackedSeq := 0, rxSeq := 0,
    nakking := false, nakLock := false, replayedOnce := false, retryLeft := 0, retryInj := false, ackTold := 0, credits := List.replicate 8 0, creditSeen := List.replicate 8 0,
    creditRet := List.replicate 8 0, creditTold := List.replicate 8 0, creditSent := List.replicate 8 0, creditMore := false,
    rxHeld := [], switching := [], failures := 0, turns := List.replicate 4 0, redTurn := false, platWait := 0,
    msgs := [], line := [] }

def Inbound.empty : Inbound := ⟨none, 0, none, none⟩

def PlatS.empty : PlatS :=
  ⟨.replicate 3 none, .replicate 2 .empty, none, none, none, [], .replicate 2 false, .replicate 2 false⟩

def BenchS.new : BenchS :=
  { latest := [], samples := [], datum := [], offset := .replicate 4 0, entryDx := 0, entryGx := 0, entryMx := 0,
    done := 0, bad := 0, hours := 0, aged := false, tables := .replicate 4 0 }

/-- The Meridian with nothing requested (R336): each rank's round-robin order starts at port 0 (DESIGN CHOICE, log 70). -/
def MeridS.reset : MeridS :=
  { queue := .replicate 16 [], held := .replicate 16 0, cur := none, next := none, owner := 0, rr := .replicate 4 15, lock := none,
    lockLong := false, peak := 0, arrivals := 0, replies := [] }

/-- A channel that is OFF: memory lists nothing (R492: every byte reads zero until written), every table empty. -/
def Chan.off : Chan :=
  { role := .off, lasting := false, answers := false, mem := [], stakes := [], streams := .replicate 4 .reset,
    seqTable := .replicate 16 .invalid, rrChan := 0, rrUnit := [], fly := [], issueNo := 0, recs := [], recsWait := [],
    filling := false, surveyHold := false, surveyed := 0, surveyFrom := none, platPause := false,
    entryNow := .replicate 3 0, tensors := [], alloc := [], allocHeld := [],
    arrays := .replicate 2 .reset, eligible := 0, route := .reset, windows := [], localHeld := [], ports := .replicate 6 .reset, bearing := [],
    plat := .empty, cache := [], writeBack := 0, merid := .reset, domRun := .replicate 6 false, domLost := .replicate 6 false,
    domOnce := .replicate 6 false, bench := .new, thermalPark := false }

def HubS.reset : HubS := ⟨[], [], [], [], [], []⟩

def Ring.empty : Ring := ⟨[], none, 0⟩

/-- The field book of a new module: no record (DESIGN CHOICE, log 7). -/
def BookS.new : BookS := ⟨[], 0, false, 0, [], [], .replicate 9 (List.replicate 8 0)⟩

/-- A container as shipped: generation 1, security version 0, key set 0, valid (DESIGN CHOICE, log 7). -/
def Container.shipped (typ target : H16) : Container := ⟨typ, target, 0, 1, 0, Config.shippedFile typ target, true⟩

/-- No container. -/
def Container.none : Container := ⟨0, 0, 0, 0, 0, [], false⟩

/-- The 85 records of a module in full service (R472): the identity record, nine records for each channel, and the rating
tables of HX, SX A and SX B, in the order of type and then target (R471). -/
def shippedRecords : List (Container × Container) :=
  let per (typ : Nat) (insts : List Nat) : List (Container × Container) :=
    (List.range 9).flatMap fun c => insts.map fun i =>
      (.shipped (BitVec.ofNat 16 typ) (BitVec.ofNat 16 (16 * i + c)), .none)
  [(.shipped 0x0100 0xF, .none)] ++ per 0x0101 [0, 1] ++ per 0x0102 [0] ++ per 0x0103 [0, 1] ++ per 0x0104 [0, 1, 2, 3] ++
    [0, 2, 3].map fun i => (.shipped 0x0104 (BitVec.ofNat 16 (16 * i + 15)), .none)

/-- The generation floors of a new module: each record shipped was installed (R462). -/
def shippedFloors : List (Nat × Nat) :=
  let at_ (typ inst : Nat) (targets : List Nat) : List (Nat × Nat) := targets.map fun c => (typ * 65536 + 16 * inst + c, 1)
  let per (typ : Nat) (insts : List Nat) : List (Nat × Nat) := insts.flatMap fun i => at_ typ i (List.range 9)
  at_ 0x100 0 [15] ++ per 0x101 [0, 1] ++ per 0x102 [0] ++ per 0x103 [0, 1] ++
    at_ 0x104 0 (List.range 9 ++ [15]) ++ per 0x104 [1] ++ at_ 0x104 2 (List.range 9 ++ [15]) ++ at_ 0x104 3 (List.range 9 ++ [15])

/-- The security function of a new module (DESIGN CHOICE, log 7): six images in slot A, nothing in slot B, the 85 records. -/
def SecS.new : SecS :=
  { slotA := .ofFn fun i => .shipped (BitVec.ofNat 16 (i.val + 1)) 0xF, slotB := .replicate 6 .none,
    active := 0, preferred := 0, rollback := .replicate 6 0, revoked := 0, floors := shippedFloors, records := shippedRecords,
    inForce := [], rejected := 0, installing := .none, result := 0, identOk := false, keySx := false, reports := 0,
    sxActive := false, standbyOk := false, faultedA := false, faultedB := false }

/-- The power function before any input is applied (R445, R456). -/
def PwrS.new : PwrS :=
  { power := .unpowered, changing := false, idleWanted := false, uv := false, ov := false, coolant := false, leak := false, wakeSrc := 0,
    tripSeen := false, alert := false, pendingNotes := [], wakePending := none, inputMv := 0, inputMin := 0xFFFF,
    inputMa := 0, inputPeak := 0, opHours := 0, powerCycles := 0, phasesLost := [], lastRail := 0, coreRunning := false,
    dynAddr := none, sbResp := none }

/-- The supervisor at reset (R22, R24, R379). -/
def SupvS.reset : SupvS :=
  { planeMap := 0x76543210, onSpare := 0, switching := 0, feedTag := 0, claim := none, recovering := 0,
    surveyPending := 0, surveyRunning := 0, surveyAsked := 0, lastSurveyAll := 0, lastSurvey := 0, hubEntry := 0, hubNow := 0,
    modOffset := .replicate 3 0, modSamples := [], modDatum := [], modDatumDone := false, modAged := false, modBad := 0, hubTable := 0,
    freqWait := [], hmacRun := .replicate 6 false, hmacLost := .replicate 6 false,
    hmacOnce := .replicate 6 false }

/-- The module as shipped, before its first power-up: unpowered, every register at its reset value, every channel OFF (R25),
device time zero (R401), memory with nothing listed. -/
def State.reset : State :=
  { pending := [], refCycles := 0, draws := 0, hdrs := [], regs := [], loLatch := [], loHeld := [], regOut := none,
    sent := [], icp := .reset, chans := .replicate 9 .off, hub := .reset, rings := .replicate 10 .empty, slots := [],
    book := .new, sec := .new, pwr := .new, supv := .reset }

end Sys2Proof.Machine
end

