-- ==== Sys2Proof/Machine/Ops.lean ====
section
/-! DEFINITION. The named operations on the state's data: sparse tables, bytes and words, channel memory, streams of free
values, device time, and access to one channel, one page header, one port. -/
namespace Sys2Proof.Machine

/-! ## Sparse tables -/

/-- The value a sparse table holds at a key. -/
def spGet {α : Type} (d : Nat → α) : List (Nat × α) → Nat → α
  | [], k => d k
  | (k', v) :: m, k => if k' = k then v else spGet d m k

/-- A sparse table with one key changed, in canonical form: keys rising, no entry equal to the default. -/
def spSet {α : Type} [DecidableEq α] (d : Nat → α) : List (Nat × α) → Nat → α → List (Nat × α)
  | [], k, v => if v = d k then [] else [(k, v)]
  | (k', v') :: m, k, v =>
    if k < k' then (if v = d k then (k', v') :: m else (k, v) :: (k', v') :: m)
    else if k = k' then (if v = d k then m else (k, v) :: m)
    else (k', v') :: spSet d m k v

/-- The canonical form of a sparse table above a bound: keys rising, no entry equal to the default. -/
def spWfFrom {α : Type} [DecidableEq α] (d : Nat → α) : Nat → List (Nat × α) → Bool
  | _, [] => true
  | lo, (k, v) :: m => decide (lo ≤ k) && decide (v ≠ d k) && spWfFrom d (k + 1) m

/-! ## Bytes and words -/

/-- The value of bytes, least significant first (R6). -/
def leNat : List Byte → Nat
  | [] => 0
  | b :: bs => b.toNat + 256 * leNat bs

/-- The `n` low bytes of a value, least significant first (R6). -/
def toLE : Nat → Nat → List Byte
  | 0, _ => []
  | n + 1, v => BitVec.ofNat 8 v :: toLE n (v / 256)

/-- Bytes `off` to `off + n - 1` of a byte string as a value. -/
def fld (bs : List Byte) (off n : Nat) : Nat := leNat ((bs.drop off).take n)

/-- Bits [hi:lo] of a value. -/
def bitsOf (v hi lo : Nat) : Nat := v / 2 ^ lo % 2 ^ (hi + 1 - lo)

/-- One bit of a value. -/
def bitAt (v i : Nat) : Bool := v / 2 ^ i % 2 = 1

/-- A register word of a value. -/
def w32 (n : Nat) : W32 := BitVec.ofNat 32 n

/-- Adds to a count that holds at its largest value (R9, the counters of the register tables). -/
def satAdd (top a n : Nat) : Nat := min top (a + n)

def boolBit (b : Bool) (i : Nat) : Nat := if b then 2 ^ i else 0

/-- The least index at which a test holds. -/
def firstIdx {α : Type} (p : α → Bool) : List α → Nat → Option Nat
  | [], _ => none
  | x :: xs, i => if p x then some i else firstIdx p xs (i + 1)

/-- An element put in its place in a list in order: behind every element that does not come after it. -/
def putBy {α : Type} (le : α → α → Bool) (x : α) : List α → List α
  | [] => [x]
  | y :: l => if le x y then x :: y :: l else y :: putBy le x l

/-- A list put in order; equal elements keep theirs. -/
def sortBy {α : Type} (le : α → α → Bool) : List α → List α
  | [] => []
  | x :: l => putBy le x (sortBy le l)

/-! ## Channel memory -/

/-- The size of the channel-local map (R310). -/
def hbmSize : Nat := 2 ^ 37

/-- What a byte that nothing has written reads as (R492). -/
def memDefault : Nat → Byte := fun _ => 0

/-- The canonical form of a memory: addresses of the map, rising, and no entry equal to what an unlisted address reads as. -/
def memWf (m : List Host.Cell) : Bool := spWfFrom memDefault 0 m && m.all fun e => decide (e.1 < hbmSize)

/-- A byte of a memory. Nothing stands outside the map: a read there gives a free value (R310, DESIGN CHOICE, log 12). -/
def memRd (m : List Host.Cell) (a : Nat) : Byte := if a < hbmSize then spGet memDefault m a else Config.outsideByte a

/-- A byte written; one outside the map is dropped (log 12). -/
def memWr (m : List Host.Cell) (a : Nat) (b : Byte) : List Host.Cell := if a < hbmSize then spSet memDefault m a b else m

/-- The `n` bytes from an address. -/
def memRds (m : List Host.Cell) (a n : Nat) : List Byte := (List.range n).map fun i => memRd m (a + i)

/-- Bytes written in rising order from an address. -/
def memWrs : List Host.Cell → Nat → List Byte → List Host.Cell
  | m, _, [] => m
  | m, a, b :: bs => memWrs (memWr m a b) (a + 1) bs

/-- A range lies in the channel-local map (R310). -/
def inMap (a n : Nat) : Bool := a + n ≤ hbmSize

/-- The stack a channel-local address falls on (R311). -/
def stackOf (a : Nat) : Fin 2 := if bitAt a 8 = bitAt a 20 then 0 else 1

/-! ## Parts of the state -/

def State.chan (s : State) (c : Fin 9) : Chan := s.chans[c.val]

def State.modChan (s : State) (c : Fin 9) (f : Chan → Chan) : State :=
  { s with chans := s.chans.set c.val (f s.chans[c.val]) }

def State.mapChans (s : State) (f : Fin 9 → Chan → Chan) : State :=
  { s with chans := .ofFn fun c => f c s.chans[c.val] }

def State.modIcp (s : State) (f : IcpS → IcpS) : State := { s with icp := f s.icp }
def State.modHub (s : State) (f : HubS → HubS) : State := { s with hub := f s.hub }
def State.modPwr (s : State) (f : PwrS → PwrS) : State := { s with pwr := f s.pwr }
def State.modSec (s : State) (f : SecS → SecS) : State := { s with sec := f s.sec }
def State.modSupv (s : State) (f : SupvS → SupvS) : State := { s with supv := f s.supv }
def State.modBook (s : State) (f : BookS → BookS) : State := { s with book := f s.book }

def Chan.port (ch : Chan) (p : Fin 6) : Port := ch.ports[p.val]

def State.modPort (s : State) (c : Fin 9) (p : Fin 6) (f : Port → Port) : State :=
  s.modChan c fun ch => { ch with ports := ch.ports.set p.val (f ch.ports[p.val]) }

def State.port (s : State) (c : Fin 9) (p : Fin 6) : Port := (s.chan c).ports[p.val]

def Chan.stream (ch : Chan) (st : Fin 4) : Stream := ch.streams[st.val]

def State.modStream (s : State) (c : Fin 9) (st : Fin 4) (f : Stream → Stream) : State :=
  s.modChan c fun ch => { ch with streams := ch.streams.set st.val (f ch.streams[st.val]) }

def State.modArray (s : State) (c : Fin 9) (a : Fin 2) (f : ArrayS → ArrayS) : State :=
  s.modChan c fun ch => { ch with arrays := ch.arrays.set a.val (f ch.arrays[a.val]) }

def State.modPlat (s : State) (c : Fin 9) (f : PlatS → PlatS) : State :=
  s.modChan c fun ch => { ch with plat := f ch.plat }

def State.modRoute (s : State) (c : Fin 9) (f : RouteS → RouteS) : State :=
  s.modChan c fun ch => { ch with route := f ch.route }

/-- Memory written in one channel (R318: the cache is the single point every access passes, so every later read sees it). -/
def State.store (s : State) (c : Fin 9) (a : Nat) (bs : List Byte) : State :=
  s.modChan c fun ch => { ch with mem := memWrs ch.mem a bs }

/-- Device time in nanoseconds: reference cycles of 6.4 ns (R400). -/
def State.now (s : State) : Nat := s.refCycles * 32 / 5

/-- A free value, and the state that has drawn it (log 2). -/
def State.draw (s : State) : W32 × State := (Config.free s.draws, { s with draws := s.draws + 1 })

/-- Applies an operation for each element of a list, in order. -/
def State.each {α : Type} (s : State) (l : List α) (f : α → State → State) : State := l.foldl (fun s x => f x s) s

def State.when (s : State) (b : Bool) (f : State → State) : State := if b then f s else s

def allChans : List (Fin 9) := List.finRange 9
def allPorts : List (Fin 6) := List.finRange 6
def allStreams : List (Fin 4) := List.finRange 4

end Sys2Proof.Machine
end

