-- ==== Sys2Proof/Machine/Regs.lean ====
section
/-! DEFINITION. The register catalogue (R81, R96) and the storage of registers: page headers (R84) and the block-specific
registers that hold values of their own. -/
namespace Sys2Proof

/-! ## Pages -/

/-- A block's number within its zone (R96). -/
def Blk.num : Blk → Nat
  | .supv => 1 | .clocks => 2 | .pwr => 3 | .bench => 4 | .fbook => 5 | .cairn => 6 | .sec => 7
  | .hmac => 1 | .icp => 2 | .hub => 3
  | .seq => 1 | .dense => 2 | .gather => 3 | .route => 4 | .layout => 5 | .cache => 6 | .merid => 7 | .hbm => 8
  | .update => 9 | .numw => 10 | .plat => 11 | .trav => 12 | .bearing => 13 | .cpwr => 14 | .cclk => 15 | .cbench => 16

def globalBlks : List Blk := [.supv, .clocks, .pwr, .bench, .fbook, .cairn, .sec]
def hostBlks : List Blk := [.hmac, .icp, .hub]
def chanBlks : List Blk :=
  [.seq, .dense, .gather, .route, .layout, .cache, .merid, .hbm, .update, .numw, .plat, .trav, .bearing, .cpwr, .cclk, .cbench]

def Blk.isGlobal (b : Blk) : Bool := globalBlks.contains b
def Blk.isHost (b : Blk) : Bool := hostBlks.contains b
def Blk.isChan (b : Blk) : Bool := chanBlks.contains b

/-- How many instances a block has (R81). -/
def Blk.insts : Blk → Nat
  | .dense => 2 | .hbm => 2 | .trav => 6 | _ => 1

/-- The zone of a page (R81). -/
def Page.zone (p : Page) : Nat := if p.blk.isGlobal then 0 else if p.blk.isHost then 1 else 2 + p.chan.val

/-- A page's address divided by 4,096. -/
def Page.key (p : Page) : Nat := p.zone * 65536 + p.blk.num * 16 + p.inst.val

/-- BLK_ID, the page's base address (R84). -/
def Page.base (p : Page) : Nat := p.key * 4096

/-- The page has its canonical form: instance within the block's count, channel 0 outside channel zones. -/
def Page.ok (p : Page) : Bool := p.inst.val < p.blk.insts && (p.blk.isChan || p.chan.val = 0)

end Sys2Proof

namespace Sys2Proof.Machine

def gpage (b : Blk) : Page := ⟨b, 0, 0⟩
def cpage (c : Fin 9) (b : Blk) : Page := ⟨b, c, 0⟩
def arrPage (c : Fin 9) (a : Fin 2) : Page := ⟨.dense, c, ⟨a.val, by omega⟩⟩
def hbmPage (c : Fin 9) (a : Fin 2) : Page := ⟨.hbm, c, ⟨a.val, by omega⟩⟩
def travPage (c : Fin 9) (p : Fin 6) : Page := ⟨.trav, c, p⟩

/-- Every page of a channel. -/
def chanPages (c : Fin 9) : List Page :=
  chanBlks.flatMap fun b => (List.finRange 6).filterMap fun i => if i.val < b.insts then some ⟨b, c, i⟩ else none

/-- The page a register address names, if the catalogue has it (R81, R82). -/
def pageOf (a : W32) : Option Page :=
  let n := a.toNat
  let zone := bitsOf n 31 28
  let num := bitsOf n 27 16
  let inst := bitsOf n 15 12
  let blks := if zone = 0 then globalBlks else if zone = 1 then hostBlks else if zone ≤ 10 then chanBlks else []
  match blks.find? fun b => b.num = num with
  | none => none
  | some b =>
    if h : inst < 6 then
      if inst < b.insts then
        if hz : 2 ≤ zone ∧ zone - 2 < 9 then some ⟨b, ⟨zone - 2, hz.2⟩, ⟨inst, h⟩⟩ else some ⟨b, 0, ⟨inst, h⟩⟩
      else none
    else none

/-- A register's address from its page and offset (R81). -/
def regAddr (p : Page) (off : Nat) : W32 := w32 (p.base + off)

/-! ## Domains -/

/-- The domain index of a channel block (R96, R408, R412): 0 ARITH, 1 GATHER, 2 MSIDE, 3 HBMA, 4 HBMB, 5 PHOT. -/
def chanDomain (b : Blk) (inst : Nat) : Fin 6 :=
  match b with
  | .dense | .numw => 0
  | .gather | .route => 1
  | .hbm => if inst = 0 then 3 else 4
  | .trav | .bearing => 5
  | _ => 2

/-- The blocks of a stoppable channel domain (R408). -/
def domainPages (c : Fin 9) (d : Fin 6) : List Page :=
  (chanPages c).filter fun p => chanDomain p.blk p.inst.val = d

/-- Domain codes of a channel (R91). -/
def domCode (d : Fin 6) : Nat := d.val + 1

/-! ## Page headers -/

def hdrDefault : Nat → Hdr := fun _ => .reset

def State.hdr (s : State) (p : Page) : Hdr := spGet hdrDefault s.hdrs p.key

def State.modHdr (s : State) (p : Page) (f : Hdr → Hdr) : State :=
  { s with hdrs := spSet hdrDefault s.hdrs p.key (f (s.hdr p)) }

/-! ## Block-specific storage -/

/-- The register a page assigns at an offset and that holds bits of its own: (bits a write sets, bits a write of 1 clears, bits a
read clears, value at reset). Fields that other state determines are not stored. `none`: no storage at that offset. -/
def regMasks (b : Blk) (off : Nat) : Option (W32 × W32 × W32 × W32) :=
  match b, off with
  | .clocks, 0x108 => some (0x3F, 0, 0, 0)
  | .bench, 0x100 => some (0x03FF0000, 0, 0, 0x00320000)
  | .fbook, 0x10C => some (0x3FFFFF, 0, 0, 0)
  | .cairn, 0x104 => some (0x1FFFFF, 0, 0, 0)
  | .hmac, 0x10C => some (0x377, 0, 0, 0x136)
  | .hmac, 0x110 => some (0, 0, 0xFFFFFFFF, 0)
  | .hmac, 0x114 => some (0, 0, 0xFFFFFFFF, 0)
  | .hmac, 0x118 => some (0, 0, 0xFFFFFFFF, 0)
  | .hmac, 0x11C => some (0, 0, 0xFFFFFFFF, 0)
  | .hmac, 0x120 => some (0, 0, 0xFFFFFFFF, 0)
  | .hmac, 0x124 => some (0, 0, 0xFFFFFFFF, 0)
  | .hmac, 0x128 => some (0, 0, 0xFFFFFFFF, 0)
  | .icp, 0x10C => some (0xFFFFFFFF, 0, 0, 0)
  | .icp, 0x110 => some (0x8000FFFF, 0, 0, 0)
  | .icp, 0x114 => some (0xFFFFFFFF, 0, 0, 0x14)
  | .icp, 0x118 => some (0xFFFFFFFF, 0, 0, 0xA)
  | .icp, 0x120 => some (0, 0, 0xFFFFFFFF, 0)
  | .icp, 0x124 => some (0, 0, 0xFFFFFFFF, 0)
  | .icp, 0x128 => some (0, 0, 0xFFFFFFFF, 0)
  | .icp, 0x12C => some (0, 0, 0xFFFFFFFF, 0)
  | .icp, 0x130 => some (0, 0, 0, 0)
  | .icp, 0x134 => some (0, 0, 0, 0)
  | .icp, 0x138 => some (0, 0, 0xFFFFFFFF, 0)
  | .hub, 0x100 => some (0x3FF, 0, 0, 0x3FF)
  | .hub, 0x108 => some (0xFF01, 0, 0, 0x6400)
  | .hub, 0x10C => some (0, 0, 0xFFFFFFFF, 0)
  | .seq, 0x10C => some (0x3FF, 0, 0, 0)
  | .dense, 0x100 => some (0, 0, 0, 0)
  | .dense, 0x104 => some (0, 0, 0, 0)
  | .dense, 0x108 => some (0, 0, 0, 0)
  | .dense, 0x10C => some (0, 0, 0xFFFFFFFF, 0)
  | .gather, 0x100 => some (0, 0, 0xFFFFFFFF, 0)
  | .gather, 0x104 => some (0, 0x80000000, 0, 0)
  | .gather, 0x108 => some (0, 0, 0xFFFFFFFF, 0)
  | .gather, 0x10C => some (0, 0x80000000, 0, 0)
  | .gather, 0x110 => some (0xFFFF, 0, 0, 0x40)
  | .route, 0x100 => some (0x3FFF, 0, 0, 0x32)
  | .route, 0x104 => some (0, 0, 0xFFFFFFFF, 0)
  | .route, 0x108 => some (0, 0, 0xFFFFFFFF, 0)
  | .route, 0x10C => some (0xF, 0, 0, 8)
  | .layout, 0x100 => some (0x3FFF, 0, 0, 0)
  | .layout, 0x108 => some (0, 0, 0xFFFF, 0)
  | .cache, 0x100 => some (0, 0, 0, 0)
  | .cache, 0x104 => some (0, 0, 0, 0)
  | .cache, 0x108 => some (0, 0, 0, 0)
  | .cache, 0x10C => some (0, 0, 0, 0)
  | .cache, 0x110 => some (0, 0, 0, 0)
  | .merid, 0x100 => some (1, 0, 0, 0)
  | .merid, 0x104 => some (0xFFFFFFFF, 0, 0, 0xEAAA1BAF)
  | .merid, 0x108 => some (0, 0, 0xFFFF, 0)
  | .hbm, 0x100 => some (0, 0, 0xFFFFFFFF, 0)
  | .hbm, 0x104 => some (0, 0, 0xFFFFFFFF, 0)
  | .hbm, 0x108 => some (0, 0, 0, 0)
  | .hbm, 0x10C => some (0, 0, 0xFF00, 0)
  | .update, 0x100 => some (0xFFFFFFFF, 0, 0, 0)
  | .update, 0x104 => some (0xFFFFFFFF, 0, 0, 0)
  | .update, 0x108 => some (0xFFFFFFFF, 0, 0, 0)
  | .update, 0x10C => some (0xFFFFFFFF, 0, 0, 0)
  | .update, 0x110 => some (1, 0, 0, 0)
  | .numw, 0x100 => some (0, 0, 0xFFFFFFFF, 0)
  | .numw, 0x104 => some (0, 0, 0xFFFFFFFF, 0)
  | .numw, 0x108 => some (0, 0, 0, 0)
  | .numw, 0x10C => some (0, 0, 0, 0)
  | .numw, 0x110 => some (0, 0, 0, 0)
  | .numw, 0x114 => some (0, 0x80000000, 0, 0)
  | .numw, 0x118 => some (0xFFF1FF1F, 0, 0, 0x0401F80A)
  | .numw, 0x11C => some (0, 0, 0xFFFFFFFF, 0)
  | .numw, 0x120 => some (0, 0, 0xFFFFFFFF, 0)
  | .plat, 0x108 => some (0x7FFF, 0, 0, 0)
  | .plat, 0x10C => some (0x7FFF, 0, 0, 0)
  | .trav, 0x100 => some (0xFF00, 0, 0xFFFF0000, 0x6400)
  | .trav, 0x104 => some (0, 0, 0, 0)
  | .trav, 0x108 => some (0, 0, 0, 0)
  | .trav, 0x10C => some (0, 0, 0, 0xFFF)
  | .trav, 0x110 => some (0, 0, 0xFFFFFFFF, 0)
  | .bearing, 0x100 => some (0xFF007FFF, 0, 0, 0x0A000000)
  | .bearing, 0x104 => some (0x1FF, 0, 0, 0)
  | .cpwr, 0x100 => some (0x03FF000F, 0, 0, 0x0200000C)
  | .cpwr, 0x104 => some (3, 0, 0, 0)
  | .cpwr, 0x108 => some (0, 0, 0xFFFFFFFF, 0)
  | .cclk, 0x100 => some (0x07770000, 0, 0, 0)
  | .cclk, 0x104 => some (0x3B, 0, 0, 0x3F)
  | .cbench, 0x100 => some (0xFF, 0, 0, 0)
  | _, _ => none

/-- What an unwritten register holds: its value at reset. The sideband's own copies of the indices lie at the same address
above 2^32 (R97) and reset to zero. -/
def regDefault (a : Nat) : W32 :=
  if 2 ^ 32 ≤ a then 0
  else
    match pageOf (w32 a) with
    | none => 0
    | some p =>
      match regMasks p.blk (a % 4096) with
      | some (_, _, _, r) => r
      | none => 0

def State.regAt (s : State) (a : Nat) : W32 := spGet regDefault s.regs a

def State.setRegAt (s : State) (a : Nat) (v : W32) : State := { s with regs := spSet regDefault s.regs a v }

/-- The stored bits of a page's register. -/
def State.reg (s : State) (p : Page) (off : Nat) : W32 := s.regAt (p.base + off)

def State.setReg (s : State) (p : Page) (off : Nat) (v : W32) : State := s.setRegAt (p.base + off) v

/-- Adds to a 32-bit counter that holds at 0xFFFF_FFFF. -/
def State.bump (s : State) (p : Page) (off n : Nat) : State :=
  s.setReg p off (w32 (satAdd 0xFFFFFFFF (s.reg p off).toNat n))

/-- Adds to a counter field [hi:lo] of a register, holding at its largest value. -/
def State.bumpField (s : State) (p : Page) (off hi lo n : Nat) : State :=
  let v := (s.reg p off).toNat
  let cur := bitsOf v hi lo
  s.setReg p off (w32 (v - cur * 2 ^ lo + satAdd (2 ^ (hi + 1 - lo) - 1) cur n * 2 ^ lo))

/-- Sets a field [hi:lo] of a register. -/
def State.setField (s : State) (p : Page) (off hi lo v : Nat) : State :=
  let old := (s.reg p off).toNat
  s.setReg p off (w32 (old - bitsOf old hi lo * 2 ^ lo + v % 2 ^ (hi + 1 - lo) * 2 ^ lo))

/-- A field [hi:lo] of a stored register. -/
def State.field (s : State) (p : Page) (off hi lo : Nat) : Nat := bitsOf (s.reg p off).toNat hi lo

/-- Every register of a page, and the sideband's index of it, at its reset value (R87, R97). -/
def State.clearRegs (s : State) (p : Page) : State :=
  let inPage := fun (a : Nat) => p.base ≤ a % 2 ^ 32 && a % 2 ^ 32 < p.base + 4096
  { s with
    regs := s.regs.filter fun e => !inPage e.1
    loLatch := s.loLatch.filter fun e => !inPage (e.1 / 2)
    loHeld := s.loHeld.filter fun e => !inPage (e.1 / 2) }

/-! ## State of a channel and of the module that many rules ask for -/

/-- The channel's state code (R25). -/
def Role.code : Role → Nat
  | .off => 0 | .serving => 1 | .spare => 2 | .lending => 3 | .filling => 4 | .fenced => 5 | .failed => 6

/-- The channel is powered and released or fenced: not OFF. -/
def State.powered (s : State) (c : Fin 9) : Bool := (s.chan c).role ≠ .off

/-- The channel reads FENCED or FAILED (R490). -/
def State.chanFenced (s : State) (c : Fin 9) : Bool :=
  match (s.chan c).role with
  | .fenced | .failed => true
  | _ => false

/-- The clock domain of a page runs (R92). -/
def State.domOn (s : State) (p : Page) : Bool :=
  if p.blk.isChan then (s.chan p.chan).domRun[(chanDomain p.blk p.inst.val).val] else true

/-- `BLK_STAT.FENCED` (R84, R490): fenced by the driver, by hardware, by ENABLE 0 or by its channel. -/
def State.fenced (s : State) (p : Page) : Bool :=
  let h := s.hdr p
  h.fence || !h.enable || (p.blk.isChan && s.chanFenced p.chan)

/-- The physical channel that `SUPV.PLANE_MAP` names for a plane (R22). -/
def State.planeChan (s : State) (k : Fin 8) : Fin 9 :=
  if bitsOf s.supv.planeMap.toNat (4 * k.val + 3) (4 * k.val) = 8 then 8 else ⟨k.val, by omega⟩

/-- The plane a channel serves under the map, if any (R20, R340). -/
def State.planeOf (s : State) (c : Fin 9) : Option (Fin 8) := (List.finRange 8).find? fun k => s.planeChan k = c

/-- The host port is powered (R445). -/
def State.hostUp (s : State) : Bool :=
  match s.pwr.power with
  | .active | .idle | .dormant => true
  | _ => false

/-- `ICP.HOST_MAC_HI.VALID` (R69). -/
def State.hostKnown (s : State) : Bool := (s.reg (gpage .icp) 0x110).getLsbD 31

/-- The host's MAC address (R76). -/
def State.hostMac (s : State) : BitVec 48 :=
  ((s.reg (gpage .icp) 0x110).setWidth 16 ++ s.reg (gpage .icp) 0x10C).setWidth 48

/-- A channel's hub port carries transfers (R309). -/
def portOn (s : State) (c : Fin 9) : Bool := bitAt (s.reg (gpage .hub) 0x100).toNat c.val
def hostPortOn (s : State) : Bool := bitAt (s.reg (gpage .hub) 0x100).toNat 9

/-! ## Identity (R470) -/

/-- The body of a container (R457). -/
def Container.body (k : Container) : List Byte := (k.file.drop 512).take (fld k.file 16 8)

/-- A container passes R458 as it stands in flash: no key set revoked since has signed it. -/
def passes (s : State) (k : Container) : Bool := k.typ ≠ 0 && k.valid && !s.sec.revoked.getLsbD k.key

/-- The copy of a record that applies: the passing copy of higher generation (R464). -/
def pickRecord (s : State) (r : Container × Container) : Option Container :=
  let (a, b) := r
  if passes s a && (!passes s b || b.gen ≤ a.gen) then some a else if passes s b then some b else none

/-- The identity record: in force, or, in Standby, held in flash and passing (R80, R464, R470). -/
def State.identity (s : State) : Option Container :=
  let id := fun (r : Container) => r.typ = 0x0100
  (s.sec.inForce.find? id).or (if s.pwr.power = .standby then (s.sec.records.filterMap (pickRecord s)).find? id else none)

/-- A field of the identity record's body, which holds MODULE_SN, PART_ID and the MAC address in this order (R470); zero without one. -/
def State.identField (s : State) (at_ n : Nat) : Nat := (s.identity.map fun r => fld r.body at_ n).getD 0

def State.moduleSn (s : State) : W64 := BitVec.ofNat 64 (s.identField 0 8)
def State.partId (s : State) : W32 := BitVec.ofNat 32 (s.identField 8 4)

/-- The module's MAC address: from the identity record, or zero (R470). -/
def State.ownMac (s : State) : BitVec 48 := BitVec.ofNat 48 (s.identField 12 6)

end Sys2Proof.Machine
end

