-- ==== Sys2Proof/Machine/Mem.lean ====
section
/-! DEFINITION. The path to a channel's memory (R310 to R335): the places of R311, the cache's lines, the Meridian's arbitration and
locks, its tracker, and the two accesses that every unit makes through them. Data move with the command that needs them; the
transactions that carry them wait in the tracker until their transfers end (log 70). -/
namespace Sys2Proof.Machine

/-! ## Places (R311) -/

/-- The pseudo-channel within the stack. -/
def pseudoOf (a : Nat) : Nat := bitsOf a 14 9 ^^^ bitsOf a 26 21

/-- The offset within the pseudo-channel. -/
def pseudoOffset (a : Nat) : Nat := bitsOf a 36 15 * 256 + bitsOf a 7 0

/-- The stack of a cache line: a unit of 256 bytes lies in one stack. -/
def lineStack (l : Nat) : Fin 2 := stackOf (256 * l)

/-- An HBM instance is fenced, so that its stack is held in self-refresh (R317). -/
def stackFenced (s : State) (c : Fin 9) (i : Fin 2) : Bool := s.fenced (hbmPage c i)

/-! ## The cache (R318 to R322) -/

def lineDefault : Nat → CLine := fun _ => ⟨0, 0⟩

def Chan.line (ch : Chan) (l : Nat) : CLine := spGet lineDefault ch.cache l

/-- The lines that a range of bytes touches, each with the sectors touched. -/
def rangeLines (a n : Nat) : List (Nat × BitVec 4) :=
  if n = 0 then []
  else (List.range ((a + n - 1) / 256 + 1 - a / 256)).map fun i =>
    let l := a / 256 + i
    (l, BitVec.ofNat 4 (((List.range 4).map fun k =>
      boolBit (a < 256 * l + 64 * (k + 1) && 256 * l + 64 * k < a + n) k).sum))

/-- Some touched sector is not valid, so a read fetches the line (R319). -/
def lineMisses (ch : Chan) (e : Nat × BitVec 4) : Bool := e.2 &&& ~~~(ch.line e.1).valid ≠ 0

/-- The lines held in a line's set. -/
def setLines (ch : Chan) (l : Nat) : List (Nat × CLine) := ch.cache.filter fun e => Config.cacheSet e.1 = Config.cacheSet l

/-- Whether bringing in a line needs another to leave: its set of 16 ways is full. -/
def setFull (ch : Chan) (l : Nat) : Bool := 16 ≤ ch.cache.length && 16 ≤ (setLines ch l).length

/-- Whether a held line may be evicted: it is clean, or its stack takes the write-back (R317). -/
def mayEvict (s : State) (c : Fin 9) (e : Nat × CLine) : Bool := e.2.dirty = 0 || !stackFenced s c (lineStack e.1)

/-- An access to one line completes RESET (R317): a read that misses on a fenced stack, or a set with no line that can leave. -/
def lineBlocked (s : State) (c : Fin 9) (write : Bool) (e : Nat × BitVec 4) : Bool :=
  let ch := s.chan c
  (!write && lineMisses ch e && stackFenced s c (lineStack e.1)) ||
    ((ch.line e.1).valid = 0 && setFull ch e.1 && (setLines ch e.1).all fun x => !mayEvict s c x)

/-- A range of channel memory: its address and its bytes. -/
abbrev Span := Nat × Nat

/-- An access completes RESET: some line of it does. With both stacks in service none does, but for a set all held. -/
def accessBlocked (s : State) (c : Fin 9) (write : Bool) (l : List Span) : Bool :=
  ((List.finRange 2).any fun i => stackFenced s c i) && l.any fun r => (rangeLines r.1 r.2).any (lineBlocked s c write)

/-- A line leaves a full set (R318): which one the pseudo-LRU picks is a free value (log 2). Its dirty sectors are written back. -/
def makeRoom (c : Fin 9) (l : Nat) (s : State) : State :=
  let ch := s.chan c
  if (ch.line l).valid = 0 && setFull ch l then
    let out := (setLines ch l).filter (mayEvict s c)
    let (v, s) := s.draw
    match out[v.toNat % out.length]? with
    | some e => s.modChan c fun ch => { ch with cache := spSet lineDefault ch.cache e.1 ⟨0, 0⟩ }
    | none => s
  else s

def setLine (c : Fin 9) (l : Nat) (x : CLine) (s : State) : State :=
  s.modChan c fun ch => { ch with cache := spSet lineDefault ch.cache l x }

/-- Adds to a 64-bit counter of two registers. -/
def State.bump64 (s : State) (p : Page) (off n : Nat) : State :=
  let v := (s.reg p (off + 4) ++ s.reg p off).toNat + n
  (s.setReg p off (w32 v)).setReg p (off + 4) (w32 (v / 2 ^ 32))

/-- A read of a line (R319, R320, R337): a hit if every touched sector is valid; otherwise the whole line is fetched, and the dirty
sectors already held stay. -/
def readLine (c : Fin 9) (e : Nat × BitVec 4) (s : State) : State :=
  if lineMisses (s.chan c) e then
    let s := makeRoom c e.1 s
    setLine c e.1 ⟨15, ((s.chan c).line e.1).dirty⟩ (s.bump64 (cpage c .cache) 0x108 1)
  else s.bump64 (cpage c .cache) 0x100 1

/-- A write of a line (R319): it allocates the line without a fetch and marks the touched sectors dirty. -/
def writeLine (c : Fin 9) (e : Nat × BitVec 4) (s : State) : State :=
  let s := makeRoom c e.1 s
  let x := (s.chan c).line e.1
  setLine c e.1 ⟨x.valid ||| e.2, x.dirty ||| e.2⟩ s

/-- Every dirty line whose stack is in service is written back (R317, R322). -/
def writeBackLines (c : Fin 9) (s : State) : State :=
  let clean := fun (e : Nat × CLine) => if stackFenced s c (lineStack e.1) then e else (e.1, { e.2 with dirty := 0 })
  s.modChan c fun ch => { ch with cache := ch.cache.map clean, writeBack := 0 }

/-- A reset of the CACHE block invalidates every line (R322), but for the dirty lines that a fenced stack holds (R317). -/
def invalidateLines (c : Fin 9) (s : State) : State :=
  let keep := fun (e : Nat × CLine) => e.2.dirty ≠ 0 && stackFenced s c (lineStack e.1)
  s.modChan c fun ch => { ch with cache := ch.cache.filterMap fun e => if keep e then some (e.1, ⟨e.2.dirty, e.2.dirty⟩) else none }

/-- Lines of a stack that are dirty, to be written back when the stack is released (R317). -/
def heldLines (s : State) (c : Fin 9) (i : Fin 2) : Bool :=
  (s.chan c).cache.any fun e => e.2.dirty ≠ 0 && lineStack e.1 = i

/-! ## Arbitration (R323 to R331) -/

def allMeridPorts : List (Fin 16) := List.finRange 16

/-- The rank of a port in MERID.RANK (R336). -/
def rankOf (rank : W32) (p : Fin 16) : Fin 4 := ⟨bitsOf rank.toNat (2 * p.val + 1) (2 * p.val) % 4, by omega⟩

/-- The tracker entries of a port whose transfers have been granted and have not ended. -/
def MeridS.granted (m : MeridS) (p : Fin 16) : Nat :=
  (if m.cur.any fun t => t.port = p then 1 else 0) + (if m.next.any fun t => t.port = p then 1 else 0)

/-- The transactions of a port that wait for a grant, in the tracker or before it. -/
def MeridS.waiting (m : MeridS) (p : Fin 16) : Nat := (m.queue[p.val].map MRun.count).sum

/-- A port raises the request of its oldest transaction once that stands in the tracker (R324). -/
def MeridS.raised (m : MeridS) (p : Fin 16) : Bool := m.granted p < m.held[p.val] && !m.queue[p.val].isEmpty

/-- The ports in round-robin order, beginning after one. -/
def portsAfter (p : Fin 16) : List (Fin 16) := (List.range 16).map fun i => ⟨(p.val + 1 + i) % 16, by omega⟩

/-- The decision (R325, R329): under a lock the owner or nobody; otherwise the highest rank that requests, and within it the first port
in round-robin order after the one of that rank granted last. -/
def decision (rank : W32) (m : MeridS) : Option (Fin 16) :=
  match m.lock with
  | some o => if m.raised o then some o else none
  | none =>
    let top := allMeridPorts.foldl (fun t p => if m.raised p then max t (rankOf rank p).val else t) 0
    (portsAfter (m.rr[top]?.getD 0)).find? fun p => m.raised p && (rankOf rank p).val = top

/-- A grant (R325, R329): the port's oldest transaction takes the next tenure; a transaction that carries LOCK locks the Meridian. -/
def grantPort (rank : W32) (p : Fin 16) (m : MeridS) : MeridS × Option MTransfer :=
  match m.queue[p.val] with
  | [] => (m, none)
  | r :: rest =>
    let left := if r.count ≤ 1 then rest else { r with count := r.count - 1 } :: rest
    ({ m with queue := m.queue.set p.val left, owner := p, rr := m.rr.set (rankOf rank p).val p,
              lock := if r.lock then some p else m.lock }, some ⟨p, { r with count := 1 }, 0⟩)

def decideNext (rank : W32) (m : MeridS) : MeridS × Option MTransfer :=
  match decision rank m with
  | some p => grantPort rank p m
  | none => (m, none)

/-! ## The tracker (R332) -/

def trackerReserve : Nat := 512
def trackerShared : Nat := 24576

def MeridS.sharedUsed (m : MeridS) : Nat := (m.held.toList.map fun h => h - trackerReserve).sum

def MeridS.occupancy (m : MeridS) : Nat := m.held.toList.sum

/-- When the transaction at a place in a port's queue was requested. -/
def arrivalAt : List MRun → Nat → Option Nat
  | [], _ => none
  | r :: l, k => if k < r.count then some r.arrival else arrivalAt l (k - r.count)

/-- The port whose oldest transaction outside the tracker was requested first. -/
def firstWaiting (m : MeridS) : Option (Fin 16) :=
  (allMeridPorts.foldl (fun (best : Option (Nat × Fin 16)) p =>
    match arrivalAt m.queue[p.val] (m.held[p.val] - m.granted p) with
    | some a => match best with
      | some b => if a < b.1 then some (a, p) else best
      | none => some (a, p)
    | none => best) none).map Prod.snd

/-- Shared entries go to waiting requests in the order in which they arrived. -/
def sharedEntries : Nat → MeridS → MeridS
  | 0, m => m
  | n + 1, m =>
    match firstWaiting m with
    | some p => sharedEntries n { m with held := m.held.set p.val (m.held[p.val] + 1) }
    | none => m

/-- Requests enter the tracker: each port its reserved entries first, then the shared ones. -/
def enterTracker (m : MeridS) : MeridS :=
  let m := { m with held := .ofFn fun p => max m.held[p.val] (min trackerReserve (m.waiting p + m.granted p)) }
  let m := sharedEntries (trackerShared - m.sharedUsed) m
  { m with peak := max m.peak m.occupancy }

/-! ## One cycle of the data path (R326, R327) -/

/-- A reply that leaves for its requester, joined with the ones before it. -/
def addReply (p : Page) (e : W32) : List (Page × W32 × Nat) → List (Page × W32 × Nat)
  | [] => [(p, e, 1)]
  | r :: l => if r.1 = p ∧ r.2.1 = e then (p, e, r.2.2 + 1) :: l else r :: addReply p e l

/-- A transfer's last beat ends: its entry is free, its reply carries the requester's EPOCH back (R407), and with the last transaction of a
locked sequence the lock ends (R331, R332). -/
def endTransfer (t : MTransfer) (m : MeridS) : MeridS :=
  let done := t.run.final && m.lock = some t.port
  enterTracker { m with held := m.held.set t.port.val (m.held[t.port.val] - 1), lock := if done then none else m.lock,
                        lockLong := m.lockLong && !done, replies := addReply t.run.page t.run.epoch m.replies }

/-- One MSIDE cycle. `lastBeat` is the mode in force: overlapped (R326) decides in the first beat of the current transfer, last-beat mode
(R327) in its last, and turns around for a cycle when the owner changes. An idle path decides in every cycle. -/
def busCycle (rank : W32) (lastBeat : Bool) (m : MeridS) : MeridS :=
  match m.cur with
  | some t =>
    let final := t.run.beats ≤ t.beat + 1
    let (m, won) := if (if lastBeat then final else decide (t.beat = 0)) then decideNext rank m else (m, m.next)
    if !final then { m with cur := some { t with beat := t.beat + 1 }, next := won }
    else
      let turn := lastBeat && won.any fun w => w.port ≠ t.port
      let m := endTransfer t { m with cur := none, next := won }
      if turn then m else { m with cur := won, next := none }
  | none =>
    match m.next with
    | some w => { m with cur := some w, next := none }
    | none => let (m, won) := decideNext rank m; { m with cur := won }

/-- MERID.RANK and the mode in force of a channel (R336). -/
def busRank (s : State) (c : Fin 9) : W32 := s.reg (cpage c .merid) 0x104
def busLastBeat (s : State) (c : Fin 9) : Bool := (s.reg (cpage c .merid) 0x100).getLsbD 1

def State.modMerid (s : State) (c : Fin 9) (f : MeridS → MeridS) : State := s.modChan c fun ch => { ch with merid := f ch.merid }

/-- A page's current EPOCH. -/
def State.epochOf (s : State) (p : Page) : W32 := (s.hdr p).epoch

/-- Replies reach their requesters. One whose epoch is not the requester's current EPOCH is stale (R407): it is discarded, and each
discard is an occurrence of STALE_REPLY, counted in the field book. -/
def takeReplies (c : Fin 9) (stale : Page → Nat → State → State) (s : State) : State :=
  let l := (s.chan c).merid.replies
  (s.modMerid c fun m => { m with replies := [] }).each l fun r s => if r.2.1 = s.epochOf r.1 then s else stale r.1 r.2.2 s

/-- A number of MSIDE cycles pass on a channel's data path. -/
def busCycles (c : Fin 9) (n : Nat) (s : State) : State :=
  s.modMerid c fun m => n.repeat (busCycle (busRank s c) (busLastBeat s c)) m

/-- Nothing of a port waits or drives. -/
def MeridS.quiet (m : MeridS) (p : Fin 16) : Bool := m.queue[p.val].isEmpty && m.granted p = 0

/-- Cycles pass until a port has nothing outstanding, or for as many cycles as the work waiting can take. -/
def drainLoop (rank : W32) (lastBeat : Bool) (p : Fin 16) : Nat → MeridS → MeridS
  | 0, m => m
  | n + 1, m => if m.quiet p then m else drainLoop rank lastBeat p n (busCycle rank lastBeat m)

/-- Every transfer of a port has ended (R110, R333): what the work before it in rank and order takes passes first. -/
def drainPort (c : Fin 9) (p : Fin 16) (s : State) : State :=
  s.modMerid c fun m =>
    let work := (m.queue.toList.flatten.map fun r => r.count * (r.beats + 2)).sum + 40
    drainLoop (busRank s c) (busLastBeat s c) p work m

/-- The requests of a queue after the first `k`, which the tracker holds, without those of a page. -/
def withdraw (p : Page) : Nat → List MRun → List MRun
  | _, [] => []
  | k, r :: l =>
    if r.page ≠ p || r.count ≤ k then r :: withdraw p (k - r.count) l
    else if 0 < k then { r with count := k } :: withdraw p 0 l else withdraw p 0 l

/-- The lock of a port ends (R331); what it has requested goes on unlocked. -/
def endLock (c : Fin 9) (p : Fin 16) (s : State) : State :=
  s.modMerid c fun m =>
    if m.lock = some p then
      { m with lock := none, lockLong := false, queue := m.queue.set p.val (m.queue[p.val].map fun r => { r with lock := false, final := false }) }
    else m

/-- A page is reset (R405): its requests that no neighbour has accepted are withdrawn; those in the tracker are performed. -/
def withdrawPage (p : Page) (s : State) : State :=
  s.modMerid p.chan fun m => { m with queue := .ofFn fun q => withdraw p (m.held[q.val] - m.granted q) m.queue[q.val] }

/-- The transactions in the tracker and before it. -/
def MeridS.runs (m : MeridS) : List MRun := m.queue.toList.flatten ++ m.cur.toList.map MTransfer.run ++ m.next.toList.map MTransfer.run

/-- The descriptors that outstanding transactions of a kind serve. -/
def MeridS.owners (m : MeridS) (p : MRun → Bool) : List Nat := (m.runs.filter p).filterMap MRun.owner

/-- The Meridian drops what it holds: every transaction in the tracker completes RESET, and every lock ends (R334). -/
def MeridS.clear (m : MeridS) : MeridS := { MeridS.reset with peak := m.peak, arrivals := m.arrivals, replies := m.replies }

/-! ## Accesses -/

/-- Who requests: the port, the page whose EPOCH the requests carry, and the descriptor they serve. -/
structure Requester where
  port : Fin 16
  page : Page
  owner : Option Nat
  deriving DecidableEq, Repr

/-- The transactions of a range (R324): one for each aligned unit of `unit` bytes that it touches, of the units of 64 bytes touched. -/
def rangeRuns (s : State) (c : Fin 9) (q : Requester) (write lock final : Bool) (unit : Nat) (r : Span) : List MRun :=
  let ch := s.chan c
  if r.2 = 0 then []
  else (List.range ((r.1 + r.2 - 1) / unit + 1 - r.1 / unit)).map fun i =>
    let lo := max (r.1 / 64 * 64) ((r.1 / unit + i) * unit)
    let hi := min ((r.1 + r.2 + 63) / 64 * 64) ((r.1 / unit + i + 1) * unit)
    let miss := fun (k : Fin 2) => !write && (rangeLines lo (hi - lo)).any fun e => lineMisses ch e && lineStack e.1 = k
    { count := 1, write, beats := (hi - lo + 4095) / 4096, lock, final, origin := BitVec.ofNat 2 (boolBit (miss 0) 0 + boolBit (miss 1) 1)
      page := q.page, epoch := s.epochOf q.page, owner := q.owner, arrival := ch.merid.arrivals }

/-- Equal transactions beside each other counted as one run. -/
def joinRuns : List MRun → List MRun
  | [] => []
  | r :: l => match joinRuns l with
    | [] => [r]
    | q :: l' => if { r with count := q.count } = q then { q with count := q.count + r.count } :: l' else r :: q :: l'

/-- Transactions requested at a port. -/
def requestRuns (c : Fin 9) (p : Fin 16) (l : List MRun) (s : State) : State :=
  s.modMerid c fun m => enterTracker { m with queue := m.queue.set p.val (m.queue[p.val] ++ l), arrivals := m.arrivals + 1 }

/-- The largest transaction (R324). -/
def maxTransaction : Nat := 16384

/-- Lines held for a stack that has been released are written back before new misses to it (R317). -/
def flushHeld (c : Fin 9) (s : State) : State := if (s.chan c).writeBack = 0 then s else writeBackLines c s

/-- Ranges are read: their transactions are requested, and the cache serves them. -/
def readSpans (c : Fin 9) (q : Requester) (unit : Nat) (l : List Span) (s : State) : State :=
  let s := flushHeld c s
  let runs := joinRuns (l.flatMap (rangeRuns s c q false false false unit))
  (requestRuns c q.port runs s).each (l.flatMap fun r => rangeLines r.1 r.2) (readLine c)

/-- Bytes are written: their transactions are requested, the cache takes the bytes, and every later read sees them (R318, R319). -/
def writeMem (c : Fin 9) (q : Requester) (a : Nat) (bs : List Byte) (s : State) : State :=
  let s := flushHeld c s
  let runs := joinRuns (rangeRuns s c q true false false maxTransaction (a, bs.length))
  ((requestRuns c q.port runs s).store c a bs).each (rangeLines a bs.length) (writeLine c)

/-- The locked read and write of one record (R283, R329): the read's transfer is granted, so that the lock is in force until the write's
transfer ends. -/
def lockedUpdate (c : Fin 9) (q : Requester) (a : Nat) (f : List Byte → List Byte) (n : Nat) (s : State) : State :=
  let runs := rangeRuns s c q false true false maxTransaction (a, n) ++ rangeRuns s c q true false true maxTransaction (a, n)
  let s := requestRuns c q.port runs s
  let s := s.each (rangeLines a n) (readLine c)
  let s := (s.store c a (f (memRds (s.chan c).mem a n))).each (rangeLines a n) (writeLine c)
  s.modMerid c fun m => (List.range (((m.queue.toList.flatten.map fun r => r.count * (r.beats + 2)).sum + 40))).foldl
    (fun m _ => if m.queue[q.port.val].length ≤ 1 then m else busCycle (busRank s c) (busLastBeat s c) m) m

end Sys2Proof.Machine
end

