-- ==== Sys2Proof/Machine/Events.lean ====
section
/-! DEFINITION. What the module reports: frames and the out-queue (R58 to R60), events (R68, R421), the cairn (R435, R436), the
field book (R429 to R433), error causes (R88, R89), transient and lasting events (R414, R85), error injection (R90). -/
namespace Sys2Proof.Machine

/-! ## Frames -/

/-- The pause of a class holds its frames (R40). -/
def classHeld (s : State) (k : Fin 2) : Bool := (s.reg (gpage .hmac) 0x10C).getLsbD 8 && s.icp.paused[k.val]

/-- A frame goes onto the wire; TX_TAG decides the priority tag (R41). -/
def putFrame (f : TxFrame) (s : State) : State :=
  let map := (s.reg (gpage .hmac) 0x10C).toNat
  let pcp : Option (BitVec 3) :=
    if bitAt map 9 then some (BitVec.ofNat 3 (if f.cls = 0 then bitsOf map 2 0 else bitsOf map 6 4)) else none
  { s with sent := s.sent ++ [.icp f pcp] }

/-- Hands a response to the MAC: nothing is sent while the link is down (R60); a class held by PFC waits (R40). -/
def transmit (f : TxFrame) (s : State) : State :=
  if !s.icp.linkUp then s
  else if classHeld s f.cls then s.modIcp fun i => { i with txWait := i.txWait.set f.cls.val (i.txWait[f.cls.val] ++ [f]) }
  else putFrame f s

/-- The number of frames the out-queue holds (R59). -/
def outqMax : Nat := 4096

def State.outqFull (s : State) : Bool := outqMax ≤ s.icp.outq.length

/-- A queued frame with its payload read from its source again (R304). -/
def reread (s : State) (e : OutqEntry) : OutqEntry :=
  match e.src with
  | some (c, a, n) => { e with frame := { e.frame with payload := memRds (s.chan c).mem a n } }
  | none => e

/-- The frame that a waiting sending of an out-queue entry puts on the wire: to the address in force now (R69, R73), an offload's payload
read again if it was sent before (R304). -/
def wireFrame (s : State) (e : OutqEntry) (retx : Bool) : TxFrame :=
  let e := if e.sentEver then reread s e else e
  { e.frame with dst := s.hostMac, flags := if retx then e.frame.flags ||| 1 else e.frame.flags }

/-- The sendings that wait in the out-queue take place, oldest first (R58 to R60): not while the link is down, the host is lost or its
address is not set, nor of a class held by PFC. -/
def sendOutq (s : State) : State :=
  if !s.icp.linkUp || s.icp.hostLost || !s.hostKnown then s
  else
    let go := fun (e : OutqEntry) => e.due.isSome && !classHeld s e.frame.cls
    let out := s.icp.outq.filterMap fun e => if go e then e.due.map (wireFrame s e) else none
    let s := s.modIcp fun i => { i with outq := i.outq.map fun e => if go e then { e with sentEver := true, due := none } else e }
    s.each out putFrame

/-- A module-originated frame enters the out-queue under the next number (R58). -/
def enqueueTx (f : TxFrame) (src : Option (Fin 9 × Nat × Nat)) (s : State) : State :=
  let f := { f with seq := s.icp.txSeq }
  sendOutq (s.modIcp fun i => { i with txSeq := i.txSeq + 1, outq := i.outq ++ [⟨f, 1, false, some false, src⟩] })

/-- A module-originated frame of class 0 to the host (R58, R69). -/
def originated (s : State) (typ : Nat) (zone : Nat) (addr : Nat) (first last : Bool) (payload : List Byte) : TxFrame :=
  { dst := s.hostMac, typ := BitVec.ofNat 4 typ, cls := 0, flags := BitVec.ofNat 8 (boolBit first 1 + boolBit last 2),
    zone := BitVec.ofNat 8 zone, seq := 0, ack := 0, status := 0, addr := BitVec.ofNat 64 addr, tag := 0, payload }

/-- The 16 bytes of an event record (R68). -/
def EventRec.bytes (e : EventRec) : List Byte :=
  toLE 2 e.code.toNat ++ [e.zone, e.severity] ++ toLE 2 e.block.toNat ++ [e.inst, 0] ++ toLE 8 e.time

/-- An event record goes out in an EVENT frame, or is held while it cannot be sent (R59, R69, R422). -/
def sendEvent (e : EventRec) (s : State) : State :=
  if s.hostKnown && !s.outqFull && s.hostUp then
    enqueueTx (originated s 0x9 e.zone.toNat (e.zone.toNat * 2 ^ 60) true true e.bytes) none s
  else s.modIcp fun i => { i with heldEvents := i.heldEvents ++ [e] }

/-! ## The cairn -/

/-- The newest entries a ring keeps (R435). -/
def ringMax : Nat := 4096

def Ring.add (e : CairnE) (r : Ring) : Ring :=
  match r.frozen with
  | some _ => { r with lost := r.lost + 1 }
  | none => { r with entries := (r.entries ++ [e]).drop (r.entries.length + 1 - ringMax) }

def State.modRing (s : State) (i : Fin 10) (f : Ring → Ring) : State :=
  { s with rings := s.rings.set i.val (f s.rings[i.val]) }

/-- An entry reaching a ring; one that reaches a frozen ring is counted in its slot's header too (R436). -/
def ringAdd (i : Fin 10) (e : CairnE) (s : State) : State :=
  let s' := s.modRing i (Ring.add e)
  match s.rings[i.val].frozen with
  | none => s'
  | some _ =>
    let newest := (s.slots.filter fun t => t.ring = i.val).foldl (fun m t => max m (t.order + 1)) 0
    { s' with slots := s'.slots.map fun t =>
        if t.ring = i.val ∧ t.order + 1 = newest then { t with content := { t.content with lost := t.content.lost + 1 } } else t }

/-- The ring of a zone (R435). -/
def zoneRing (zone : Nat) : Fin 10 := if h : 2 ≤ zone ∧ zone - 2 < 9 then ⟨zone - 2, by omega⟩ else 9

/-- The channel of a zone. -/
def zoneChan9 (zone : Nat) : Fin 9 := ⟨(zone - 2) % 9, by omega⟩

/-- A cairn entry in its zone's ring; lasting events and CHAN_STATE events are copied to the global ring (R435). A channel whose
MX does not answer feeds no entry of its own. -/
def cairn (e : CairnE) (toGlobal : Bool) (s : State) : State :=
  let r := zoneRing e.zone.toNat
  let s := if r ≠ 9 && !(s.chan (zoneChan9 e.zone.toNat)).answers then s else ringAdd r e s
  if toGlobal && r ≠ 9 then ringAdd 9 e s else s

def noDetail : List Byte := List.replicate 16 0

/-- Raises an event without a note: the event record, and its cairn entry (R422). -/
def eventNoNote (code sev : Nat) (zone block inst : Nat) (inj : Bool) (s : State) : State :=
  let e : EventRec := ⟨BitVec.ofNat 16 code, BitVec.ofNat 8 zone, BitVec.ofNat 8 sev, BitVec.ofNat 16 block, BitVec.ofNat 8 inst, s.now⟩
  let ce : CairnE := ⟨s.now, BitVec.ofNat 16 code, 1, BitVec.ofNat 8 (2 * sev + boolBit inj 0), BitVec.ofNat 16 block,
    BitVec.ofNat 8 zone, BitVec.ofNat 8 inst, noDetail⟩
  sendEvent e (cairn ce (sev = 2 || code = 0x0110) s)

/-! ## The field book -/

/-- Space used, in units of 64 bytes (R440). -/
def bookUsed (b : BookS) : Nat := (b.records.map List.length).sum / 64

/-- Appends a record: dropped and counted if it does not fit, FBOOK_FULL raised once (R433, R434). -/
def bookAppend (r : List Byte) (s : State) : State :=
  if bookUsed s.book + r.length / 64 ≤ 262144 then
    s.modBook fun b => { b with records := b.records ++ [r], seq := b.seq + 1 }
  else
    let first := !s.book.full
    let s := s.modBook fun b => { b with full := true, dropped := satAdd 0xFFF b.dropped 1 }
    s.when first (eventNoNote 0x0150 0 0 5 0 false)

/-- A note (R431): 64 bytes with their CRC-32C. -/
def noteBytes (s : State) (code zone inst block : Nat) (detail : List Byte) : List Byte :=
  let body := toLE 2 2 ++ toLE 2 1 ++ toLE 4 s.pwr.opHours.toNat ++ toLE 4 s.pwr.powerCycles.toNat ++ toLE 8 s.now ++
    toLE 2 code ++ toLE 1 zone ++ toLE 1 inst ++ toLE 2 block ++ (detail ++ List.replicate 34 0).take 34
  body ++ toLE 4 (crc32c body).toNat

def note (code zone inst block : Nat) (detail : List Byte) (s : State) : State :=
  bookAppend (noteBytes s code zone inst block detail) s

/-- A named event (R421, R422), with its note where the table marks one. -/
def event (code sev : Nat) (p : Page) (inst : Nat) (withNote : Bool) (s : State) : State :=
  let s := eventNoNote code sev p.zone p.blk.num inst false s
  s.when withNote (note code p.zone inst p.blk.num [])

/-- Counts in the open epoch: transients, lasting events and stale replies of a page (R407, R417, R429). -/
def bookCount (p : Page) (t l st : Nat) (s : State) : State :=
  s.modBook fun b =>
    let (t0, l0, s0) := spGet (fun _ => (0, 0, 0)) b.counters p.key
    { b with counters := spSet (fun _ => (0, 0, 0)) b.counters p.key (t0 + t, l0 + l, s0 + st) }

/-- Adds to one of the eight epoch totals of a channel (R429): 0 mispredicted neurons, 1 closure samples, 2 in excess,
3 discrepancies, 4 repeat transients, 5 extra rounds, 6 late plans, 7 saturations. -/
def bookTotal (c : Fin 9) (i n : Nat) (s : State) : State :=
  s.modBook fun b =>
    let l := b.totals[c.val]
    { b with totals := b.totals.set c.val (l.set i (l.getD i 0 + n)) }

/-! ## Freezing -/

/-- The number of flash slots of the cairn (R436). -/
def cairnSlots : Nat := 16

/-- Freezes a ring with the entry that froze it, writes it to a free flash slot or over the oldest, and raises CAIRN_FROZEN
(R436). A ring already frozen is left. -/
def freezeRing (i : Fin 10) (code : Nat) (kind : Nat) (s : State) : State :=
  match s.rings[i.val].frozen with
  | some _ => s
  | none =>
    let s := s.modRing i fun r =>
      { r with frozen := some (s.now, BitVec.ofNat 16 code, BitVec.ofNat 8 kind, s.pwr.opHours, s.pwr.powerCycles), lost := 0 }
    let order := s.slots.foldl (fun m t => max m (t.order + 1)) 0
    let slot : CairnSlot := ⟨i.val, s.rings[i.val], order⟩
    let oldest := s.slots.foldl (fun m t => min m t.order) order
    let slots :=
      if s.slots.length < cairnSlots then s.slots ++ [slot]
      else s.slots.map fun t => if t.order = oldest then slot else t
    eventNoNote 0x0151 2 0 6 i.val false { s with slots }

/-! ## Causes -/

/-- The severity of a cause (R421). -/
def causeSeverity (n : Nat) : Nat := if n = 1 then 1 else if n = 2 then 2 else 0

/-- Causes that write a note besides LASTING (R432): `TRAV.ERR_STAT.WAVE_SWITCH` and `PLAT.ERR_STAT.COFED`. -/
def causeNote (p : Page) (n : Nat) : Bool :=
  n = 2 || (p.blk = .trav && n = 17) || (p.blk = .plat && n = 16)

/-- One occurrence of an ERR_STAT cause (R88, R89): the bit, ERR_FIRST while it holds no record, the event record if enabled,
the cairn entry, the note. `detail` is the entry's detail. -/
def causeAt (p : Page) (n : Nat) (inj : Bool) (detail : List Byte) (s : State) : State :=
  let enabled := (s.hdr p).errEnable.getLsbD n
  let t := s.now
  let s := s.modHdr p fun h =>
    { h with
      errStat := h.errStat ||| w32 (2 ^ n)
      errFirst := if h.errFirst.getLsbD 8 then h.errFirst else w32 (n + 2 ^ 8 + bitsOf t 32 10 * 2 ^ 9) }
  let sev := causeSeverity n
  let ce : CairnE := ⟨t, BitVec.ofNat 16 n, 0, BitVec.ofNat 8 (2 * sev + boolBit inj 0), BitVec.ofNat 16 p.blk.num,
    BitVec.ofNat 8 p.zone, BitVec.ofNat 8 p.inst.val, detail⟩
  let s := cairn ce (sev = 2) s
  let s := s.when enabled
    (sendEvent ⟨BitVec.ofNat 16 n, BitVec.ofNat 8 p.zone, BitVec.ofNat 8 sev, BitVec.ofNat 16 p.blk.num, BitVec.ofNat 8 p.inst.val, t⟩)
  s.when (causeNote p n) (note n p.zone p.inst.val p.blk.num [])

def cause (p : Page) (n : Nat) (s : State) : State := causeAt p n false noDetail s

/-- Stale replies are discarded at their requester's receiving queue (R407): each is an occurrence of STALE_REPLY, counted for the epoch. -/
def staleReplies (p : Page) (n : Nat) (s : State) : State := bookCount p 0 0 n (n.repeat (cause p 4) s)

/-- The replies that wait reach their requesters (R407). -/
def deliverReplies (c : Fin 9) (s : State) : State := takeReplies c staleReplies s

/-- A refused write (R488): `ERR_STAT.CFG_REFUSED`. -/
def cfgRefused (p : Page) (s : State) : State := cause p 0 s

/-- A transient event of a block (R414): RETRY_CNT, TRANSIENT, the epoch's count. -/
def transientEvent (p : Page) (inj : Bool) (s : State) : State :=
  let s := s.modHdr p fun h => { h with retryCnt := w32 (satAdd 0xFFFFFFFF h.retryCnt.toNat 1) }
  bookCount p 1 0 0 (causeAt p 1 inj noDetail s)

/-- A channel's survey stops (R428): the offsets and entries that were in force before it are restored, and it stays pending. -/
def stopSurvey (c : Fin 9) (s : State) : State :=
  match (s.chan c).surveyFrom with
  | none => s
  | some b =>
    let cap := fun (d : Nat) => s.field (cpage c .cclk) 0x100 (18 + 4 * d) (16 + 4 * d)
    let s := s.modChan c fun ch =>
      { ch with bench := { ch.bench with offset := b.offset, entryDx := b.entryDx, entryGx := b.entryGx, entryMx := b.entryMx }
                entryNow := #v[max b.entryDx (cap 0), max b.entryGx (cap 1), max b.entryMx (cap 2)]
                surveyed := 0, surveyHold := false, surveyFrom := none }
    let bit : BitVec 10 := BitVec.ofNat 10 (2 ^ c.val)
    s.modSupv fun v => { v with surveyRunning := v.surveyRunning &&& ~~~bit, surveyPending := v.surveyPending ||| bit }

/-- A lasting event of a block (R85, R414, R417): FAULT_CNT, LASTING, the epoch's count, the rings frozen (R436); the block
fenced and FAULTED where the block itself is taken out of use. -/
def lastingEvent (p : Page) (fenceIt inj : Bool) (detail : List Byte) (s : State) : State :=
  let s := s.modHdr p fun h =>
    { h with
      faultCnt := w32 (satAdd 0xFFFFFFFF h.faultCnt.toNat 1)
      fence := h.fence || fenceIt
      faulted := h.faulted || fenceIt }
  let s := bookCount p 0 1 0 (causeAt p 2 inj detail s)
  let s := if p.blk.isChan then stopSurvey p.chan (s.modChan p.chan fun ch => { ch with lasting := true }) else s
  freezeRing (zoneRing p.zone) 2 0 s

/-- A control entry of the cairn (R435): 1 fence, 2 release, 3 reset, 4 drain, 5 domain stop, 6 domain start, 7 map write,
8 claim; `src` 0 ICP, 1 sideband, 2 hardware, 3 supervisor. -/
def control (code : Nat) (p : Page) (src : Nat) (v : W32) (s : State) : State :=
  cairn ⟨s.now, BitVec.ofNat 16 code, 2, 0, BitVec.ofNat 16 p.blk.num, BitVec.ofNat 8 p.zone, BitVec.ofNat 8 p.inst.val,
    [BitVec.ofNat 8 src, 0, 0, 0] ++ toLE 4 v.toNat ++ List.replicate 8 0⟩ false s

/-! ## Error injection -/

/-- The armed injection of a page: its cause and mode (R90). -/
def armed (s : State) (p : Page) : Option (Nat × Nat) :=
  let v := (s.hdr p).errInject.toNat
  if bitAt v 31 then some (bitsOf v 4 0, bitsOf v 9 8) else none

/-- The cause has a retry path of its own on the page (R90): causes 1 and 2 on every page, WRITE_CRC on an HBM instance. -/
def retryCause (p : Page) (n : Nat) : Bool := n = 1 || n = 2 || (p.blk = .hbm && n = 17)

/-- Firing clears ARMED and returns MODE to none (R90). -/
def disarm (p : Page) (s : State) : State :=
  s.modHdr p fun h => { h with errInject := h.errInject &&& 0x1F }

/-- INJECTED, set beside the causes of an injected event (R90). -/
def injectedCause (p : Page) (s : State) : State := causeAt p 3 true noDetail s

/-- INJECTED is set where an injection failed the operation (R90). -/
def injectedIf (inj : Bool) (p : Page) (s : State) : State := s.when inj (injectedCause p)

/-- How many causes of its own a block defines in BLOCK_ERR, from bit 16 on (R88 and the blocks' chapters). -/
def blockCauses (b : Blk) : Nat :=
  match b with
  | .supv | .layout | .update | .merid | .cache => 1
  | .seq | .hub | .hbm | .pwr => 2
  | .gather => 3
  | .numw | .route | .sec => 4
  | .trav | .plat => 5
  | _ => 0

/-- The block defines the cause: the other bits of ERR_STAT are reserved. -/
def causeDefined (p : Page) (n : Nat) : Bool := n ≤ 4 || (16 ≤ n && n < 16 + blockCauses p.blk)

/-- An injection that fails no operation sets its cause, with INJECTED, in the order of their numbers (R89, R90). One that names a cause
which the block does not define has no bit to set, and sets INJECTED alone (DESIGN CHOICE, log 27). -/
def fireCause (p : Page) (n : Nat) (s : State) : State :=
  let s := disarm p s
  if !causeDefined p n then injectedCause p s
  else if n ≤ 3 then (causeAt p n true noDetail s).when (n ≠ 3) (injectedCause p)
  else causeAt p n true noDetail (injectedCause p s)

/-- The operation of a retry-capable path meets the injection that covers it (R90): the mode, 1 to fail it once and 2 to fail its retry too,
and the state in which it has fired. -/
def takeInjection (p : Page) (covers : Nat → Bool) (s : State) : Option Nat × State :=
  match armed s p with
  | some (n, m) => if covers n && (m = 1 || m = 2) then (some m, disarm p s) else (none, s)
  | none => (none, s)

/-- Causes 1 and 2 (R90). -/
def commonCover (n : Nat) : Bool := n = 1 || n = 2

/-- An armed injection whose cause has no retry path, or whose mode is 0b11, fires as soon as its block is released (R90). -/
def fireIfReleased (p : Page) (s : State) : State :=
  match armed s p with
  | none => s
  | some (n, m) => if !s.fenced p && (m = 3 || !retryCause p n) then fireCause p n s else s

end Sys2Proof.Machine
end

