-- ==== Sys2Proof/Machine/Effects.lean ====
section
/-! DEFINITION. What a descriptor's held effects do to the state (R117, R140, R157 to R160, R166, R211, R222, R223, R234, R245): counts and
captures of its commit, counts of its completion, and the bytes it writes through its port of the Meridian (R323). -/
namespace Sys2Proof.Machine

def numwPage (c : Fin 9) : Page := cpage c .numw
def gxPage (c : Fin 9) : Page := cpage c .gather

/-! ## Ports (R323) -/

/-- The Meridian port of a unit's own traffic. A table-mode send, a send to the own station and a receive
use the first engine's (log 70). -/
def unitPort : UnitId → Fin 16
  | .arrayA => 0
  | .arrayB => 1
  | .vector => 2
  | .gx | .score | .apply => 3
  | .layout => 5
  | .update => 6
  | .plat => 7
  | .trav p => ⟨8 + p.val, by omega⟩
  | .travAll | .own | .recv => 8
  | .reduce | .loan | .offload => 14
  | .seq => 15

/-- The page whose EPOCH a unit's requests carry (R402, R407). -/
def unitPage (c : Fin 9) : UnitId → Page
  | .arrayA => arrPage c 0
  | .arrayB => arrPage c 1
  | .vector => cpage c .numw
  | .gx => cpage c .gather
  | .score | .apply => cpage c .route
  | .layout => cpage c .layout
  | .update => cpage c .update
  | .plat => cpage c .plat
  | .trav p => travPage c p
  | .travAll | .own | .recv => travPage c 0
  | .reduce | .loan | .offload => gpage .hub
  | .seq => cpage c .seq

/-- A descriptor's requests for its operands. -/
def readReq (c : Fin 9) (u : UnitId) (no : Nat) : Requester := ⟨unitPort u, unitPage c u, some no⟩

/-- A descriptor's writes: an array's tile is stored by the layout engine (R211, R323). -/
def writeReq (c : Fin 9) (u : UnitId) (no : Nat) : Requester :=
  match u with
  | .arrayA | .arrayB => ⟨5, cpage c .layout, some no⟩
  | u => readReq c u no

/-- The requests of the sparse operand path (R323). -/
def sparseReq (c : Fin 9) (no : Nat) : Requester := ⟨4, cpage c .gather, some no⟩

/-- The requests of the hub's link and of the sequencer. -/
def hubReq : Requester := ⟨14, gpage .hub, none⟩
def seqReq (c : Fin 9) (no : Option Nat) : Requester := ⟨15, cpage c .seq, no⟩

/-! ## Counts -/

/-- A capture register pair of GATHER: written while VALID is 0 (R223, R245). -/
def capture (p : Page) (off : Nat) (v : W32) (s : State) : State :=
  if (s.reg p off).getLsbD 31 then s else s.setReg p off (v ||| 0x80000000)

/-- Saturations by conversion are counted (R140). -/
def countSat (c : Fin 9) (n : Nat) (s : State) : State :=
  if n = 0 then s else bookTotal c 7 n (cause (numwPage c) 19 (s.bump (numwPage c) 0x120 n))

/-- What enters the registers of NUMW and GATHER at the commit of a descriptor, or at a pass's counting cycle (R140, R160, R245). -/
def countEff (c : Fin 9) (e : Eff) (s : State) : State :=
  let p := numwPage c
  match e with
  | .sat n => countSat c n s
  | .invalid n => cause p 16 (s.bumpField p 0x100 19 0 n)
  | .nanResult => cause p 18 (s.bumpField p 0x100 31 20 1)
  | .overflow n => cause p 17 (s.bump p 0x104 n)
  | .firstInvalid id m n chunk =>
    if (s.reg p 0x114).getLsbD 31 then s
    else (((s.setReg p 0x108 id).setReg p 0x10C (w32 m)).setReg p 0x110 (w32 n)).setReg p 0x114 (w32 (chunk + 2 ^ 31))
  | .structViol n first => cause (gxPage c) 17 (capture (gxPage c) 0x10C first (s.bump (gxPage c) 0x108 n))
  | _ => s

/-- What is added at the completion of a committed descriptor (R223, R242, R275). -/
def lateEff (c : Fin 9) (e : Eff) (s : State) : State :=
  match e with
  | .indexRange n first => cause (gxPage c) 16 (capture (gxPage c) 0x104 first (s.bump (gxPage c) 0x100 n))
  | .lateSat n => countSat c n s
  | .mispredict n => cause (gxPage c) 18 (bookTotal c 0 n s)
  | .gradBad => cause (cpage c .update) 16 s
  | _ => s

/-! ## Writes -/

/-- Bytes written in order through a port. -/
def putAll (c : Fin 9) (q : Requester) (puts : List (Nat × List Byte)) (s : State) : State :=
  s.each puts fun p s => writeMem c q p.1 p.2 s

/-- The bytes of an effect written, and what the drain counts as it converts them (R140). -/
def storeEff (c : Fin 9) (q : Requester) (e : Eff) (s : State) : State :=
  match e with
  | .store a bs => writeMem c q a bs s
  | .block puts => putAll c q puts s
  | .units l => putAll c q l.flatten s
  | .remote d a bs => deliverReplies d (drainPort d 14 (writeMem d hubReq a bs s))
  | .drainSat n => countSat c n s
  | _ => s

/-- The ranges that an effect writes in its own channel. -/
def Eff.spans : Eff → List Span
  | .store a bs => [(a, bs.length)]
  | .block puts => puts.map fun p => (p.1, p.2.length)
  | .units l => l.flatten.map fun p => (p.1, p.2.length)
  | _ => []

/-- An effect that writes memory. -/
def Eff.writes : Eff → Bool
  | .store _ _ | .block _ | .units _ | .remote .. => true
  | _ => false

/-- What a descriptor that ends RESET after its grant has written (R120, R279): of a store in units, its first units (R211); of any other,
all or nothing of each effect; how much is a free value (log 2). -/
def maybeStore (c : Fin 9) (q : Requester) (e : Eff) (s : State) : State :=
  match e with
  | .units l => let (v, s) := s.draw; putAll c q (l.take (v.toNat % (l.length + 1))).flatten s
  | .store _ _ | .block _ | .remote .. => let (v, s) := s.draw; if v.getLsbD 0 then storeEff c q e s else s
  | _ => s

end Sys2Proof.Machine
end

