-- ==== Sys2Proof/Machine/Desc.lean ====
section
/-! DEFINITION. Descriptors (R98 to R120): the header and its check, streams and issue, completion and its record, the end of
descriptors by fences and resets, and the hub's transactions that end with them. -/
namespace Sys2Proof.Machine

/-! ## The header (R98) -/

def dOpcode (d : List Byte) : Nat := fld d 0 1
def dNotify (d : List Byte) : Bool := bitAt (fld d 1 1) 0
def dOrder (d : List Byte) : Bool := bitAt (fld d 1 1) 1
def dStream (d : List Byte) : Fin 4 := ⟨fld d 2 2 % 4, by omega⟩
def dWaitStake (d : List Byte) : Nat := bitsOf (fld d 2 2) 11 2
def dWaitEn (d : List Byte) : Bool := bitAt (fld d 2 2) 12
def dWaitValue (d : List Byte) : Nat := fld d 4 4
def dSigStake (d : List Byte) : Nat := bitsOf (fld d 8 2) 9 0
def dSigEn (d : List Byte) : Bool := bitAt (fld d 8 2) 10
def dSigInc (d : List Byte) : Nat := fld d 10 2
def dId (d : List Byte) : W32 := w32 (fld d 12 4)

/-- The opcodes of R101. -/
def opcodes : List Nat :=
  [0x01, 0x02, 0x08, 0x10, 0x11, 0x20, 0x21, 0x22, 0x23, 0x30, 0x31, 0x38, 0x39, 0x40, 0x48, 0x50, 0x51, 0x58, 0x59, 0x5A, 0x5B,
   0x60, 0x61, 0x68]

/-- The first offending byte of the header, if any (R99). A fetched descriptor is also checked for its list's stream (offset 2)
and for a BATCH_FETCH that is not the list's last (offset 0), under R103. -/
def headerBad (d : List Byte) (fetchedIn : Option (Fin 4 × Bool)) : Option Nat :=
  if !opcodes.contains (dOpcode d) then some 0
  else if (fetchedIn.map fun f => decide (dOpcode d = 0x68) && !f.2).getD false then some 0
  else if fld d 1 1 / 4 ≠ 0 then some 1
  else if (fetchedIn.map fun f => decide (dStream d ≠ f.1)).getD false then some 2
  else if fld d 3 1 / 32 ≠ 0 then some 3
  else if fld d 9 1 / 8 ≠ 0 then some 9
  else none

/-! ## Status and flags (R114, R115) -/

def stCompleted : H16 := 0
def stReset : H16 := 1
def stAborted : H16 := 2
def stFlushed : H16 := 3
def stFormat : H16 := 4
def stOperand : H16 := 5
def stFault : H16 := 6
def stFenced : H16 := 8

/-- The statuses that halt a stream (R119). -/
def halting (st : H16) : Bool := st = stReset || st = stFormat || st = stOperand || st = stFault || st = stFenced

def flInvalid : H16 := 1
def flNan : H16 := 2
def flOverflow : H16 := 4
def flStructViol : H16 := 8
def flIndexRange : H16 := 16
def flAbortLate : H16 := 32
def flLoanRecalled : H16 := 64
def flPlanLate : H16 := 128
def flJitScale : H16 := 256
def flExtraRounds : H16 := 512

def flagIf (b : Bool) (f : H16) : H16 := if b then f else 0

/-! ## Stakes (R109 to R111) -/

def stakeDefault : Nat → W32 := fun _ => 0

def State.stake (s : State) (c : Fin 9) (i : Nat) : W32 := spGet stakeDefault (s.chan c).stakes i

def State.setStake (s : State) (c : Fin 9) (i : Nat) (v : W32) : State :=
  s.modChan c fun ch => { ch with stakes := spSet stakeDefault ch.stakes i v }

def State.addStake (s : State) (c : Fin 9) (i n : Nat) : State := s.setStake c i (s.stake c i + w32 n)

/-- The wait of R109: (stake − value) mod 2^32 is below 2^31. -/
def stakeReached (s : State) (c : Fin 9) (i v : Nat) : Bool := (s.stake c i - w32 v).toNat < 2 ^ 31

/-! ## Completion records (R113, R116, R67) -/

/-- The 32 bytes of a completion record. -/
def CompRec.bytes (r : CompRec) : List Byte :=
  toLE 4 r.id.toNat ++ toLE 2 r.status.toNat ++ toLE 2 r.flags.toNat ++ [r.opcode] ++
    toLE 1 (r.stream.val + boolBit r.fetched 2) ++ [0, 0] ++ toLE 4 r.detail.toNat ++ toLE 8 r.time ++ List.replicate 8 0

/-- A channel's held records go out in COMPLETION frames of at most 256 (R67). They wait while the host's address is not set
(R69), and while the out-queue is full (R59). -/
def sendCompletions (c : Fin 9) (s : State) : State :=
  let rs := (s.chan c).recs
  if rs.isEmpty || !s.hostKnown then s
  else if s.outqFull then
    s.modChan c fun ch => { ch with recs := [], recsWait := ch.recsWait ++ rs }
  else
    let s := s.modChan c fun ch => { ch with recs := rs.drop 256 }
    enqueueTx (originated s 0x8 (2 + c.val) ((2 + c.val) * 2 ^ 60) true true ((rs.take 256).flatMap CompRec.bytes)) none s

/-- The order of R116: ascending time, then stream, then place in the stream. -/
def CompRec.upTo (a b : CompRec) : Bool :=
  a.time < b.time || (a.time = b.time && (a.stream < b.stream || (a.stream = b.stream && a.no < b.no)))

/-- A record takes its place among those held. -/
def addRec (r : CompRec) : List CompRec → List CompRec := putBy CompRec.upTo r

/-- A record reaches ICP: a frame goes out at 256 held records, and at once when COAL_TIME is 0 (R67, R76). -/
def deliverRecord (c : Fin 9) (r : CompRec) (s : State) : State :=
  let s := s.modChan c fun ch => { ch with recs := addRec r ch.recs }
  if 256 ≤ (s.chan c).recs.length || s.reg (gpage .icp) 0x118 = 0 then sendCompletions c s else s

/-- A DESC_CREATE is rejected (R216). -/
def createRejected (c : Fin 9) (detail : Nat) (s : State) : State :=
  let p := cpage c .layout
  cause p 16 ((s.bumpField p 0x108 15 0 1).setField p 0x108 31 16 detail)

def arrUnit (a : Fin 2) : UnitId := if a = 0 then .arrayA else .arrayB

/-- The set that the pass at a place in issue order would continue is discarded (R176): the one held, or, of a pass that has not committed,
the one that it would leave. -/
def dropSet (c : Fin 9) (a : Fin 2) (no : Nat) (s : State) : State :=
  match ((s.chan c).fly.filter fun f => f.unit = arrUnit a && f.no < no).getLast? with
  | some f => if f.committed then s.modArray c a fun x => { x with heldSet := none } else s.modArray c a fun x => { x with dropped := some f.no }
  | none => s.modArray c a fun x => { x with heldSet := none }

/-- An abort of a CONTINUE pass discards the held set of the array it names (R176). -/
def discardHeld (c : Fin 9) (d : List Byte) (no : Nat) (s : State) : State :=
  if dOpcode d = 0x10 && bitsOf (fld d 26 2) 3 2 = 2 then
    match bitsOf (fld d 26 2) 1 0 with
    | 0 => dropSet c 0 no s
    | 1 => dropSet c 1 no s
    | _ => s
  else s

/-- A descriptor completes (R110, R116, R119): its signal for COMPLETED and ABORTED, its stream halted for a halting status, its
record if NOTIFY is 1, its status is not COMPLETED or a flag is set, and the cairn entry of R435. A DESC_CREATE that completes FORMAT or
OPERAND counts as rejected (R216). `no` is its place in its channel's issue order. -/
def finishDesc (c : Fin 9) (d : List Byte) (st : Fin 4) (fetched : Bool) (no : Nat) (status flags : H16) (detail : W32) (s : State) : State :=
  let s := s.when (dSigEn d && (status = stCompleted || status = stAborted)) fun s => s.addStake c (dSigStake d) (dSigInc d)
  let s := s.when (status = stAborted) (discardHeld c d no)
  let s := s.when (dOpcode d = 0x01 && (status = stFormat || status = stOperand)) (createRejected c (detail.toNat % 65536))
  let s := s.when (halting status) fun s =>
    cause (cpage c .seq) 17 (s.modStream c st fun x => { x with halted := true })
  let r : CompRec := ⟨no, dId d, status, flags, BitVec.ofNat 8 (dOpcode d), st, fetched, detail, s.now⟩
  let s := s.when (status ≠ 0 || flags ≠ 0)
    (cairn ⟨s.now, status, 3, 0, BitVec.ofNat 16 1, BitVec.ofNat 8 (2 + c.val), 0,
      toLE 4 (dId d).toNat ++ [BitVec.ofNat 8 (dOpcode d), BitVec.ofNat 8 st.val] ++ toLE 2 flags.toNat ++ toLE 4 detail.toNat ++
        List.replicate 4 0⟩ false)
  s.when (dNotify d || status ≠ 0 || flags ≠ 0) (deliverRecord c r)

/-- A descriptor that has not issued completes; its place is after those that have. -/
def finishQueued (c : Fin 9) (d : List Byte) (st : Fin 4) (fetched : Bool) (status : H16) (detail : W32) (s : State) : State :=
  finishDesc c d st fetched (s.chan c).issueNo status 0 detail s

/-! ## Issued descriptors -/

def State.findFly (s : State) (c : Fin 9) (no : Nat) : Option Fly := (s.chan c).fly.find? fun f => f.no = no

def State.modFly (s : State) (c : Fin 9) (no : Nat) (g : Fly → Fly) : State :=
  s.modChan c fun ch => { ch with fly := ch.fly.map fun f => if f.no = no then g f else f }

/-- An issued descriptor leaves its unit; a window it posted is posted no longer (R357, R364), and closure work of it ends (R285). -/
def State.dropFly (s : State) (c : Fin 9) (no : Nat) : State :=
  s.modChan c fun ch =>
    { ch with fly := ch.fly.filter (fun f => f.no ≠ no), windows := ch.windows.filter (fun w => w.2.no ≠ no)
              arrays := ch.arrays.map fun a => { a with closure := a.closure.filter fun k => k.no ≠ no } }

/-- A PLAT_WRITE that ends otherwise than COMPLETED leaves its slot incomplete (R374); a PLAT_READ asks for no image any more. -/
def endPlat (c : Fin 9) (f : Fly) (status : H16) (s : State) : State :=
  if f.unit ≠ .plat then s
  else if dOpcode f.desc = 0x51 then s.modPlat c fun x => { x with fetched := none }
  else if f.committed && status ≠ stCompleted && (s.chan c).plat.writing.isSome then
    cause (cpage c .plat) 19 (s.modPlat c fun x => { x with writing := none })
  else s

/-- BUSY_CNT gains the steps that a pass presented (R193). -/
def countBusy (c : Fin 9) (a : Fin 2) (cycles : Nat) (s : State) : State :=
  let total := (s.chan c).arrays[a.val].busyRem + cycles
  (s.bump (arrPage c a) 0x10C (total / 1024)).modArray c a fun x => { x with busyRem := total % 1024 }

/-- A pass that ends while it feeds has presented some of its steps; how many is a free value (R193, log 36). -/
def countPresented (c : Fin 9) (f : Fly) (s : State) : State :=
  if (s.chan c).fly.any fun g => g.no = f.no && g.phase = .feeding && g.begun then
    s.each f.effs fun e s => match e with
      | .busy a n => countBusy c a (s.draw.1.toNat % (n + 1)) s.draw.2
      | _ => s
  else s

/-- The flags of what an array's drain converted (R162). -/
def drainFlags (l : List Eff) : H16 :=
  l.foldl (fun a e => match e with
    | .drainSat n => a ||| flagIf (0 < n) flOverflow
    | .drainNan => a ||| flNan
    | _ => a) 0

/-- What a drain that is cut short has written, counted and flagged (R140, R162, R211): how far it came is a free value (log 2). -/
def cutDrain (c : Fin 9) (q : Requester) : List Eff → State → H16 × State
  | [], s => (0, s)
  | .drainSat n :: l, s =>
    let (v, s) := s.draw
    let k := v.toNat % (n + 1)
    let (fl, s) := cutDrain c q l (countSat c k s)
    (flagIf (0 < k) flOverflow ||| fl, s)
  | .drainNan :: l, s =>
    let (v, s) := s.draw
    let (fl, s) := cutDrain c q l s
    (flagIf (v.getLsbD 0) flNan ||| fl, s)
  | e :: l, s => cutDrain c q l (maybeStore c q e s)

/-- The counts of a pass that is committed and has not counted (R160): its grant is still on its way. -/
def countGrant (c : Fin 9) (f : Fly) (s : State) : State := if f.committed && !f.granted then s.each f.effs (countEff c) else s

/-- An issued descriptor ends with a status. A committed one keeps its counts and flags (R160, R162, R223) and the mark of a late abort (R115),
and one that ends other than COMPLETED after its grant has written an unknown part of its results (R114, R120). A committed transfer over the
hub that ends RESET is counted (R309). -/
def endFly (c : Fin 9) (f : Fly) (status flags : H16) (detail : W32) (s : State) : State :=
  let s := s.when (status ≠ stCompleted) (countPresented c f)
  let s := countGrant c f s
  let s := s.when f.committed fun s => s.each f.effs (lateEff c)
  let (cut, s) := if f.granted && !f.done && status ≠ stCompleted then cutDrain c (writeReq c f.unit f.no) f.effs s else (0, s)
  let hubUnit := f.unit = .reduce || f.unit = .loan || f.unit = .offload
  let s := s.when (hubUnit && f.committed && status = stReset) fun s => s.bump (gpage .hub) 0x10C 1
  let s := endPlat c f status s
  finishDesc c f.desc f.stream f.fetched f.no status
    (flags ||| cut ||| (if f.committed then f.flags ||| flagIf f.abortLate flAbortLate else 0)) detail (s.dropFly c f.no)

/-- Descriptors that end in one cycle end in ascending stream and then issue order (R116). -/
def inOrder (l : List Fly) : List Fly := sortBy (fun f g => f.stream < g.stream || (f.stream = g.stream && f.no ≤ g.no)) l

/-- Every issued descriptor of a channel that meets a test ends with a status. -/
def endFlies (c : Fin 9) (p : Fly → Bool) (status flags : H16) (s : State) : State :=
  s.each (inOrder ((s.chan c).fly.filter p)) fun f => endFly c f status flags 0

/-- The effects that a pass counts with its grant. -/
def Eff.counted : Eff → Bool
  | .sat _ | .invalid _ | .nanResult | .overflow _ | .firstInvalid .. | .structViol .. => true
  | _ => false

/-- The counts of every pass whose grant is on its way, array A's before array B's (R166). -/
def countGrants (c : Fin 9) (s : State) : State :=
  let waits := fun (u : UnitId) => (s.chan c).fly.filter fun f => f.unit = u && f.committed && !f.granted
  let s := s.each (waits .arrayA ++ waits .arrayB) (countGrant c)
  s.modChan c fun ch => { ch with fly := ch.fly.map fun f =>
    if f.committed && !f.granted then { f with effs := f.effs.filter fun e => !e.counted } else f }

/-! ## Transactions of the hub that end with their descriptors (R300, R302, R305) -/

def alive (s : State) (c : Fin 9) (no : Nat) : Bool := (s.chan c).fly.any fun f => f.no = no

/-- Reductions after some descriptors ended: a rendezvous that lost a participant ends every other with RESET (R302); before the
rendezvous the registration is withdrawn. -/
def sweepReduction (r : Reduction) (s : State) : State :=
  let dead := r.parts.any fun p => !p.finished && !alive s p.chan p.no
  if !dead then s
  else if r.met then
    let s := s.each (r.parts.filter fun p => !p.finished) fun p s => endFlies p.chan (fun f => f.no = p.no) stReset 0 s
    s.modHub fun h => { h with reductions := h.reductions.filter fun x => x.id ≠ r.id }
  else
    let parts := r.parts.filter fun p => alive s p.chan p.no
    s.modHub fun h =>
      { h with reductions := (h.reductions.map fun x => if x.id = r.id then { x with parts } else x).filter fun x => !x.parts.isEmpty }

/-- A triangulation past its rendezvous that lost a participant ends every other with RESET (R388). -/
def sweepTri (id : W32) (s : State) : State :=
  let l := s.hub.tris.filter fun t => t.id = id && t.met
  if l.all fun t => alive s t.chan t.no then s
  else
    let s := s.each l fun t s => endFlies t.chan (fun f => f.no = t.no) stReset 0 s
    s.modHub fun h => { h with tris := h.tris.filter fun t => t.id ≠ id || !t.met }

/-- The hub's transactions of descriptors that have ended (R302, R305, R308, R386). -/
def sweep (s : State) : State :=
  let s := s.each s.hub.reductions sweepReduction
  let s := s.each (s.hub.tris.map TriWait.id).eraseDups sweepTri
  s.modHub fun h =>
    { h with
      waiting := h.waiting.filter fun w => alive s w.2.chan w.2.no
      gets := h.gets.filter fun g => alive s g.chan g.no
      puts := h.puts.filter fun g => alive s g.chan g.no
      tris := h.tris.filter fun t => alive s t.chan t.no }

/-! ## Heads of streams (R99, R105, R118) -/

/-- The head of a stream, and for a fetched one its list's stream and whether it is the list's last. -/
def headOf (st : Fin 4) (x : Stream) : Option (QDesc × Option (Fin 4 × Bool)) :=
  match x.fetch with
  | some f =>
    match f.buf with
    | [] => none
    | q :: rest => some (q, some (st, rest.isEmpty && f.remaining = 0 && !f.failed))
  | none => x.queue.head?.map fun q => (q, none)

/-- The BATCH_FETCH ends once the last descriptor of its list has left the buffer (R103); one that failed has completed before (R104). -/
def endFetch (c : Fin 9) (st : Fin 4) (s : State) : State :=
  match ((s.chan c).stream st).fetch with
  | none => s
  | some f =>
    if f.buf.isEmpty && f.remaining = 0 then
      let s := s.modStream c st fun x => { x with fetch := none }
      if f.failed then s
      else finishDesc c f.desc st f.fetched f.no stCompleted (flagIf f.abortLate flAbortLate) (w32 f.issued) s
    else s

/-- A burst fails, so that the BATCH_FETCH completes with a status; the descriptors fetched before stay in the buffer (R104). -/
def failFetch (c : Fin 9) (st : Fin 4) (status : H16) (s : State) : State :=
  match ((s.chan c).stream st).fetch with
  | none => s
  | some f =>
    if f.failed then s
    else
      let s := s.modStream c st fun x =>
        { x with fetch := if f.buf.isEmpty then none else some { f with failed := true, remaining := 0 } }
      finishDesc c f.desc st f.fetched f.no status (flagIf f.abortLate flAbortLate) (w32 f.issued) s

/-- The head leaves its stream. -/
def popHead (c : Fin 9) (st : Fin 4) (issues : Bool) (s : State) : State :=
  s.modStream c st fun x =>
    match x.fetch with
    | some f => { x with fetch := some { f with
        buf := f.buf.drop 1, issued := f.issued + (if issues then 1 else 0), committed := f.committed || issues } }
    | none => { x with queue := x.queue.drop 1 }

/-- Heads that complete without issuing: malformed headers with FORMAT, then aborted ones with ABORTED (R99, R118). At most
`fuel` descriptors of one stream; a halt stops it. -/
def settleStream (c : Fin 9) (st : Fin 4) : Nat → State → State
  | 0, s => s
  | fuel + 1, s =>
    let x := (s.chan c).stream st
    if x.halted then s
    else
      match headOf st x with
      | none => s
      | some (q, fin) =>
        let done := fun (status : H16) (detail : W32) =>
          settleStream c st fuel (finishQueued c q.bytes st fin.isSome status detail (endFetch c st (popHead c st false s)))
        match headerBad q.bytes fin with
        | some off => done stFormat (w32 off)
        | none => if q.aborted then done stAborted 0 else s

/-- Every stream of a channel settled, while its sequencer is enabled (R102). A stream holds at most 192 queued and 128 buffered descriptors
(R102, R103). -/
def settle (c : Fin 9) (s : State) : State :=
  if (s.hdr (cpage c .seq)).enable then s.each allStreams fun st s => settleStream c st 320 s else s

/-! ## Units (R101, R106) -/

/-- The page whose fence or reset is the unit's (R120). -/
def unitPages (c : Fin 9) : UnitId → List Page
  | .layout => [cpage c .layout]
  | .arrayA => [arrPage c 0]
  | .arrayB => [arrPage c 1]
  | .vector => [cpage c .numw]
  | .gx => [cpage c .gather]
  | .score => [cpage c .route]
  | .apply => [cpage c .route]
  | .trav p => [travPage c p]
  | .travAll => allPorts.map (travPage c)
  | .own | .recv => []
  | .reduce => [gpage .hub]
  | .loan => [gpage .hub]
  | .offload => []
  | .update => [cpage c .update]
  | .plat => [cpage c .plat]
  | .seq => []

/-- Units that share an engine: a table-mode send holds one slot of each engine (R357). -/
def overlaps : UnitId → UnitId → Bool
  | .trav _, .travAll => true
  | .travAll, .trav _ => true
  | u, v => decide (u = v)

/-- Descriptors in a unit that have not finished feeding (R106). -/
def inSlots (s : State) (c : Fin 9) (u : UnitId) : Nat :=
  ((s.chan c).fly.filter fun f => (f.phase = .staged || f.phase = .feeding) && overlaps u f.unit).length

/-- The array a MATMUL_PASS goes to (R177): the one its ARRAY field selects, or, for 0b10, the first array out of fence with a free slot,
array A before array B. -/
def passArray (s : State) (c : Fin 9) (d : List Byte) : Fin 2 :=
  match bitsOf (fld d 26 2) 1 0 with
  | 0 => 0
  | 1 => 1
  | _ =>
    let up := fun (a : Fin 2) => !s.fenced (arrPage c a)
    let free := fun (a : Fin 2) => up a && decide (inSlots s c (arrUnit a) < 2)
    if free 0 then 0 else if free 1 then 1 else if up 0 then 0 else if up 1 then 1 else 0

def bearingEntry (s : State) (c : Fin 9) (i : Nat) : Nat := (spGet (fun _ => (7 : W32)) (s.chan c).bearing i).toNat

/-- A station's own address (R340). -/
def ownStation (s : State) (c : Fin 9) : Nat := s.field (cpage c .bearing) 0x100 13 0

/-- The bearing entry for a destination (R342): `none` when it is the station's own address. -/
def bearingFor (s : State) (c : Fin 9) (dest : Nat) : Option Nat :=
  let own := ownStation s c
  if dest = own then none
  else if dest / 64 ≠ own / 64 then some (bearingEntry s c (dest / 64))
  else some (bearingEntry s c (256 + dest % 64))

/-- The executing unit of a descriptor (R101, R357). -/
def unitFor (s : State) (c : Fin 9) (d : List Byte) : UnitId :=
  match dOpcode d with
  | 0x01 | 0x02 => .layout
  | 0x10 => arrUnit (passArray s c d)
  | 0x11 => .vector
  | 0x20 | 0x21 | 0x22 | 0x23 => .gx
  | 0x30 => .score
  | 0x31 => .apply
  | 0x38 =>
    if bitsOf (fld d 16 1) 1 0 = 0 then
      match bearingFor s c (bitsOf (fld d 18 2) 13 0) with
      | some e => if h : e % 8 < 6 then .trav ⟨e % 8, h⟩ else .own
      | none => .own
    else .travAll
  | 0x39 => .recv
  | 0x40 => .reduce
  | 0x48 => .update
  | 0x50 | 0x51 => .plat
  | 0x58 | 0x59 => .loan
  | 0x5A | 0x5B => .offload
  | _ => .seq

def slotFree (s : State) (c : Fin 9) (u : UnitId) : Bool :=
  match u with
  | .seq | .own | .recv => true
  | .travAll => allPorts.all fun p => inSlots s c (.trav p) < 2
  | u => inSlots s c u < 2

/-- The unit is fenced, so that a descriptor due to issue to it completes FENCED (R120). -/
def unitFenced (s : State) (c : Fin 9) (u : UnitId) : Bool := (unitPages c u).any s.fenced

/-- A MATMUL_PASS with SPARSE_A 1. -/
def isSparse (d : List Byte) : Bool := dOpcode d = 0x10 && bitAt (fld d 26 2) 12

/-- A CONTINUE that names no array has no unit to be due to: its body is malformed (R176). -/
def noArray (d : List Byte) : Bool := dOpcode d = 0x10 && bitsOf (fld d 26 2) 1 0 = 2 && bitsOf (fld d 26 2) 3 2 = 2

/-- A descriptor due to issue completes FENCED: its unit is fenced, or GATHER is and the pass is sparse (R236). -/
def dueFenced (s : State) (c : Fin 9) (u : UnitId) (d : List Byte) : Bool :=
  !noArray d && (unitFenced s c u || (isSparse d && s.fenced (cpage c .gather)))

/-! ## Issue (R105) -/

/-- A completion record or an event of the channel waits for room in the out-queue (R59). -/
def outqHold (s : State) (c : Fin 9) : Bool :=
  !(s.chan c).recsWait.isEmpty || (s.outqFull && s.icp.heldEvents.any fun e => e.zone.toNat = 2 + c.val)

/-- A PLAT_WRITE is executing in some channel, which pauses every channel of the module (R34). -/
def platPausing (s : State) : Bool := allChans.any fun c => (s.chan c).fly.any fun f => dOpcode f.desc = 0x50

/-- The channel's sequencer may issue: the channel is in service or spare and not held or stopped (R35, R59, R102, R427, R446). -/
def mayIssue (s : State) (c : Fin 9) : Bool :=
  let ch := s.chan c
  (ch.role = .serving || ch.role = .spare || ch.role = .lending || ch.role = .filling) &&
    (s.hdr (cpage c .seq)).enable && s.pwr.power = .active && !s.pwr.changing && !ch.surveyHold && !outqHold s c

/-- The waits of a STAKE_WAIT's enabled entries (R112). -/
def stakeEntriesMet (s : State) (c : Fin 9) (d : List Byte) : Bool :=
  (List.range 8).all fun i =>
    let e := fld d (16 + 6 * i) 2
    !bitAt e 15 || stakeReached s c (bitsOf e 9 0) (fld d (18 + 6 * i) 4)

/-- The head of a stream is ready to issue: all four conditions of R105. A head whose unit is fenced needs no slot. In a plat pause only a
PLAT_WRITE issues (R34, DEDUCED, log 71). -/
def headReady (s : State) (c : Fin 9) (st : Fin 4) : Option (List Byte × UnitId) :=
  let x := (s.chan c).stream st
  if x.halted then none
  else
    match headOf st x with
    | none => none
    | some (q, fin) =>
      let d := q.bytes
      let u := unitFor s c d
      if (headerBad d fin).isNone && !q.aborted &&
          (!dOrder d || (s.chan c).fly.all fun f => f.stream ≠ st) &&
          (!dWaitEn d || stakeReached s c (dWaitStake d) (dWaitValue d)) &&
          (dOpcode d ≠ 0x60 || stakeEntriesMet s c d) && (dOpcode d = 0x50 || !platPausing s) &&
          (slotFree s c u || dueFenced s c u d)
      then some (d, u) else none

def rrFrom (start : Fin 4) : List (Fin 4) := (List.range 4).map fun i => ⟨(start.val + i) % 4, by omega⟩

/-- The units in whose round-robin orders a head takes part: a table-mode send takes a slot of every engine (R105, R357). -/
def slotUnits (u : UnitId) : List UnitId :=
  match u with
  | .travAll => allPorts.map UnitId.trav
  | u => [u]

/-- The stream at which a unit's round-robin order starts. -/
def unitStart (s : State) (c : Fin 9) (u : UnitId) : Fin 4 := (((s.chan c).rrUnit.find? fun e => e.1 = u).map Prod.snd).getD 0

/-- The head that a unit picks: the first ready one in its order. -/
def unitPick (s : State) (c : Fin 9) (v : UnitId) : Option (Fin 4) :=
  (rrFrom (unitStart s c v)).find? fun t => match headReady s c t with
    | some (_, u) => (slotUnits u).contains v
    | none => false

/-- The stream that issues in this cycle (R105): each unit picks among its ready heads in its own round-robin order, then the
channel-wide order picks among those. A table-mode send is picked if one of its engines picks it (DESIGN CHOICE, log 79). -/
def grantOf (s : State) (c : Fin 9) : Option (Fin 4) :=
  if !mayIssue s c then none
  else
    let picked := fun (st : Fin 4) =>
      match headReady s c st with
      | none => false
      | some (_, u) => (slotUnits u).any fun v => unitPick s c v = some st
    (rrFrom (s.chan c).rrChan).find? picked

/-- The head that issues now leaves its stream; both round-robin orders move past it. -/
def takeIssue (c : Fin 9) (st : Fin 4) (u : UnitId) (s : State) : State :=
  let next : Fin 4 := ⟨(st.val + 1) % 4, by omega⟩
  let vs := slotUnits u
  let s := popHead c st true s
  s.modChan c fun ch =>
    { ch with platPause := false, rrChan := next, rrUnit := vs.map (fun v => (v, next)) ++ ch.rrUnit.filter (fun e => !vs.contains e.1),
              issueNo := ch.issueNo + 1 }

/-- The registers and tables that a descriptor issued now copies. -/
def envOf (s : State) (c : Fin 9) : Env :=
  let u := cpage c .update
  { tensors := (s.chan c).tensors, seqTable := (s.chan c).seqTable
    seed := s.reg u 0x104 ++ s.reg u 0x100, step := s.reg u 0x10C ++ s.reg u 0x108
    nearest := (s.reg u 0x110).getLsbD 0, auditRate := s.field (cpage c .gather) 0x110 15 0
    closureRate := s.reg (cpage c .numw) 0x118, tokenCap := s.field (cpage c .route) 0x10C 3 0, hist := [], live := 0 }

/-- Issues the head of a stream if it is the one R105 grants and its opcode is the command's: a fenced unit completes it FENCED
(R120), otherwise the continuation takes the issued descriptor. Otherwise nothing happens in this cycle (log 4). -/
def issueHead (c : Fin 9) (st : Fin 4) (isOp : List Byte → Bool) (k : Fly → State → State) (s : State) : State :=
  if grantOf s c ≠ some st then s
  else
    match headOf st ((s.chan c).stream st) with
    | none => s
    | some (q, fin) =>
      let d := q.bytes
      if !isOp d then s
      else
        let u := unitFor s c d
        let f : Fly := ⟨d, st, fin.isSome, (s.chan c).issueNo, u, envOf s c, .feeding, false, false, false, false, false, 0, 0, 0, []⟩
        if dueFenced s c u d then
          settle c (finishQueued c d st fin.isSome stFenced 0 (endFetch c st (popHead c st false s)))
        else settle c (k f (endFetch c st (takeIssue c st u s)))

/-- A descriptor may take its unit's feed: nothing feeds there, and nothing that issued before it is staged (R106, R108). -/
def mayFeed (s : State) (c : Fin 9) (f : Fly) : Bool :=
  (s.chan c).fly.all fun g =>
    !overlaps f.unit g.unit || g.no = f.no || (g.phase ≠ .feeding && (g.phase ≠ .staged || f.no < g.no))

/-- An issued descriptor enters its unit: feeding if nothing stands before it there, staged otherwise (R106). -/
def enterUnit (c : Fin 9) (f : Fly) (s : State) : State :=
  let phase := if mayFeed s c f then Phase.feeding else Phase.staged
  s.modChan c fun ch => { ch with fly := ch.fly ++ [{ f with phase }] }

/-- A descriptor that completes at issue without entering its unit. -/
def refuseAt (c : Fin 9) (f : Fly) (status flags : H16) (detail : Nat) (s : State) : State :=
  finishDesc c f.desc f.stream f.fetched f.no status flags (w32 detail) s

/-! ## Body checks (R99) -/

/-- The first byte among the given (offset, allowed mask) pairs that holds a bit outside its mask. -/
def reservedBad (d : List Byte) (l : List (Nat × Nat)) : Option Nat :=
  (l.find? fun e => fld d e.1 1 &&& (255 - e.2) ≠ 0).map Prod.fst

/-- Reserved bytes [a, b). -/
def zeroBytes (a b : Nat) : List (Nat × Nat) := (List.range (b - a)).map fun i => (a + i, 0)

/-- A 40-bit address field at an offset: its upper three bytes are reserved. -/
def addr40 (off : Nat) : List (Nat × Nat) := zeroBytes (off + 5) (off + 8)

/-- The least of two offending offsets. -/
def firstBad (l : List (Option Nat)) : Option Nat :=
  l.foldl (fun a b => match a, b with | some x, some y => some (min x y) | some x, none => some x | none, y => y) none

def badIf (b : Bool) (off : Nat) : Option Nat := if b then some off else none

/-! ## Fences and resets act on descriptors (R120) -/

/-- Every uncompleted descriptor of a channel completes RESET: in each stream those issued, then the BATCH_FETCH, then those
buffered and queued (R120). No signal is performed; the streams are left empty and lose their halts. -/
def resetDescriptors (c : Fin 9) (s : State) : State :=
  let s := countGrants c s
  let s := s.each allStreams fun st s =>
    let s := endFlies c (fun f => f.stream = st) stReset 0 s
    let x := (s.chan c).stream st
    let s := s.modStream c st fun _ => .reset
    let s := match x.fetch with
      | none => s
      | some f =>
        (s.when (!f.failed) (finishDesc c f.desc st f.fetched f.no stReset (flagIf f.abortLate flAbortLate) 0)).each f.buf
          fun q => finishQueued c q.bytes st true stReset 0
    s.each x.queue fun q => finishQueued c q.bytes st false stReset 0
  let s := s.each allStreams fun st s => s.modStream c st fun _ => .reset
  sweep s

/-- A unit's staged and executing descriptors complete RESET, but for one that failed lastingly, which completes FAULT (R120). -/
def endUnit (c : Fin 9) (u : UnitId) (failed : Option Nat) (s : State) : State :=
  let hit := fun (f : Fly) => f.unit = u || (u = .gx && isSparse f.desc) ||
    (match u, f.unit with | .trav _, .travAll => true | _, _ => false)
  let s := s.each (inOrder ((s.chan c).fly.filter hit)) fun f s =>
    endFly c f (if failed = some f.no then stFault else stReset) 0 0 s
  sweep s

/-- The descriptors that some transactions served complete RESET with them (R120, R317, R322). -/
def endOwners (c : Fin 9) (p : MRun → Bool) (s : State) : State :=
  let l := (s.chan c).merid.owners p
  sweep (endFlies c (fun f => l.contains f.no) stReset 0 s)

/-- The units that end when a page is reset, powered down or fenced by a lasting fault (R120). -/
def pageUnits (p : Page) : List UnitId :=
  match p.blk with
  | .layout => [.layout]
  | .dense => [if p.inst.val = 0 then .arrayA else .arrayB]
  | .numw => [.vector]
  | .gather => [.gx]
  | .route => [.score, .apply]
  | .trav => [.trav p.inst]
  | .update => [.update]
  | .plat => [.plat]
  | _ => []

/-- Units whose work moves over the Meridian (R323, R334). -/
def meridUnits : List UnitId :=
  [.layout, .arrayA, .arrayB, .vector, .gx, .score, .apply, .travAll, .own, .recv, .reduce, .loan, .offload, .update, .plat] ++
    allPorts.map UnitId.trav

end Sys2Proof.Machine
end

