-- ==== Sys2Proof/Machine/Fence.lean ====
section
/-! DEFINITION. Fences, drains, resets and power: of a block (R84 to R87, R402 to R408), of a channel (R120, R490), of the
loans and links that end with them (R307, R363, R364), and the roles of channels (R25, R392). -/
namespace Sys2Proof.Machine

/-! ## Roles -/

/-- A channel's role changes: CHAN_STATE is raised (R421), and a change to FAILED freezes its ring (R436). `severe`: the
change to FENCED or FAILED is of severity 2. -/
def setRole (c : Fin 9) (r : Role) (severe : Bool) (s : State) : State :=
  if (s.chan c).role = r then s
  else
    let sev := if r = .failed || (r = .fenced && severe) then 2 else 0
    let s := s.modChan c fun ch => { ch with role := r }
    let s := eventNoNote 0x0110 sev 0 1 c.val false s
    let s := s.when (sev = 2) (note 0x0110 0 c.val 1 [])
    s.when (r = .failed) (freezeRing ⟨c.val, by omega⟩ 0x0110 1)

/-- A plane with neither its channel nor a free spare raises NO_SPARE (R392); a plane that is being claimed has its next channel. -/
def noSpareCheck (c : Fin 9) (s : State) : State :=
  match s.planeOf c with
  | none => s
  | some k =>
    let r8 := (s.chan 8).role
    if (c ≠ 8 ∧ (r8 = .spare ∨ r8 = .lending)) ∨ s.supv.claim.any (fun x => x.plane = k) then s else event 0x0112 2 (gpage .supv) k.val true s

/-! ## Loans (R307) -/

/-- Recalls the loans that meet a test: each is marked, its staged and executing descriptors complete RESET with LOAN_RECALLED,
the lender returns to SPARE with its last loan, one event per borrower plane, one LOAN_RECALL occurrence (R307, R309). -/
def recallLoans (p : Nat → Loan → Bool) (s : State) : State :=
  let hit := s.hub.loans.filter fun l => !l.2.recalled && p l.1 l.2
  if hit.isEmpty then s
  else
    let s := s.modHub fun h => { h with loans := h.loans.map fun l => if !l.2.recalled && p l.1 l.2 then (l.1, { l.2 with recalled := true }) else l }
    let s := s.each allChans fun c s =>
      let onLoan := fun (f : Fly) => f.unit = .loan && hit.any fun l => l.1 = fld f.desc 36 1
      sweep (endFlies c onLoan stReset flLoanRecalled s)
    let s := s.when (s.hub.loans.all fun l => l.2.recalled) fun s =>
      s.each (allChans.filter fun c => (s.chan c).role = .lending) fun c => setRole c .spare false
    let planes := (List.finRange 8).filter fun k => hit.any fun l => l.2.plane = k
    let s := s.each planes fun k s => eventNoNote 0x0113 0 1 3 k.val false s
    cause (gpage .hub) 17 s

/-! ## Traverse links (R363, R364) -/

/-- Local sends that lose flits end with a status; a send that the port's engine is feeding has flits in its queue. -/
def endSends (c : Fin 9) (p : Fin 6) (lost : List TxFlit) (status : H16) (s : State) : State :=
  let nos := lost.filterMap TxFlit.owner
  sweep (endFlies c (fun f => nos.contains f.no || (f.unit = .trav p && f.phase = .feeding && !f.committed)) status 0 s)

/-- A copy to a partner fails, which leaves its COPY_VALID at 0 (R380). -/
def copyFail (c : Fin 9) (s : State) : State :=
  match (s.chan c).plat.copyOut with
  | some o =>
    let s := s.modPlat c fun x => { x with copyOut := none, copyValid := x.copyValid.set! (if o.second then 1 else 0) false }
    eventNoNote 0x0130 0 (2 + c.val) 11 0 false (cause (cpage c .plat) 17 s)
  | none => s

/-- A flit of the copy that goes out: of its data on the plat lane, or of its session's opening. -/
def copyFlit (x : PlatS) (t : TxFlit) : Bool :=
  t.owner.isNone && t.src.isNone && x.copyOut.any fun o => t.flit.dest = o.station &&
    ((t.flit.lane = 2 && t.flit.window = 0) || (t.flit.lane = 3 && t.flit.payload.head? = some 1))

/-- The place of a lane and class in the lists of credits. -/
def slotIx (lane : Fin 4) (cls : Fin 2) : Nat := 2 * lane.val + cls.val

def addAt16 (l : List H16) (i n : Nat) : List H16 := l.set i (l.getD i 0 + BitVec.ofNat 16 n)

/-- A received flit leaves a port's buffer: its credit goes back (R354). -/
def returnCredit (c : Fin 9) (p : Fin 6) (lane : Fin 4) (cls : Fin 2) (s : State) : State :=
  s.modPort c p fun q => { q with creditRet := addAt16 q.creditRet (slotIx lane cls) 1 }

/-- A relayed flit leaves the station: the buffer of its arrival port is free of it (R354). -/
def leaveBuffer (c : Fin 9) (t : TxFlit) (s : State) : State :=
  match t.src with
  | some r => returnCredit c r t.flit.lane t.cls0 s
  | none => s

/-- Discards a port's queued flits and replay buffer: local sends complete with the status, relayed flits are counted in DISCARD
(R363), and those that waited here leave their arrival ports' buffers (R354). -/
def discardPort (c : Fin 9) (p : Fin 6) (status : H16) (s : State) : State :=
  let pt := s.port c p
  let lost := pt.txq ++ pt.replay
  let relayed := (lost.filter fun t => t.src.isSome).length
  let s := (s.modPort c p fun q => { q with txq := [], replay := [] }).each pt.txq (leaveBuffer c)
  let s := s.bumpField (travPage c p) 0x100 31 16 relayed
  let s := s.when (!lost.isEmpty) (cause (travPage c p) 18)
  let s := s.when (lost.any (copyFlit (s.chan c).plat)) (copyFail c)
  endSends c p lost status s

/-- A flit's line bytes (R352). -/
def flitBytes (f : Flit) (ack : BitVec 12) (creditLane : Nat) (creditCount : Nat) : List Byte :=
  let lenCode := if f.len = 64 then 1 else if f.len = 128 then 2 else if f.len = 192 then 3 else 0
  let env := toLE 2 (f.dest.toNat + f.lane.val * 2 ^ 14) ++ toLE 2 (f.src.toNat + f.kind.val * 2 ^ 14) ++
    toLE 1 (f.window % 128 + f.cls.val * 128) ++ toLE 3 (f.offset % 2 ^ 22 + lenCode * 2 ^ 22) ++
    toLE 4 (f.seq.toNat + ack.toNat * 2 ^ 12 + creditLane % 4 * 2 ^ 24 + creditCount % 64 * 2 ^ 26)
  let pay := (f.payload.take f.len ++ List.replicate 256 0).take 256
  env ++ toLE 4 (crc32c (env ++ pay)).toNat ++ pay

/-- A link message in a LINK flit (R351). -/
def linkFlit (code : Byte) (body : List Byte) : Flit :=
  ⟨0, 0, 0, 2, 0, 0, 0, 256, 0, code :: body⟩

/-- Puts a link message on the line at once. -/
def sendLinkMsg (c : Fin 9) (p : Fin 6) (code : Byte) (body : List Byte) (s : State) : State :=
  s.modPort c p fun q => { q with line := q.line ++ [flitBytes (linkFlit code body) q.rxSeq 0 0], ackTold := q.rxSeq }

/-- A link message sent now and repeated by LINK_MSG_REPEAT until answered, or a given number of times (R351). -/
def startLinkMsg (c : Fin 9) (p : Fin 6) (code : Byte) (body : List Byte) (left : Option Nat) (s : State) : State :=
  let s := sendLinkMsg c p code body s
  s.modPort c p fun q => { q with msgs := (q.msgs.filter fun m => m.code ≠ code || (5 ≤ code && code ≤ 7 && m.body ≠ body)) ++ [⟨code, body, left⟩] }

/-- The message is repeated no longer. -/
def stopLinkMsg (code : Byte) (q : Port) : Port := { q with msgs := q.msgs.filter fun m => m.code ≠ code }

/-- A link that comes back with another identity, or not in time: held flits and the replay buffer are discarded, and the link's sequences
start anew (R363). -/
def forgetPeer (c : Fin 9) (p : Fin 6) (s : State) : State :=
  let s := discardPort c p stReset s
  s.modPort c p fun q =>
    { Port.reset with state := q.state, light := q.light, failures := q.failures, line := q.line, msgs := q.msgs, rxHeld := q.rxHeld }

/-- An ACTIVE link goes down (R363): HOLD with its flits held, LINK_DOWN cause and event, the loss counted; HOLD_MS of 0 discards
at once. -/
def linkDown (c : Fin 9) (p : Fin 6) (s : State) : State :=
  if (s.port c p).state ≠ .active then s
  else
    let s := s.modPort c p fun q => { q with state := .hold, msgs := [], switching := [] }
    let s := s.bumpField (travPage c p) 0x110 31 16 1
    let s := cause (travPage c p) 16 s
    let s := eventNoNote 0x0101 0 (2 + c.val) 12 p.val false s
    s.when (s.field (travPage c p) 0x100 15 8 = 0) (forgetPeer c p)

/-- A link is taken down by its own side: DOWN is sent three times, and the flits are held (R351, R363). -/
def takeDown (c : Fin 9) (p : Fin 6) (s : State) : State :=
  if (s.port c p).state ≠ .active then s else startLinkMsg c p 0x09 [] (some 2) (linkDown c p s)

/-- A port is reset, or fenced for good (R364): its link goes down with DOWN, and its flits are discarded. -/
def portDown (c : Fin 9) (p : Fin 6) (status : H16) (s : State) : State :=
  let s := discardPort c p status (takeDown c p s)
  s.modPort c p fun q =>
    { Port.reset with line := q.line, light := q.light, msgs := q.msgs.filter fun m => m.code = 0x09 }

/-! ## Blocks -/

/-- The Meridian port through which a block's traffic goes (R323). -/
def meridPort (p : Page) : Option (Fin 16) :=
  match p.blk with
  | .dense => some (if p.inst.val = 0 then 0 else 1)
  | .numw => some 2
  | .gather | .route => some 3
  | .layout => some 5
  | .update => some 6
  | .plat => some 7
  | .trav => some ⟨8 + p.inst.val, by omega⟩
  | .hub => some 14
  | .seq => some 15
  | _ => none

/-- A lock ends when its owner's block is fenced or reset (R331). -/
def releaseLock (p : Page) (s : State) : State :=
  match meridPort p with
  | some q => if p.blk.isChan then endLock p.chan q s else s
  | none => s

/-- An HBM instance is fenced (R317): the descriptors whose outstanding transactions its stack serves complete RESET. -/
def stackEnds (p : Page) (s : State) : State := endOwners p.chan (fun r => r.origin.getLsbD (p.inst.val % 2)) s

/-- An HBM instance is released (R317): the lines held for its stack are to be written back. -/
def stackReleased (p : Page) (s : State) : State :=
  let i : Fin 2 := ⟨p.inst.val % 2, by omega⟩
  if heldLines s p.chan i then s.modChan p.chan fun ch => { ch with writeBack := ch.writeBack ||| BitVec.ofNat 2 (2 ^ i.val) } else s

/-- A reset of the CACHE block (R322): every dirty line is written back, every line invalidated, and the transactions it had accepted
complete RESET. -/
def cacheReset (c : Fin 9) (s : State) : State :=
  let dirty := (s.chan c).cache.any fun e => e.2.dirty ≠ 0 && !stackFenced s c (lineStack e.1)
  let s := invalidateLines c (writeBackLines c s)
  let s := s.when dirty fun s => s.modChan c fun ch => { ch with writeBack := 3 }
  (endOwners c (fun _ => true) s).modMerid c MeridS.clear

/-- A reset of the MERID block (R334): every transaction in the tracker completes RESET, and with it its unit's descriptors (R120). -/
def meridReset (c : Fin 9) (s : State) : State :=
  let s := s.each meridUnits fun u s => endUnit c u none s
  let s := s.each allStreams fun st s =>
    s.when (((s.chan c).stream st).fetch.any fun f => 0 < f.remaining) (failFetch c st stReset)
  s.modMerid c MeridS.clear

/-! ## Activity of the arrays (R187 to R191) -/

/-- The mode of `CPWR.FILL_CTRL` in force at an array: 0 FILL_RAMP, 1 RAMP_ONLY, 2 NONE (R191, R194). -/
def rampMode (s : State) (c : Fin 9) (a : Fin 2) : Nat := bitsOf (s.chan c).arrays[a.val].fillCtl.toNat 1 0

/-- CLOSURE_FILL in force at an array (R187). -/
def closureFill (s : State) (c : Fin 9) (a : Fin 2) : Bool := (s.chan c).arrays[a.val].fillCtl.getLsbD 2

def parkSet (s : State) (c : Fin 9) : Bool := bitAt (s.reg (cpage c .cpwr) 0x104).toNat 0
def holdSet (s : State) (c : Fin 9) : Bool := bitAt (s.reg (cpage c .cpwr) 0x104).toNat 1

/-- The value written to FILL_CTRL takes effect at an array (R191). -/
def takeFill (c : Fin 9) (a : Fin 2) (s : State) : State := s.modArray c a fun x => { x with fillCtl := s.reg (cpage c .cpwr) 0x100 }

/-- An array ramps down from activity, counted in RAMP_CNT.DOWN; without ramps in mode NONE (R189, R191). -/
def rampDown (c : Fin 9) (a : Fin 2) (s : State) : State :=
  let r := (s.chan c).arrays[a.val].ramp
  if rampMode s c a = 2 then s.modArray c a fun x => { x with ramp := .rest }
  else if r = .full || r = .rampUp then
    (s.bumpField (cpage c .cpwr) 0x108 31 16 1).modArray c a fun x => { x with ramp := .rampDown }
  else s

/-- An array ramps up toward activity, counted in RAMP_CNT.UP (R189). -/
def rampUp (c : Fin 9) (a : Fin 2) (s : State) : State :=
  (s.bumpField (cpage c .cpwr) 0x108 15 0 1).modArray c a fun x => { x with ramp := .rampUp }

/-- A pass presents its steps to an array. -/
def presenting (s : State) (c : Fin 9) (a : Fin 2) : Bool := (s.chan c).fly.any fun f => f.unit = arrUnit a && f.phase = .feeding && f.begun

/-- A gap opens at an array (R189, R191): FILL_CTRL takes effect, and the array ramps down at once under PARK and in mode RAMP_ONLY. -/
def openGap (c : Fin 9) (a : Fin 2) (s : State) : State :=
  let s := takeFill c a s
  if parkSet s c || (rampMode s c a = 1 && !holdSet s c) then rampDown c a s else s

/-- HOLD brings an idle array that has ramped down back to full activity (R194): PARK prevails over it. -/
def holdUp (c : Fin 9) (a : Fin 2) (s : State) : State :=
  let r := (s.chan c).arrays[a.val].ramp
  if holdSet s c && !parkSet s c && rampMode s c a ≠ 2 && !s.fenced (arrPage c a) && (r = .rest || r = .rampDown || r = .parked) then rampUp c a s else s

/-- An operation that may end the feed of a pass: a gap opens at each array that presented a pass before it and presents none after. -/
def withGaps (c : Fin 9) (k : State → State) (s : State) : State :=
  (k s).each ((List.finRange 2).filter fun a => presenting s c a) fun a t => if presenting t c a then t else openGap c a t

/-- The array of a DENSE page. -/
def pageArr (p : Page) : Fin 2 := if p.inst.val = 0 then 0 else 1

/-- Passes whose own work is done and that only await closure work complete without a comparison (R288, R420). -/
def endClosures (c : Fin 9) (units : List UnitId) (s : State) : State :=
  s.each ((s.chan c).fly.filter fun f => f.done && units.contains f.unit) fun f s =>
    endFly c f stCompleted (flagIf f.abortLate flAbortLate) 0 s

/-- Of the two copies of a record the older, which an INSTALL replaces (R467). -/
def olderFirst (r : Container × Container) : Bool := r.1.typ = 0 || (r.2.typ ≠ 0 && r.1.gen ≤ r.2.gen)

/-- The older copy is lost. -/
def spoilOlder (r : Container × Container) : Container × Container :=
  if olderFirst r then ({ r.1 with valid := false }, r.2) else (r.1, { r.2 with valid := false })

/-- An INSTALL running when the supervisor stops, changes or is reset is abandoned: the slot or record copy being written is invalid, RESULT
reads ABORTED (R473). The container staged says which record it is. -/
def abandonInstall (s : State) : State :=
  match s.sec.installing with
  | none => s
  | some (ch, area, comp) =>
    let s := s.modSec fun x => { x with installing := none, result := 6 }
    if h : comp.toNat < 6 then
      s.modSec fun x =>
        if x.active.getLsbD comp.toNat
        then { x with slotA := x.slotA.set comp.toNat { x.slotA[comp.toNat] with valid := false } }
        else { x with slotB := x.slotB.set comp.toNat { x.slotB[comp.toNat] with valid := false } }
    else
      let h := memRds (s.chan ⟨ch.toNat % 9, by omega⟩).mem (area.toNat * 2 ^ 28) 16
      let mine := fun (r : Container) => r.typ.toNat = fld h 0 2 && r.target.toNat = fld h 12 2
      s.modSec fun x => { x with records := x.records.map fun r => if mine r.1 || mine r.2 then spoilOlder r else r }

/-- What resets of the supervisor's blocks stop: an INSTALL (DESIGN CHOICE, log 7), and surveys asked for, due or under way (R87). -/
def stopGlobal (b : Blk) (s : State) : State :=
  match b with
  | .sec => abandonInstall s
  | .bench => (s.each allChans stopSurvey).modSupv fun v => { v with surveyPending := 0, surveyAsked := 0, surveyRunning := 0 }
  | _ => s

/-- The effects a block's reset, update or power-down has at once on what it was doing (R405, R120 and the blocks' chapters). -/
def stopBlock (p : Page) (s : State) : State :=
  let c := p.chan
  let s := releaseLock p s
  let s := s.when p.blk.isChan (withdrawPage p)
  let s := match p.blk with
    | .dense => endClosures c (pageUnits p) s
    | .numw => endClosures c [.arrayA, .arrayB] s
    | _ => s
  let s := s.each (pageUnits p) fun u s => if p.blk = .dense then endUnit c u none s else withGaps c (endUnit c u none) s
  match p.blk with
  | .seq =>
    let s := withGaps c (resetDescriptors c) s
    s.modChan c fun ch => { ch with stakes := [], seqTable := .replicate 16 .invalid, rrChan := 0, rrUnit := [] }
  | .dense =>
    (rampDown c (pageArr p) s).modArray c (pageArr p) fun x =>
      { x with heldSet := none, closure := none, owed := false, busyRem := 0, parity := false }
  | .numw => s.modChan c fun ch => { ch with eligible := 0, arrays := ch.arrays.map fun a => { a with closure := none, owed := false } }
  | .layout =>
    let s := endFlies c (fun f => (f.unit = .arrayA || f.unit = .arrayB) && f.granted && !f.done && bitAt (fld f.desc 26 2) 4) stReset 0 s
    s.modChan c fun ch => { ch with tensors := [], alloc := [], allocHeld := [] }
  | .route =>
    s.modChan c fun ch => { ch with route := { ch.route with ctxs := .replicate 4 .closed, planBuf := [], planDone := false } }
  | .merid => withGaps c (meridReset c) s
  | .trav => portDown c p.inst stReset s
  | .bearing => s.each allPorts (takeDown c)
  | .plat =>
    s.modPlat c fun x => { x with writing := none, copyOut := none, fetched := none, copyQueue := [],
                                  cofed := .replicate 2 false }
  | .hub =>
    let s := recallLoans (fun _ _ => true) s
    let s := s.each allChans fun c s => endFlies c (fun f => f.unit = .reduce || f.unit = .loan) stReset 0 s
    let s := s.each allChans fun c s => endFlies c (fun f => s.hub.tris.any fun t => t.chan = c && t.no = f.no) stReset 0 s
    let s := s.modHub fun h => { h with reductions := [], waiting := [], tris := [] }
    sweep s
  | .icp =>
    let s := s.each allChans fun c s => endFlies c (fun f => f.unit = .offload) stReset 0 s
    let s := sweep s
    s.modIcp fun i =>
      { i with cache := [], attestReq := none, attestCache := none, lastSrc := none,
               marks := (List.range 4096).map fun k => i.rxSeqHigh - w32 k }
  | .hmac => s.modIcp fun i => { i with linkUp := false, paused := .replicate 2 false, txWait := .replicate 2 [] }
  | .cache => withGaps c (cacheReset c) s
  | .hbm => withGaps c (stackEnds p) s
  | b => stopGlobal b s

/-- A reset takes effect (R405): FENCE and RESETTING set, ENABLE cleared, EPOCH advanced once, accepted requests RESET. -/
def beginReset (p : Page) (s : State) : State :=
  let s := s.modHdr p fun h =>
    { h with enable := false, fence := true, resetting := true, draining := false, drained := false, epoch := h.epoch + 1 }
  stopBlock p s

/-- What a repair record in force gives a page's repair register (R181, R315, R321, R464): fields, record valid, generation. An array's record
that names more than eight rows or columns is not applied (R181). -/
def repairReg (s : State) (typ : Nat) (p : Page) : W32 × Bool × Nat :=
  let tgt : H16 := BitVec.ofNat 16 (p.inst.val * 16 + p.chan.val)
  match s.sec.inForce.find? fun r => r.typ = BitVec.ofNat 16 typ && r.target = tgt with
  | some r =>
    let v := Config.repairFields r.typ r.target r.gen
    if p.blk = .dense && (8 < bitsOf v.toNat 3 0 || 8 < bitsOf v.toNat 7 4) then (0, false, 0) else (v, true, r.gen)
  | none => (0, false, 0)

/-- An array without a valid repair record stays fenced (R181, R464). -/
def heldFenced (s : State) (p : Page) : Bool := p.blk = .dense && !(repairReg s 0x0101 p).2.1

/-- A block's registers and tables at their reset values, with the repair record applied (R87, R181, R321, R317). The registers
that their chapters keep are kept. -/
def initBlock (p : Page) (s : State) : State :=
  let c := p.chan
  let icpKept := [0x10C, 0x110].map fun o => (o, s.reg p o)
  let waves := s.reg p 0x10C
  let domains := s.reg p 0x104
  let s := s.clearRegs p
  match p.blk with
  | .icp => s.each icpKept fun e s => s.setReg p e.1 e.2
  | .dense =>
    let (f, ok, gen) := repairReg s 0x0101 p
    let s := s.setReg p 0x108 (w32 (if ok then bitsOf f.toNat 7 0 + 2 ^ 8 + gen % 65536 * 2 ^ 16 else 0))
    s.modArray c (pageArr p) fun x => { x with ramp := .rest }
  | .cache =>
    let (f, ok, _) := repairReg s 0x0102 p
    (s.modChan c fun ch => { ch with writeBack := 0 }).setReg p 0x110 (w32 (if ok then bitsOf f.toNat 7 0 + 2 ^ 16 else 0))
  | .hbm =>
    let (f, ok, gen) := repairReg s 0x0103 p
    s.setReg p 0x108 (w32 (if ok then bitsOf f.toNat 11 0 + 2 ^ 12 + gen % 65536 * 2 ^ 16 else 0))
  | .bearing => s.modChan c fun ch => { ch with bearing := [] }
  | .merid => s.modMerid c fun m => { m with peak := m.occupancy, owner := 0 }
  | .cclk => s.modChan c fun ch => { ch with domRun := ch.domRun.mapIdx (fun d r => r || !domains.getLsbD d), domLost := .replicate 6 false }
  | .clocks => s.modSupv fun v => { v with hmacLost := .replicate 6 false }
  | .cpwr => s.modChan c fun ch => { ch with arrays := ch.arrays.map fun a => { a with fillCtl := 0x0200000C } }
  | .trav => s.setReg p 0x10C waves
  | .route => s.modChan c fun ch => { ch with route := { ch.route with reportNo := 1 } }
  | .sec => s.modSec fun x => { x with rejected := 0, reports := 0, result := 0 }
  | .pwr => s.modPwr fun x => { x with inputMv := 0, inputMin := 0xFFFF, inputMa := 0, inputPeak := 0 }
  | _ => s

/-- The end of a reset (R405, R406): RESETTING and FAULTED clear, DRAINED set, ERR_INJECT and the block's registers at reset
values; the block stays fenced and stopped. -/
def endReset (p : Page) (s : State) : State :=
  let s := s.modHdr p fun h =>
    { h with resetting := false, drained := true, faulted := false, errInject := 0, fence := true, enable := false }
  initBlock p s

/-- A block is powered down by its domain (R405, R408): EPOCH advanced, its work RESET, its block left at reset values, fenced and
stopped. -/
def powerDownBlock (p : Page) (s : State) : State := endReset p (beginReset p s)

/-- Boot or the supervisor releases a block (R84), but for an array that stays fenced. -/
def releaseBlock (p : Page) (s : State) : State :=
  s.modHdr p fun h => { h with enable := true, fence := heldFenced s p, drained := false }

/-- A lasting fault fences a block (R85, R120): its units' descriptors complete RESET, the one that failed FAULT, and a port's sends that
lose flits FAULT (R364). Its lock ends (R331). -/
def lastingFence (p : Page) (inj : Bool) (failed : Option Nat) (detail : List Byte) (s : State) : State :=
  let s := lastingEvent p true inj detail s
  let s := s.modHdr p fun h => { h with drained := h.drained || h.draining, draining := false }
  if p.blk.isChan then
    let c := p.chan
    let s := releaseLock p s
    let s := s.when (p.blk = .dense) fun s => (rampDown c (pageArr p) s).modArray c (pageArr p) fun x => { x with heldSet := none, closure := none }
    let s := s.when (p.blk = .trav) fun s =>
      (portDown c p.inst stFault s).modPort c p.inst fun q => { q with state := .fenced }
    let s := s.each (pageUnits p) fun u s => withGaps c (endUnit c u failed) s
    s.when (p.blk = .hbm) (withGaps c (stackEnds p))
  else s

/-! ## Channels -/

/-- A channel stops (R120, R267, R364, R374): its descriptors complete RESET but for one that failed (FAULT), its links go down, its windows
and routing contexts close, its locks and copies end, its arrays ramp down, and a survey of it waits again. -/
def stopChannel (c : Fin 9) (failed : Option Nat) (s : State) : State :=
  let s := countGrants c s
  let s := s.each ((s.chan c).fly.filter fun f => failed = some f.no) fun f s => endFly c f stFault 0 0 s
  let s := resetDescriptors c s
  let s := s.each allPorts fun p s => portDown c p stReset s
  let s := rampDown c 1 (rampDown c 0 s)
  let s := s.modChan c fun ch =>
    { ch with windows := [], localHeld := [], surveyHold := false
              merid := MeridS.clear ch.merid
              route := { ch.route with ctxs := .replicate 4 .closed, planBuf := [], planDone := false }
              arrays := ch.arrays.map fun a => { a with heldSet := none, closure := none, owed := false },
              plat := { ch.plat with writing := none, copyOut := none, fetched := none, copyQueue := [],
                                     inbound := ch.plat.inbound.map fun a => { a with receiving := none } } }
  stopSurvey c s

/-- The six ports of a fenced channel are reset (R364): each has a new identity. -/
def resetPorts (c : Fin 9) (s : State) : State :=
  s.each allPorts fun p s =>
    initBlock (travPage c p) (s.modHdr (travPage c p) fun h => { h with enable := false, epoch := h.epoch + 1, errInject := 0 })

/-- Another channel's reads of this channel's store lose their source (R382, R385). -/
def sourceLost (c : Fin 9) (s : State) : State :=
  let hit := fun (f : Fly) => dOpcode f.desc = 0x51 && f.committed && !f.done && fld f.desc 16 1 % 4 = 1 && fld f.desc 17 1 % 16 = c.val
  sweep (s.each allChans fun d s => s.each ((s.chan d).fly.filter hit) fun f s => endFly d f stFault 0 0x0F06 s)

/-- A channel is fenced (R120, R364, R490): it stops, every block is fenced, and its ports are reset. -/
def fenceChannel (c : Fin 9) (r : Role) (severe : Bool) (failed : Option Nat) (s : State) : State :=
  let wasServing := (s.chan c).role = .serving
  let wasLending := (s.chan c).role = .lending
  let s := setRole c r severe s
  let s := s.when wasLending (recallLoans fun _ _ => true)
  let s := (stopChannel c failed s).when (r = .failed) (sourceLost c)
  let s := s.each (chanPages c) fun p s => s.modHdr p fun h => { h with fence := true }
  let s := resetPorts c (control 1 (cpage c .seq) 2 0 s)
  s.when wasServing (noSpareCheck c)

/-- The parts of a channel that a power-down keeps: its plat store, its benchmarks and what flash records (R390, R425). -/
def Chan.kept (ch : Chan) : Chan :=
  { Chan.off with
    filling := ch.role = .filling || (ch.role = .off && ch.filling)
    bench := { ch.bench with latest := [] }
    plat := { PlatS.empty with own := ch.plat.own, inbound := ch.plat.inbound.map fun a => { a with receiving := none },
                               copyValid := ch.plat.copyValid, writing := ch.plat.writing } }

/-- A channel powers down to OFF (R409): its descriptors RESET, its links send DOWN, its memory is lost; each page's EPOCH is kept. -/
def powerDownChan (c : Fin 9) (s : State) : State :=
  let wasServing := (s.chan c).role = .serving
  let s := s.when ((s.chan c).role = .lending) (recallLoans fun _ _ => true)
  let s := setRole c .off false (sourceLost c (stopChannel c none s))
  let s := s.when wasServing (noSpareCheck c)
  let s := s.modChan c fun ch => { ch.kept with recs := ch.recs, recsWait := ch.recsWait }
  s.each (chanPages c) fun p s => initBlock p s

/-- A channel powers up and is released (R390, R409, R446, R492): every page at its reset values with EPOCH advanced, memory zero,
its domains running, its blocks released. A PLAT_WRITE that a power loss cut short has left its slot incomplete (R374). -/
def powerUpChan (c : Fin 9) (r : Role) (s : State) : State :=
  let s := s.modChan c fun ch =>
    { ch with answers := true, lasting := false, mem := [], domRun := .replicate 6 true, domLost := .replicate 6 false,
              domOnce := .replicate 6 false, entryNow := #v[ch.bench.entryDx, ch.bench.entryGx, ch.bench.entryMx] }
  let s := s.each (chanPages c) fun p s =>
    let s := s.modHdr p fun h => { Hdr.reset with epoch := if h.epoch = 0 && h = Hdr.reset then 0 else h.epoch + 1, drained := true }
    releaseBlock p (initBlock p (s.clearRegs p))
  let s := s.when (s.chan c).plat.writing.isSome fun s => cause (cpage c .plat) 19 (s.modPlat c fun x => { x with writing := none })
  setRole c r false s

/-! ## Drains (R404) -/

/-- No accepted request of a block is outstanding: no descriptor in its units, and for a port no flit queued. -/
def quiet (s : State) (p : Page) : Bool :=
  let units := if p.blk = .merid then meridUnits else pageUnits p
  let c := p.chan
  (if p.blk.isChan then (s.chan c).fly.all fun f => !units.contains f.unit else true) &&
    (match p.blk with
     | .trav => (s.port c p.inst).txq.isEmpty && (s.port c p.inst).replay.isEmpty
     | .hub => s.hub.reductions.isEmpty && s.hub.waiting.isEmpty && allChans.all fun c => (s.chan c).fly.all fun f => f.unit ≠ .loan && f.unit ≠ .reduce
     | .seq => (s.chan c).fly.isEmpty && allStreams.all fun st => ((s.chan c).stream st).queue.isEmpty && ((s.chan c).stream st).fetch.isNone
     | _ => true)

/-- A state in which the module is powered (R445). -/
def State.on (s : State) : Bool :=
  match s.pwr.power with
  | .active | .idle | .dormant => true
  | _ => false

/-- `BLK_STAT.DRAINED` (R84, R404, R405): while a drain or a reset runs, and in Standby, what has been reported; otherwise whether the
block has no accepted request outstanding. -/
def isDrained (s : State) (p : Page) : Bool :=
  let h := s.hdr p
  if h.draining || h.resetting || !s.on then h.drained else quiet s p

/-! ## BLK_CTRL (R84 to R86, R403 to R405, R490) -/

/-- What a fence or a release of a block by the driver does beside its header (R317, R331, R102): the lock of a fenced owner ends, a
fenced port's link goes down, a fenced stack's transactions complete RESET; a released stack's lines are written back, and a sequencer
that is enabled again looks at the heads of its streams. -/
def ctrlEffects (p : Page) (was drain : Bool) (s : State) : State :=
  let c := p.chan
  if s.fenced p then
    let s := releaseLock p s
    let s := s.when (p.blk = .trav && !drain) (takeDown c p.inst)
    s.when (p.blk = .hbm && !was) (withGaps c (stackEnds p))
  else (s.when (p.blk = .hbm && was) (stackReleased p)).when (p.blk = .seq) (settle c)

/-- A write of BLK_CTRL. `src` is the control entry's source (R435). -/
def ctrlWrite (p : Page) (v : W32) (src : Nat) (s : State) : State :=
  let h := s.hdr p
  let en := v.getLsbD 0
  let fe := v.getLsbD 1 || heldFenced s p
  if h.resetting then cfgRefused p s
  else if v.getLsbD 3 then control 3 p src v (beginReset p s)
  else if v.getLsbD 2 then
    let was := s.fenced p
    ctrlEffects p was true (control 4 p src v (s.modHdr p fun h => { h with fence := true, draining := true, drained := false }))
  else if (h.faulted || (p.blk.isChan && s.chanFenced p.chan)) && (!v.getLsbD 1 || en) then cfgRefused p s
  else
    let was := s.fenced p
    let s := s.modHdr p fun h => { h with enable := en, fence := fe, draining := h.draining && fe, drained := h.drained && fe }
    let s := if fe && !h.fence then control 1 p src v s else if !fe && h.fence then control 2 p src v s else s
    fireIfReleased p (ctrlEffects p was false s)

end Sys2Proof.Machine
end

