-- ==== Sys2Proof/Machine/Num.lean ====
section
/-! DEFINITION. Numbers (R123 to R143): exact values, the encodings of the element types, rounding, and the FP32 and binary64
arithmetic of the units. -/
namespace Sys2Proof.Machine

/-! ## Exact values -/

/-- A value as a unit reads it: NaN, an infinity (`true`: negative), or exactly `m × 2^e`. Zero carries no sign (R125). -/
inductive Val
  | nan
  | inf (neg : Bool)
  | fin (m : Int) (e : Int)
  deriving DecidableEq, Repr

def Val.zero : Val := .fin 0 0
def Val.one : Val := .fin 1 0
def Val.isNan (v : Val) : Bool := v = .nan

def isInfinite : Val → Bool
  | .inf _ => true
  | _ => false

/-- What conversions and arithmetic have met: elements saturated (R140), NaN stored or produced, zero times infinity (R228). -/
structure Tally where
  sat : Nat
  nan : Bool
  inv : Bool
  deriving DecidableEq, Repr

def Tally.none : Tally := ⟨0, false, false⟩

/-- A computation that notes what it meets. -/
abbrev NumM := StateM Tally

def noteSat : NumM Unit := modify fun t => { t with sat := t.sat + 1 }
def noteNan : NumM Unit := modify fun t => { t with nan := true }
def noteInv : NumM Unit := modify fun t => { t with nan := true, inv := true }

/-! ## Formats (R124) -/

/-- A floating-point format: fraction bits, the exponent of its smallest subnormal, and the code of its largest finite
magnitude. Codes of magnitudes rise with the magnitude. -/
structure Fmt where
  frac : Nat
  qmin : Int
  top : Nat
  deriving DecidableEq, Repr

def f32 : Fmt := ⟨23, -149, 0x7F7FFFFF⟩
def f19 : Fmt := ⟨10, -136, 0x3FBFF⟩
def bf16 : Fmt := ⟨7, -133, 0x7F7F⟩
def fp16 : Fmt := ⟨10, -24, 0x7BFF⟩
def e4m3 : Fmt := ⟨3, -9, 0x7E⟩
def e5m2 : Fmt := ⟨2, -16, 0x7B⟩
def e3m2 : Fmt := ⟨2, -4, 0x1F⟩
def e2m3 : Fmt := ⟨3, -3, 0x1F⟩
def e2m1 : Fmt := ⟨1, -1, 0x7⟩
def f64 : Fmt := ⟨52, -1074, 0x7FEFFFFFFFFFFFFF⟩

/-- The exponent of the least significant bit that a format keeps of `m × 2^e`, `m` positive. -/
def Fmt.quantum (f : Fmt) (m : Nat) (e : Int) : Int := max f.qmin (Nat.log2 m + e - f.frac)

/-- A magnitude rounded to nearest, ties to even, as a code that may lie beyond the largest (R136, R141). -/
def Fmt.near (f : Fmt) (m : Nat) (e : Int) : Nat :=
  if m = 0 then 0
  else
    let q := f.quantum m e
    let k :=
      if q ≤ e then m * 2 ^ (e - q).toNat
      else
        let d := (q - e).toNat
        let k := m / 2 ^ d
        let r := m % 2 ^ d
        if 2 ^ d < 2 * r || (2 * r = 2 ^ d && k % 2 = 1) then k + 1 else k
    (q - f.qmin).toNat * 2 ^ f.frac + k

/-- A magnitude truncated toward zero, as a code, and the `n` bits below the grid (R137, R276). -/
def Fmt.trunc (f : Fmt) (n : Nat) (m : Nat) (e : Int) : Nat × Nat :=
  if m = 0 then (0, 0)
  else
    let q := f.quantum m e
    if q ≤ e then ((q - f.qmin).toNat * 2 ^ f.frac + m * 2 ^ (e - q).toNat, 0)
    else
      let d := (q - e).toNat
      ((q - f.qmin).toNat * 2 ^ f.frac + m / 2 ^ d, m % 2 ^ d * 2 ^ n / 2 ^ d)

/-- The magnitude a code stands for, as significand and exponent. -/
def Fmt.ofCode (f : Fmt) (c : Nat) : Nat × Int :=
  if c < 2 ^ (f.frac + 1) then (c, f.qmin)
  else (c % 2 ^ f.frac + 2 ^ f.frac, f.qmin + (c / 2 ^ f.frac : Nat) - 1)

def signed (neg : Bool) (m : Nat) : Int := if neg then -(m : Int) else m

/-- A code and a sign as a value. -/
def Fmt.value (f : Fmt) (neg : Bool) (c : Nat) : Val := let (m, e) := f.ofCode c; .fin (signed neg m) e

/-- A finite value rounded to a format, saturating (R139). -/
def Fmt.sat (f : Fmt) (m : Int) (e : Int) : NumM Nat := do
  let c := f.near m.natAbs e
  if f.top < c then noteSat; return f.top else return c

/-- A value rounded to a format that has infinities (R138). -/
def Fmt.round (f : Fmt) : Val → NumM Val
  | .fin m e => do let c ← f.sat m e; return f.value (m < 0) c
  | v => return v

/-- A value truncated to F19's precision; it cannot overflow (R137). -/
def Fmt.chop (f : Fmt) : Val → Val
  | .fin m e => f.value (m < 0) (f.trunc 0 m.natAbs e).1
  | v => v

/-! ## Element types (R123) -/

def tFP32 : Nat := 0x01
def tF19 : Nat := 0x02
def tBF16 : Nat := 0x03
def tFP16 : Nat := 0x04
def tE4M3 : Nat := 0x05
def tE5M2 : Nat := 0x06
def tE3M2 : Nat := 0x07
def tE2M3 : Nat := 0x08
def tE2M1 : Nat := 0x09
def tI32 : Nat := 0x10
def tU8M : Nat := 0x11
def tSPLIT : Nat := 0x12

def typeCodes : List Nat := [1, 2, 3, 4, 5, 6, 7, 8, 9, 0x10, 0x11, 0x12]

/-- The types that may carry block scales (R132). -/
def narrow (t : Nat) : Bool := 5 ≤ t && t ≤ 9

/-- The 6- and 4-bit types, which must carry scales when written (R132). -/
def packed (t : Nat) : Bool := 7 ≤ t && t ≤ 9

def isFloat (t : Nat) : Bool := (1 ≤ t && t ≤ 9) || t = tSPLIT

/-- The element width in bits (R199). -/
def typeBits (t : Nat) : Nat :=
  if t = tFP32 || t = tF19 || t = tI32 then 32
  else if t = tBF16 || t = tFP16 || t = tSPLIT then 16
  else if t = tE4M3 || t = tE5M2 || t = tU8M then 8
  else if t = tE2M1 then 4 else 6

/-- A type's format; a SPLIT32 tensor reads as BF16 (R128). -/
def typeFmt (t : Nat) : Fmt :=
  if t = tFP32 then f32 else if t = tF19 then f19 else if t = tFP16 then fp16 else if t = tE4M3 then e4m3
  else if t = tE5M2 then e5m2 else if t = tE3M2 then e3m2 else if t = tE2M3 then e2m3 else if t = tE2M1 then e2m1 else bf16

/-- The type has infinities (R124). -/
def hasInf (t : Nat) : Bool := (1 ≤ t && t ≤ 4) || t = tE5M2 || t = tSPLIT

/-- A stored element as a value (R124, R125, R127). -/
def decodeElem (t : Nat) (bits : Nat) : Val :=
  if t = tI32 then .fin (if bits < 2 ^ 31 then (bits : Int) else (bits : Int) - 2 ^ 32) 0
  else if t = tU8M then .fin bits 0
  else
    let f := typeFmt t
    let w := if t = tF19 then 19 else typeBits t
    let raw := if t = tF19 then bits / 2 ^ 13 else bits
    let neg := bitAt raw (w - 1)
    let c := raw % 2 ^ (w - 1)
    if c ≤ f.top then f.value neg c
    else if hasInf t && c = f.top + 1 then .inf neg
    else .nan

/-- The canonical NaN of an unscaled type (R124). -/
def nanBits (t : Nat) : Nat :=
  if t = tFP32 || t = tF19 then 0x7FC00000 else if t = tFP16 then 0x7E00 else if t = tE4M3 then 0x7F
  else if t = tE5M2 then 0x7E else 0x7FC0

/-- The bits of a signed code: zero is written +0 (R142), F19 in its container (R127). -/
def codeBits (t : Nat) (neg : Bool) (c : Nat) : Nat :=
  let w := if t = tF19 then 19 else typeBits t
  let raw := if neg && c ≠ 0 then c + 2 ^ (w - 1) else c
  if t = tF19 then raw * 2 ^ 13 else raw

/-- A value converted to the bits of an unscaled element (R136, R138, R139, R142). -/
def encodeElem (t : Nat) : Val → NumM Nat
  | .nan => do noteNan; return nanBits t
  | .inf n =>
    if hasInf t then return codeBits t n ((typeFmt t).top + 1)
    else do noteNan; return nanBits t
  | .fin m e =>
    if t = tI32 then return (m * 2 ^ e.toNat % 2 ^ 32).toNat
    else if t = tU8M then return (m * 2 ^ e.toNat % 2 ^ 8).toNat
    else do let c ← (typeFmt t).sat m e; return codeBits t (m < 0) c

/-! ## Exact arithmetic -/

def Val.scale (v : Val) (k : Int) : Val :=
  match v with
  | .fin m e => .fin m (e + k)
  | v => v

def Val.neg : Val → Val
  | .nan => .nan
  | .inf n => .inf (!n)
  | .fin m e => .fin (-m) e

def Val.abs : Val → Val
  | .nan => .nan
  | .inf _ => .inf false
  | .fin m e => .fin m.natAbs e

def Val.isNeg : Val → Bool
  | .inf n => n
  | .fin m _ => decide (m < 0)
  | .nan => false

def Val.isZero : Val → Bool
  | .fin m _ => m = 0
  | _ => false

/-- The exact sum of two finite values. -/
def addFin (m1 e1 m2 e2 : Int) : Val :=
  let e := min e1 e2
  .fin (m1 * 2 ^ (e1 - e).toNat + m2 * 2 ^ (e2 - e).toNat) e

/-- Exact sum; opposite infinities give NaN (R156, R228). -/
def Val.add : Val → Val → Val
  | .nan, _ => .nan
  | _, .nan => .nan
  | .inf a, .inf b => if a = b then .inf a else .nan
  | .inf a, .fin _ _ => .inf a
  | .fin _ _, .inf b => .inf b
  | .fin m1 e1, .fin m2 e2 => addFin m1 e1 m2 e2

def Val.sub (a b : Val) : Val := a.add b.neg

/-- Exact product; zero times infinity gives NaN and is noted (R183, R228). -/
def Val.mul : Val → Val → NumM Val
  | .nan, _ => return .nan
  | _, .nan => return .nan
  | .fin m1 e1, .fin m2 e2 => return .fin (m1 * m2) (e1 + e2)
  | .inf a, .inf b => return .inf (a != b)
  | .inf a, .fin m _ => if m = 0 then do noteInv; return .nan else return .inf (a != decide (m < 0))
  | .fin m _, .inf b => if m = 0 then do noteInv; return .nan else return .inf (b != decide (m < 0))

/-- A quotient close enough to round to any of the formats as the exact one does: at least 120 bits, the last of them set if the
division leaves a remainder. -/
def quotFin (m1 e1 m2 e2 : Int) : Val :=
  let s := 120 + Nat.log2 m2.natAbs
  let n := m1.natAbs * 2 ^ s
  let q := 2 * (n / m2.natAbs) + (if n % m2.natAbs = 0 then 0 else 1)
  .fin (signed (decide (m1 < 0) != decide (m2 < 0)) q) (e1 - e2 - s - 1)

/-- The square root of an integer rounded down, bit by bit from 2^(n-1). -/
def isqrt : Nat → Nat → Nat → Nat
  | 0, r, _ => r
  | n + 1, r, x => if (r + 2 ^ n) * (r + 2 ^ n) ≤ x then isqrt n (r + 2 ^ n) x else isqrt n r x

/-- A square root close enough to round as the exact one does. -/
def sqrtFin (m : Nat) (e : Int) : Val :=
  let odd := e % 2 ≠ 0
  let n := (if odd then 2 * m else m) * 2 ^ 240
  let e' := (if odd then e - 1 else e) - 240
  let r := isqrt (Nat.log2 n / 2 + 1) 0 n
  .fin (2 * r + (if r * r = n then 0 else 1)) (e' / 2 - 1)

/-- Order of two values that are not NaN. -/
def Val.lt : Val → Val → Bool
  | .nan, _ => false
  | _, .nan => false
  | .inf a, .inf b => a && !b
  | .inf a, .fin _ _ => a
  | .fin _ _, .inf b => !b
  | .fin m1 e1, .fin m2 e2 =>
    match addFin m1 e1 (-m2) e2 with
    | .fin m _ => decide (m < 0)
    | _ => false

/-- Equality of two values that are not NaN. -/
def Val.eqv (a b : Val) : Bool := !a.isNan && !b.isNan && !a.lt b && !b.lt a

/-- The larger; NaN if either is NaN (R184). -/
def Val.max (a b : Val) : Val := if a.isNan || b.isNan then .nan else if a.lt b then b else a
def Val.min (a b : Val) : Val := if a.isNan || b.isNan then .nan else if b.lt a then b else a

/-- floor(log2) of a non-zero finite magnitude. -/
def floorLog2 (m : Int) (e : Int) : Int := Nat.log2 m.natAbs + e

/-! ## FP32 arithmetic (R183): each exact result rounded once -/

def round32 (v : Val) : NumM Val := f32.round v

def add32 (a b : Val) : NumM Val := round32 (a.add b)
def sub32 (a b : Val) : NumM Val := round32 (a.sub b)
def mul32 (a b : Val) : NumM Val := do round32 (← a.mul b)

/-- FMA rounds once (R183, R227). -/
def fma32 (a b c : Val) : NumM Val := do round32 ((← a.mul b).add c)

/-- The largest finite FP32 magnitude. -/
def top32 (neg : Bool) : Val := f32.value neg f32.top

/-- Division by the rules of R183. -/
def div32 (a b : Val) : NumM Val :=
  match a, b with
  | .nan, _ => return .nan
  | _, .nan => return .nan
  | .inf _, .inf _ => do noteNan; return .nan
  | .inf n, .fin m _ => return .inf (n != decide (m < 0))
  | .fin _ _, .inf _ => return .zero
  | .fin m1 e1, .fin m2 e2 =>
    if m2 = 0 then
      if m1 = 0 then do noteNan; return .nan
      else do noteSat; return top32 (m1 < 0)
    else round32 (quotFin m1 e1 m2 e2)

/-- Square root, correctly rounded; a negative operand gives NaN (R184). -/
def sqrt32 : Val → NumM Val
  | .nan => return .nan
  | .inf n => if n then do noteNan; return .nan else return .inf false
  | .fin m e => if m < 0 then do noteNan; return .nan else if m = 0 then return .zero else round32 (sqrtFin m.natAbs e)

/-! ## Binary64 arithmetic (R273): round to nearest even, overflow to infinity -/

def round64 : Val → Val
  | .fin m e => let c := f64.near m.natAbs e; if f64.top < c then .inf (m < 0) else f64.value (m < 0) c
  | v => v

def add64 (a b : Val) : Val := round64 (a.add b)
def sub64 (a b : Val) : Val := round64 (a.sub b)
def mul64 (a b : Val) : Val := round64 (a.mul b Tally.none).1

/-- Division of binary64 values; the divisor is not zero where R273 divides. -/
def div64 : Val → Val → Val
  | .nan, _ => .nan
  | _, .nan => .nan
  | .inf _, .inf _ => .nan
  | .inf n, .fin m _ => .inf (n != decide (m < 0))
  | .fin _ _, .inf _ => .zero
  | .fin m1 e1, .fin m2 e2 =>
    if m2 = 0 then (if m1 = 0 then .nan else .inf (m1 < 0)) else round64 (quotFin m1 e1 m2 e2)

def sqrt64 : Val → Val
  | .nan => .nan
  | .inf n => if n then .nan else .inf false
  | .fin m e => if m < 0 then .nan else if m = 0 then .zero else round64 (sqrtFin m.natAbs e)

/-! ## FP32 words -/

def val32 (w : W32) : Val := decodeElem tFP32 w.toNat

/-- The bits of a value that FP32 holds exactly. -/
def bits32 (v : Val) : W32 := w32 ((encodeElem tFP32 v) Tally.none).1

/-! ## Sums in the fixed order of R185 -/

/-- A left-to-right sum of at most 32 values. -/
def sumGroup : List Val → NumM Val
  | [] => return .zero
  | x :: xs => xs.foldlM add32 x

/-- Adjacent sums added; an odd last one passes up. -/
def sumPairs : List Val → NumM (List Val)
  | a :: b :: rest => do return (← add32 a b) :: (← sumPairs rest)
  | l => return l

/-- Levels of pairwise sums, at most `n`. -/
def sumLevels : Nat → List Val → NumM Val
  | _, [] => return .zero
  | _, [x] => return x
  | 0, x :: _ => return x
  | n + 1, l => do sumLevels n (← sumPairs l)

/-- A list cut into groups of `k`, for at most `n` groups. -/
def chunksOf {α : Type} (k : Nat) : Nat → List α → List (List α)
  | 0, _ => []
  | n + 1, l => if l.isEmpty then [] else l.take k :: chunksOf k n (l.drop k)

/-- The sum of a row (R185). -/
def rowSum (l : List Val) : NumM Val := do
  let groups ← (chunksOf 32 (l.length / 32 + 1) l).mapM sumGroup
  sumLevels groups.length groups

def natVal (n : Nat) : Val := .fin n 0

/-- The mean of a row: its sum divided by its length, correctly rounded (R185). -/
def rowMean (l : List Val) : NumM Val := do div32 (← rowSum l) (natVal l.length)

end Sys2Proof.Machine
end

