-- ==== Sys2Proof/Machine/Tensor.lean ====
section
/-! DEFINITION. Tensors (R195 to R213): the fields of a descriptor image, the place of elements, scales and padding, reading
elements, and what a store of elements writes, its scales and its scale history included (R134, R135, R281 to R283). -/
namespace Sys2Proof.Machine

/-! ## The image (R198) -/

def iType (t : List Byte) : Nat := fld t 0 1
def iRank (t : List Byte) : Nat := fld t 1 1 % 16
def iBlocked (t : List Byte) : Bool := bitsOf (fld t 2 1) 1 0 = 1
def iScaleCode (t : List Byte) : Nat := bitsOf (fld t 3 1) 1 0
def iScaled (t : List Byte) : Bool := iScaleCode t ≠ 0
/-- Elements per scale block: 16, 32 or 64. -/
def iScaleBlk (t : List Byte) : Nat := 8 * 2 ^ iScaleCode t
def iScaleDim (t : List Byte) : Nat := bitsOf (fld t 3 1) 4 2
def iScaleSrc (t : List Byte) : Nat := bitsOf (fld t 3 1) 6 5
def iScaleExp (t : List Byte) : Nat := fld t 4 1
def iAlloc (t : List Byte) : Nat := fld t 6 2 % 4096
def iBase (t : List Byte) : Nat := fld t 8 5
def iAux (t : List Byte) : Nat := fld t 16 5
def iSize (t : List Byte) (d : Nat) : Nat := fld t (24 + 4 * d) 4
def iStride (t : List Byte) (d : Nat) : Int :=
  let v := fld t (56 + 8 * d) 8
  if v < 2 ^ 63 then v else (v : Int) - 2 ^ 64
def iSizes (t : List Byte) : List Nat := (List.range (iRank t)).map (iSize t)
def iBits (t : List Byte) : Nat := typeBits (iType t)

/-- The number of elements of a shape. -/
def volume (sizes : List Nat) : Nat := sizes.foldl (· * ·) 1

/-- The index of a linear position, dimension 0 innermost (R273). -/
def unrank : List Nat → Nat → List Nat
  | [], _ => []
  | n :: ns, i => i % n :: unrank ns (i / n)

def allIdx (sizes : List Nat) : List (List Nat) := (List.range (volume sizes)).map (unrank sizes)

/-! ## Places (R200 to R202) -/

/-- The bytes of a block (R201): 32 × 32 elements. -/
def blockBytes (t : List Byte) : Nat := 128 * iBits t

/-- The sum of index times stride over the dimensions from `d` on. -/
def outer (t : List Byte) (idx : List Nat) (d : Nat) : Int :=
  (idx.zipIdx.drop d).foldl (fun a e => a + e.1 * iStride t e.2) 0

/-- The byte address of an element's run or block, from a base. -/
def runStart (t : List Byte) (base : Nat) (idx : List Nat) : Nat :=
  let i0 := idx.getD 0 0
  let i1 := idx.getD 1 0
  if iBlocked t then
    ((base : Int) + ((i0 / 32) * blockBytes t : Nat) + ((i1 / 32 : Nat) : Int) * iStride t 1 + outer t idx 2).toNat
  else ((base : Int) + outer t idx 1).toNat

/-- The bit address of an element (R126, R200, R201). -/
def elemBitAt (t : List Byte) (base : Nat) (idx : List Nat) : Nat :=
  let i0 := idx.getD 0 0
  let i1 := idx.getD 1 0
  runStart t base idx * 8 + (if iBlocked t then (i1 % 32) * 32 + i0 % 32 else i0) * iBits t

/-- A size rounded up to a multiple of 64. -/
def up64 (n : Nat) : Nat := (n + 63) / 64 * 64

/-- The scale tensor's shape (R132). -/
def scaleSizes (t : List Byte) : List Nat :=
  (iSizes t).zipIdx.map fun e => if e.2 = iScaleDim t then (e.1 + iScaleBlk t - 1) / iScaleBlk t else e.1

/-- The bytes of a scale tensor, dense with padded runs (R202). -/
def scaleBytes (t : List Byte) : Nat := up64 ((scaleSizes t).getD 0 1) * volume ((scaleSizes t).drop 1)

/-- The address of the scale of an element's block (R202). -/
def scaleAt (t : List Byte) (idx : List Nat) : Nat :=
  let ss := scaleSizes t
  let j := idx.zipIdx.map fun e => if e.2 = iScaleDim t then e.1 / iScaleBlk t else e.1
  let places := (ss.drop 1).zip (j.drop 1)
  iAux t + j.getD 0 0 + (places.foldl (fun (a : Nat × Nat) p => (a.1 + p.2 * a.2, a.2 * p.1)) (0, up64 (ss.getD 0 1))).1

/-- The history record of a tensor (R281). -/
def histAt (t : List Byte) : Nat := up64 (iAux t + scaleBytes t)

/-! ## Reading -/

/-- `n` bits from a bit address. -/
def memBits (m : List Host.Cell) (bit n : Nat) : Nat :=
  leNat (memRds m (bit / 8) ((bit % 8 + n + 7) / 8)) / 2 ^ (bit % 8) % 2 ^ n

/-- The scale byte of an element's block; 2^0 where there are no scales (R132). -/
def scaleOf (m : List Host.Cell) (t : List Byte) (idx : List Nat) : Nat :=
  if iScaled t then (memRd m (scaleAt t idx)).toNat else 127

/-- An element's value: decoded, times its block's scale (R125, R128, R132, R135). -/
def readElem (m : List Host.Cell) (t : List Byte) (idx : List Nat) : Val :=
  let s := scaleOf m t idx
  if s = 255 then .nan
  else (decodeElem (iType t) (memBits m (elemBitAt t (iBase t) idx) (iBits t))).scale ((s : Int) - 127)

/-- An element read into FP32 (R143, R183). -/
def readElem32 (m : List Host.Cell) (t : List Byte) (idx : List Nat) : NumM Val := round32 (readElem m t idx)

/-- An element of an index or count tensor of rank 1. -/
def readInt (m : List Host.Cell) (t : List Byte) (i : Nat) : Int :=
  match readElem m t [i] with
  | .fin x _ => x
  | _ => 0

/-! ## Storing -/

/-- Bits to write: bit address, width, bits. -/
abbrev BitPut := Nat × Nat × Nat

/-- The bytes that a bit write reaches, each with the bits that fall in it. -/
def putBytes (p : BitPut) : List (Nat × Byte) :=
  (toLE ((p.1 % 8 + p.2.1 + 7) / 8) (p.2.2 * 2 ^ (p.1 % 8))).zipIdx.map fun e => (p.1 / 8 + e.2, e.1)

/-- Bits of one byte joined. -/
def joinBytes : List (Nat × Byte) → List (Nat × Byte)
  | [] => []
  | e :: l => match joinBytes l with
    | [] => [e]
    | x :: l' => if x.1 = e.1 then (e.1, e.2 ||| x.2) :: l' else e :: x :: l'

/-- The bytes that bit writes give, in ascending order: each byte once, the bits of it that no element covers zero (R126, R211). -/
def packBits (l : List BitPut) : List (Nat × Byte) := joinBytes (sortBy (fun a b => a.1 ≤ b.1) (l.flatMap putBytes))

/-- One byte before the units that follow it. -/
def addUnit (e : Nat × Byte) : List (List (Nat × List Byte)) → List (List (Nat × List Byte))
  | ((a, bs) :: rest) :: us =>
    if a / 64 = e.1 / 64 then (if e.1 + 1 = a then ((e.1, e.2 :: bs) :: rest) :: us else ((e.1, [e.2]) :: (a, bs) :: rest) :: us)
    else [(e.1, [e.2])] :: ((a, bs) :: rest) :: us
  | us => [(e.1, [e.2])] :: us

/-- Ascending bytes as the writes of aligned 64-byte units (R211). -/
def unitsOf (l : List (Nat × Byte)) : List (List (Nat × List Byte)) := l.foldr addUnit []

/-- The padding of a store in the runs or blocks that it touches (R213). -/
def padPuts (t : List Byte) (idxs : List (List Nat)) : List BitPut :=
  if iBlocked t then
    let blocks := (idxs.map fun i => (i.getD 0 0 / 32) :: (i.getD 1 0 / 32) :: i.drop 2).eraseDups
    blocks.flatMap fun b => (allIdx [32, 32]).filterMap fun r =>
      let i := (b.getD 0 0 * 32 + r.getD 0 0) :: (b.getD 1 0 * 32 + r.getD 1 0) :: b.drop 2
      if i.getD 0 0 < iSize t 0 && i.getD 1 0 < iSize t 1 then none else some (elemBitAt t (iBase t) i, iBits t, 0)
  else
    let run := (iSize t 0 * iBits t + 7) / 8
    let rows := (idxs.map fun i => 0 :: i.drop 1).eraseDups
    rows.flatMap fun r => (List.range (up64 run - run)).map fun k => ((runStart t (iBase t) r + run + k) * 8, 8, 0)

/-- emax of a type (R134). -/
def emaxOf (t : Nat) : Int := if t = tE4M3 then 8 else if t = tE5M2 then 15 else if t = tE3M2 then 4 else 2

def clampScale (x : Int) : Int := max (-127) (min 127 x)

/-- The largest magnitude among finite values. -/
def amaxOf (l : List Val) : Val :=
  l.foldl (fun a v => match v with | .fin _ _ => if a.lt v.abs then v.abs else a | _ => a) .zero

/-- The derived exponent of R134: floor(log2 amax) − emax, and 0 when no finite value is other than zero. -/
def derivedExp (emax : Int) (amax : Val) : Int :=
  match amax with
  | .fin m e => if m = 0 then 0 else clampScale (floorLog2 m e - emax)
  | _ => 0

/-! ## The scale history (R281 to R283) -/

/-- CHECK is correct. -/
def histOk (r : List Byte) : Bool := fld r 124 4 = (crc32c (r.take 124)).toNat

/-- The supplied exponent from the copied record, and whether just-in-time scaling was in force (R282). -/
def histExp (ty : Nat) (r : List Byte) (vals : List Val) : Int × Bool :=
  let margin : Int := if histOk r then fld r 78 1 % 16 else 0
  let pick := fun (a : Val) => match a with
    | .fin m e => if m = 0 then (0 : Int) else clampScale (floorLog2 m e - emaxOf ty + margin)
    | _ => 0
  if histOk r && fld r 76 1 % 32 = 16 then
    (pick (amaxOf ((List.range 16).map fun i => decodeElem tFP32 (fld r (4 * i) 4))), false)
  else (pick (amaxOf vals), true)

def fpMaxWord (a b : Nat) : Nat := if (decodeElem tFP32 a).lt (decodeElem tFP32 b) then b else a

/-- The record after a descriptor's amax in a step (R283). -/
def histUpdate (r : List Byte) (amax : W32) (step : W64) : List Byte :=
  let body := if histOk r then r.take 124 else List.replicate 124 0
  let set := fun (b : List Byte) (off n v : Nat) => b.take off ++ toLE n v ++ b.drop (off + n)
  let b1 :=
    if bitAt (fld body 79 1) 0 && fld body 68 8 ≠ step.toNat then
      let head := fld body 77 1 % 16
      let count := fld body 76 1 % 32
      set (set (set (set body (4 * head) 4 (fld body 64 4)) 77 1 ((head + 1) % 16)) 76 1 (min (count + 1) 16)) 79 1 0
    else body
  let b2 :=
    if bitAt (fld b1 79 1) 0 then set b1 64 4 (fpMaxWord (fld b1 64 4) amax.toNat)
    else set (set (set b1 64 4 amax.toNat) 68 8 step.toNat) 79 1 1
  b2 ++ toLE 4 (crc32c b2).toNat

/-! ## A store of elements -/

/-- What a store of elements gives: the 64-byte units to write, in order; whether just-in-time scaling was in force; and the amax for the
history record. -/
structure Stored where
  units : List (List (Nat × List Byte))
  jit : Bool
  amax : Option W32
  deriving DecidableEq, Repr

/-- One scaled block written with an exponent (R134, R135): its element puts and its scale. -/
def storeBlock (t : List Byte) (x : Int) (els : List (List Nat × Val)) : NumM (List BitPut × Nat) := do
  let ty := iType t
  let bad := els.any fun e => e.2.isNan || (!hasInf ty && (match e.2 with | .inf _ => true | _ => false))
  if bad then
    noteNan
    return (els.map fun e => (elemBitAt t (iBase t) e.1, iBits t, 0), 255)
  else
    let l ← els.mapM fun e => do return (elemBitAt t (iBase t) e.1, iBits t, ← encodeElem ty (e.2.scale (-x)))
    return (l, (x + 127).toNat)

/-- The exponent with which a block is written (R134, R142, R282): `carry` gives the source scale of an element in a copy that keeps scales
unchanged, `hx` is the supplied exponent of a history. -/
def blockExp (t : List Byte) (carry : Option (List Nat → Nat)) (hx : Int) (els : List (List Nat × Val)) : Int :=
  match carry with
  | some f => (els.head?.map fun e => (f e.1 : Int) - 127).getD 0
  | none =>
    if iScaleSrc t = 0 then derivedExp (emaxOf (iType t)) (amaxOf (els.map Prod.snd))
    else if iScaleSrc t = 1 then (iScaleExp t : Int) - 127
    else hx

/-- What a store of elements writes: elements and padding in one ascending pass over units (R211, R213), then the scales, with the scales of
R134, R135, R142 and R282. A store of nothing writes nothing and leaves the history alone (R283). -/
def storeElems (t : List Byte) (hist : List Byte) (padFill : Bool) (carry : Option (List Nat → Nat))
    (els : List (List Nat × Val)) : NumM Stored := do
  let ty := iType t
  let pads := if padFill then padPuts t (els.map Prod.fst) else []
  if !iScaled t then
    let l ← els.mapM fun e => do return (elemBitAt t (iBase t) e.1, iBits t, ← encodeElem ty e.2)
    return ⟨unitsOf (packBits (l ++ pads)), false, none⟩
  else
    let vals := els.map Prod.snd
    let own := iScaleSrc t = 2 && carry.isNone && !els.isEmpty
    let (hx, jit) := if own then histExp ty hist vals else (0, false)
    let blocks := (els.map fun e => scaleAt t e.1).eraseDups
    let parts ← blocks.mapM fun a => do
      let mine := els.filter fun e => scaleAt t e.1 = a
      let (l, s) ← storeBlock t (blockExp t carry hx mine) mine
      return (l, (a * 8, 8, s))
    let amax := if own then some (bits32 ((round32 (amaxOf vals)) Tally.none).1) else none
    return ⟨unitsOf (packBits (parts.flatMap Prod.fst ++ pads)) ++ unitsOf (packBits (parts.map Prod.snd)), jit, amax⟩

/-- The effects of a store. -/
def Stored.effs (t : List Byte) (r : Stored) : List Eff :=
  (if r.units.isEmpty then [] else [.units r.units]) ++ (match r.amax with | some a => [.scaleHistory (histAt t) a] | none => [])

/-! ## What is read -/

/-- Aligned 64-byte units in the order in which they are met, neighbours joined. -/
def joinSpans : List Nat → List Span
  | [] => []
  | u :: l => match joinSpans l with
    | [] => [(64 * u, 64)]
    | r :: l' => if r.1 = 64 * u || r.1 + r.2 = 64 * (u + 1) then r :: l' else if r.1 = 64 * (u + 1) then (64 * u, r.2 + 64) :: l' else (64 * u, 64) :: r :: l'

/-- The memory that elements of a tensor and their scales occupy. -/
def elemSpans (t : List Byte) (idxs : List (List Nat)) : List Span :=
  joinSpans (idxs.flatMap fun i =>
      let b := elemBitAt t (iBase t) i
      if b / 512 = (b + iBits t - 1) / 512 then [b / 512] else [b / 512, b / 512 + 1]) ++
    (if iScaled t then joinSpans (idxs.map fun i => scaleAt t i / 64) else [])

/-- The memory that a whole tensor occupies, as a descriptor that reads all of it does. -/
def tensorSpans (t : List Byte) : List Span := elemSpans t (allIdx (iSizes t))

/-! ## Checks that every unit makes (R144, R195, R196, R205, R212) -/

/-- A check's outcome: none, or the status and DETAIL. -/
abbrev Chk := Option (H16 × Nat)

def firstChk (l : List Chk) : Chk := l.findSome? id

/-- A body whose format is wrong at the first offending byte (R99). -/
def fmtChk (l : List (Option Nat)) : Chk := (firstBad l).map fun o => (stFormat, o)

/-- An OPERAND failure with its code. -/
def opChk (bad : Bool) (code : Nat) : Chk := if bad then some (stOperand, code) else none

/-- A handle field's value is allowed (R195). -/
def handleBad (d : List Byte) (off : Nat) : Option Nat := badIf (0x4000 ≤ fld d off 2) off

/-- The copied entry of a handle field. -/
def entryOf (env : Env) (d : List Byte) (off : Nat) : Option TensorEntry := spGet (fun _ => none) env.tensors (fld d off 2)

/-- The image of a handle field; an empty one where the entry is invalid. -/
def imgOf (env : Env) (d : List Byte) (off : Nat) : List Byte := ((entryOf env d off).map TensorEntry.img).getD []

def noHandle (env : Env) (d : List Byte) (offs : List Nat) : Chk := opChk (offs.any fun o => (entryOf env d o).isNone) 0x0801

def isInt (t : Nat) : Bool := t = tI32 || t = tU8M

/-- A type pair of R144. -/
def pairChk (src dst : Nat) : Chk := opChk (((isInt src || isInt dst) && src ≠ dst) || dst = tSPLIT) 0x0501

/-- The granule of PACK_SPLIT along dimension 0 (R212). -/
def packQuantum (ty : Nat) : Nat := if ty = tE3M2 || ty = tE2M3 then 4 else if ty = tE2M1 then 2 else 1

/-- What a tensor named as a destination must be whatever is written: SCALE_MISSING and DEST_ALIASED (R144, R205). -/
def destNamed (e : Option TensorEntry) : Chk :=
  match e with
  | none => none
  | some e => firstChk [opChk (packed (iType e.img) && !iScaled e.img) 0x0502, opChk e.aliased 0x0809]

/-- A destination's own checks: those of its name, and for the view from `lo` to before `hi` SCALE_SPLIT and PACK_SPLIT (R212). -/
def destChk (e : Option TensorEntry) (lo hi : List Nat) : Chk :=
  match e with
  | none => none
  | some e =>
    let t := e.img
    let d := iScaleDim t
    let split := fun (d q : Nat) => lo.getD d 0 % q ≠ 0 || (hi.getD d 0 % q ≠ 0 && hi.getD d 0 ≠ iSize t d)
    firstChk [destNamed (some e), opChk (iScaled t && split d (iScaleBlk t)) 0x080B,
      opChk (split 0 (packQuantum (iType t))) 0x080C]

/-- The copied history record of a destination (R282). -/
def histOf (env : Env) (t : List Byte) : List Byte := spGet (fun _ => List.replicate 128 0) env.hist (histAt t)

/-- Records copied at issue for the destinations named. -/
def withHist (s : State) (c : Fin 9) (env : Env) (ts : List (List Byte)) : Env :=
  let l := ts.filter fun t => iScaled t && iScaleSrc t = 2
  { env with hist := l.foldl (fun m t => spSet (fun _ => List.replicate 128 0) m (histAt t) (memRds (s.chan c).mem (histAt t) 128)) [] }

/-! ## Results -/

/-- A descriptor's outcome, as its unit has computed it: what it will do, its flags and DETAIL. -/
structure Result where
  effs : List Eff
  flags : H16
  detail : Nat
  deriving DecidableEq, Repr

/-- The flags that a tally gives (R115). -/
def Tally.flags (t : Tally) : H16 := flagIf t.inv flInvalid ||| flagIf t.nan flNan ||| flagIf (0 < t.sat) flOverflow

/-- A result from a computation's tally: its saturations are counted (R140). -/
def resultOf (t : Tally) (jit : Bool) (extra : H16) (detail : Nat) (effs : List Eff) : Result :=
  ⟨effs ++ (if t.sat = 0 then [] else [.sat t.sat]), t.flags ||| flagIf jit flJitScale ||| extra, detail⟩

/-- The result of a GX descriptor, whose saturations are counted at its completion (R140, R223). -/
def gxResult (t : Tally) (jit : Bool) (extra : H16) (detail : Nat) (effs : List Eff) : Result :=
  ⟨effs ++ (if t.sat = 0 then [] else [.lateSat t.sat]), t.flags ||| flagIf jit flJitScale ||| extra, detail⟩

/-- The units of several stores, one after the other. -/
def unitsEff (l : List Stored) : List Eff :=
  let u := l.flatMap Stored.units
  if u.isEmpty then [] else [.units u]

end Sys2Proof.Machine
end

