-- ==== Sys2Proof/Machine/Layout.lean ====
section
/-! DEFINITION. The layout engine: DESC_CREATE with its image checks (R197 to R206), the allocation table (R207), LAYOUT_COPY
(R214, R215). -/
namespace Sys2Proof.Machine

/-! ## The allocation table (R207) -/

def allocDefault : Nat → List W32 := fun _ => [0, 0, 0, 0]

def Chan.allocEntry (ch : Chan) (e : Nat) : List W32 := spGet allocDefault ch.alloc e

def allocValid (w : List W32) : Bool := (w.getD 1 0).getLsbD 31
def allocBase (w : List W32) : Nat := (w.getD 0 0).toNat / 64 * 64 + (w.getD 1 0).toNat % 256 * 2 ^ 32
def allocLen (w : List W32) : Nat := (w.getD 2 0).toNat / 64 * 64 + (w.getD 3 0).toNat % 256 * 2 ^ 32

/-- Words not held keep the committed value; held words are kept as (word, value) in the low three places. -/
def heldWord (held committed : List W32) (i : Nat) : W32 :=
  if bitAt (held.getD 3 0).toNat i then held.getD i 0 else committed.getD i 0

/-- A write of word `w` of entry `e` (R207): words 0 to 2 are held, word 3 attempts the commit. -/
def allocWrite (c : Fin 9) (e w : Nat) (v : W32) (s : State) : State :=
  let ch := s.chan c
  let held := spGet allocDefault ch.allocHeld e
  if w < 3 then
    let held' := (held.set w v).set 3 (held.getD 3 0 ||| w32 (2 ^ w))
    s.modChan c fun ch => { ch with allocHeld := spSet allocDefault ch.allocHeld e held' }
  else
    let old := ch.allocEntry e
    let new := [heldWord held old 0 &&& 0xFFFFFFC0, heldWord held old 1 &&& 0x800000FF, heldWord held old 2 &&& 0xFFFFFFC0, v &&& 0xFF]
    let s := s.modChan c fun ch => { ch with allocHeld := spSet allocDefault ch.allocHeld e [0, 0, 0, 0] }
    if allocValid new && (allocLen new = 0 || !inMap (allocBase new) (allocLen new)) then cfgRefused (cpage c .layout) s
    else s.modChan c fun ch => { ch with alloc := spSet allocDefault ch.alloc e new }

/-! ## The image's format (R198) -/

/-- The first non-zero byte of a field that must be zero. -/
def mustZero (t : List Byte) (a b : Nat) : Option Nat := reservedBad t (zeroBytes a b)

/-- The first offending byte of an image. -/
def imageBad (t : List Byte) : Option Nat :=
  let ty := iType t
  let rank := iRank t
  let code := iScaleCode t
  firstBad ([badIf (!typeCodes.contains ty) 0, badIf (rank < 1 || 8 < rank || 16 ≤ fld t 1 1) 1,
    badIf (1 < fld t 2 1 || (fld t 2 1 = 1 && rank < 2)) 2,
    badIf ((code ≠ 0 && !narrow ty) || rank ≤ iScaleDim t || iScaleSrc t = 3 || 128 ≤ fld t 3 1) 3,
    badIf (iScaleSrc t = 1 && iScaleExp t = 255) 4, mustZero t 5 6, badIf (4096 ≤ fld t 6 2) 7, mustZero t 13 16,
    if code ≠ 0 || ty = tSPLIT then none else mustZero t 16 21, mustZero t 21 24] ++
    (List.range 8).map (fun d => if d < rank then badIf (iSize t d = 0) (24 + 4 * d) else mustZero t (24 + 4 * d) (28 + 4 * d)) ++
    [mustZero t 56 64] ++
    (List.range 7).map (fun d => if d + 1 < rank then none else mustZero t (64 + 8 * d) (72 + 8 * d)) ++
    [mustZero t 120 128])

/-! ## Extents and aliasing (R203, R205) -/

/-- Outer dimensions with their counts and strides (R203). -/
def outerDims (t : List Byte) : List (Nat × Int) :=
  ((List.range (iRank t)).drop 1).map fun d =>
    ((if d = 1 && iBlocked t then (iSize t 1 + 31) / 32 else iSize t d), iStride t d)

/-- The bytes of the innermost padded run, or of a row of blocks (R203). -/
def innerSpan (t : List Byte) : Nat :=
  if iBlocked t then (iSize t 0 + 31) / 32 * blockBytes t else up64 ((iSize t 0 * iBits t + 7) / 8)

/-- The first and the last byte of an extent from a base. -/
def extentOf (t : List Byte) (base : Nat) : Int × Int :=
  let ds := outerDims t
  let lo := ds.foldl (fun (a : Int) d => a + min 0 (((d.1 : Int) - 1) * d.2)) base
  let hi := ds.foldl (fun (a : Int) d => a + max 0 (((d.1 : Int) - 1) * d.2)) base
  (lo, hi + innerSpan t - 1)

/-- The ALIASED mark (R205). -/
def aliasedOf (t : List Byte) : Bool :=
  let ds := ((outerDims t).filter fun d => 1 < d.1) |> sortBy fun a b => a.2.natAbs ≤ b.2.natAbs
  (ds.foldl (fun (a : Bool × Nat) d => (a.1 || d.2.natAbs < a.2, a.2 + (d.1 - 1) * d.2.natAbs)) (false, innerSpan t)).1

/-- The checks of a create, in order (R198, R204). -/
def createChk (ch : Chan) (addr : Nat) : Chk :=
  let t := memRds ch.mem addr 128
  let w := ch.allocEntry (iAlloc t)
  let within := fun (r : Int × Int) => (allocBase w : Int) ≤ r.1 && r.2 < allocBase w + allocLen w
  let auxEnd : Int := if iScaleSrc t = 2 then histAt t + 127 else iAux t + scaleBytes t - 1
  let aux : Int × Int := if iType t = tSPLIT then extentOf t (iAux t) else (iAux t, auxEnd)
  firstChk [opChk (!inMap addr 128) 0x0802, (imageBad t).map fun o => (stFormat, 64 + o),
    opChk (!allocValid w) 0x0803,
    opChk (iBase t % 64 ≠ 0 || iAux t % 64 ≠ 0 || (outerDims t).any fun d => d.2 % 64 ≠ 0) 0x0804,
    opChk (!within (extentOf t (iBase t))) 0x0805,
    opChk ((iScaled t || iType t = tSPLIT) && !within aux) 0x0806]

/-! ## DESC_CREATE -/

def cHandle (d : List Byte) : Nat := fld d 16 2 % 0x4000
def cInvalidate (d : List Byte) : Bool := bitAt (fld d 18 1) 0

/-- The body's format (R197). -/
def createFmt (d : List Byte) : Chk :=
  fmtChk [badIf (cHandle d = 0) 16, badIf (0x4000 ≤ fld d 16 2) 17, reservedBad d ((18, 1) :: zeroBytes 19 24),
    badIf (!cInvalidate d && fld d 24 5 % 64 ≠ 0) 24, reservedBad d (addr40 24), reservedBad d (zeroBytes 32 64)]

/-- What a DESC_CREATE does (R197): it reads and checks its image as memory and the allocation table stand. -/
def createResult (ch : Chan) (d : List Byte) : Except (H16 × Nat) Result :=
  if cInvalidate d then .ok ⟨[.tensor (cHandle d) none false], 0, 0⟩
  else
    match createChk ch (fld d 24 5) with
    | some e => .error e
    | none =>
      let t := memRds ch.mem (fld d 24 5) 128
      .ok ⟨[.tensor (cHandle d) (some t) (aliasedOf t)], 0, 0⟩

/-! ## LAYOUT_COPY (R214, R215) -/

def permOf (d : List Byte) (i : Nat) : Nat := bitsOf (fld d 20 4) (3 * i + 2) (3 * i)

/-- The checks at issue (R214). -/
def copyChk (env : Env) (d : List Byte) : Chk :=
  let src := imgOf env d 16
  let dst := imgOf env d 18
  let r := iRank dst
  let perm := (List.range r).map (permOf d)
  let permBad := !(List.range r).all (fun i => perm.contains i) || ((List.range 8).drop r).any fun i => permOf d i ≠ i
  firstChk [fmtChk [handleBad d 16, handleBad d 18, reservedBad d ([(23, 0), (24, 1)] ++ zeroBytes 25 64)],
    noHandle env d [16, 18],
    opChk (iRank src ≠ r || permBad || (List.range r).any fun i => iSize dst i ≠ iSize src (permOf d i)) 0x080A,
    pairChk (iType src) (iType dst), destChk (entryOf env d 18) ((iSizes dst).map fun _ => 0) (iSizes dst)]

/-- The source index of a destination element. -/
def originOf (d : List Byte) (r : Nat) (idx : List Nat) : List Nat :=
  (List.range r).map fun k => (((List.range r).find? fun i => permOf d i = k).map fun i => idx.getD i 0).getD 0

/-- Scales carried unchanged (R142, R214). -/
def carriesScales (src dst : List Byte) (sameDim : Bool) : Bool :=
  iScaled dst && iScaled src && iType src = iType dst && iScaleCode src = iScaleCode dst && sameDim

/-- A scale that a copy has fixed: its address, its exponent, and whether its block reads as NaN (R134, R135). -/
abbrev FixedScale := Nat × Int × Bool

/-- What a copy has done so far: memory as it stands, the scales it has fixed, the units it has written. -/
structure CopyRun where
  mem : List Host.Cell
  scales : List FixedScale
  out : List (List (Nat × List Byte))

/-- A copy's source value of a destination element. -/
def copyVal (m : List Host.Cell) (src : List Byte) (d : List Byte) (r : Nat) (i : List Nat) : Val := readElem m src (originOf d r i)

/-- The scale of a block, fixed when the first unit that needs it is written (log 37): its source elements are read then. -/
def fixScale (src dst d : List Byte) (keep : Bool) (hx : Int) (a : Nat) (run : CopyRun) : FixedScale :=
  match run.scales.find? fun e => e.1 = a with
  | some e => e
  | none =>
    let mine := ((allIdx (iSizes dst)).filter fun i => scaleAt dst i = a).map fun i => (i, copyVal run.mem src d (iRank dst) i)
    let carry : Option (List Nat → Nat) := if keep then some fun i => scaleOf run.mem src (originOf d (iRank dst) i) else none
    let bad := mine.any fun e => e.2.isNan || (!hasInf (iType dst) && isInfinite e.2)
    (a, blockExp dst carry hx mine, bad)

/-- An element as a unit writes it. One that began in the unit before was counted there. -/
def copyPut (src dst d : List Byte) (u : Nat) (run : CopyRun) (i : List Nat) : NumM BitPut := do
  let b := elemBitAt dst (iBase dst) i
  let v := copyVal run.mem src d (iRank dst) i
  let put := fun (x : NumM Nat) => do
    if b / 512 = u then return (b, iBits dst, ← x) else return (b, iBits dst, (x Tally.none).1)
  if !iScaled dst then put (encodeElem (iType dst) v)
  else match run.scales.find? fun e => e.1 = scaleAt dst i with
    | some (_, x, bad) => if bad then put (do noteNan; return 0) else put (encodeElem (iType dst) (v.scale (-x)))
    | none => return (b, iBits dst, 0)

/-- One 64-byte unit of the destination: the source elements that it needs are read, then it is written (R215). -/
def copyUnit (src dst d : List Byte) (keep : Bool) (hx : Int) (idxs : List (List Nat)) (pads : List BitPut) (u : Nat) (run : CopyRun) :
    NumM CopyRun := do
  let mine := idxs.filter fun i =>
    let b := elemBitAt dst (iBase dst) i
    b / 512 = u || (b + iBits dst - 1) / 512 = u
  let here := if iScaled dst then (mine.map (scaleAt dst) ++ (idxs.map (scaleAt dst)).filter fun a => a / 64 = u).eraseDups else []
  let run := { run with scales := here.foldl (fun l a => if l.any fun e => e.1 = a then l else fixScale src dst d keep hx a run :: l) run.scales }
  let els ← mine.mapM (copyPut src dst d u run)
  let scales := (run.scales.filter fun e => here.contains e.1 && e.1 / 64 = u).map fun (e : FixedScale) =>
    ((e.1 * 8, 8, if e.2.2 then 255 else (e.2.1 + 127).toNat) : BitPut)
  let bytes := (packBits (els ++ (pads.filter fun p => p.1 / 512 = u || (p.1 + p.2.1 - 1) / 512 = u) ++ scales)).filter fun e => e.1 / 64 = u
  let puts := unitsOf bytes
  return { run with mem := puts.flatten.foldl (fun m p => memWrs m p.1 p.2) run.mem, out := run.out ++ puts }

/-- What a LAYOUT_COPY does: the units of its destination in ascending order, each once (R215). -/
def copyResult (m : List Host.Cell) (env : Env) (d : List Byte) : Result :=
  let src := imgOf env d 16
  let dst := imgOf env d 18
  let r := iRank dst
  let idxs := allIdx (iSizes dst)
  let pads := if bitAt (fld d 24 1) 0 then padPuts dst idxs else []
  let keep := carriesScales src dst (permOf d (iScaleDim dst) = iScaleDim src)
  let supplied := iScaled dst && iScaleSrc dst = 2 && !keep
  let all := if supplied then idxs.map (copyVal m src d r) else []
  let (hx, jit) := if supplied then histExp (iType dst) (histOf env dst) all else (0, false)
  let bits := idxs.map fun i => elemBitAt dst (iBase dst) i
  let touched := bits.flatMap (fun b => [b / 512, (b + iBits dst - 1) / 512]) ++ pads.map (fun p => p.1 / 512) ++
    (if iScaled dst then idxs.map fun i => scaleAt dst i / 64 else [])
  let (run, t) := ((sortBy (· ≤ ·) touched).eraseDups.foldlM (fun run u => copyUnit src dst d keep hx idxs pads u run) ⟨m, [], []⟩ : NumM CopyRun)
    Tally.none
  let hist := if supplied then [Eff.scaleHistory (histAt dst) (bits32 ((round32 (amaxOf all)) Tally.none).1)] else []
  resultOf t jit 0 0 (.units run.out :: hist)

end Sys2Proof.Machine
end

