-- ==== Sys2Proof/Machine/Dense.lean ====
section
/-! DEFINITION. The defined dot product (R146 to R166), MATMUL_PASS (R173 to R177) with 2-of-4 operands (R231 to R234), and the
closure comparison (R285 to R290). -/
namespace Sys2Proof.Machine

/-! ## The dot product -/

/-- The exponent with which an operand takes part in a chunk's maxima (R130, R150): −144 for zero; infinities and NaN take no
part. -/
def refExp : Val → Option Int
  | .fin m e => some (if m = 0 then -144 else floorLog2 m e)
  | _ => none

/-- The largest reference exponent of operands. -/
def maxRef (l : List Val) : Int := (l.filterMap refExp).foldl max (-144)

/-- A product aligned to the reference exponent: its magnitude truncated in units of 2^(r − 44) (R148, R151). -/
def aligned (r : Int) : Val × Val → Int
  | (.fin m1 e1, .fin m2 e2) =>
    let n := m1.natAbs * m2.natAbs
    let sh := e1 + e2 + 44 - r
    let u := if 0 ≤ sh then n * 2 ^ sh.toNat else n / 2 ^ (-sh).toNat
    signed (decide (m1 < 0) != decide (m2 < 0)) u
  | _ => 0

/-- The sign of an infinite product, if the product is one (R155). -/
def infSign : Val × Val → Option Bool
  | (.inf a, .inf b) => some (a != b)
  | (.inf a, .fin m _) => if m = 0 then none else some (a != decide (m < 0))
  | (.fin m _, .inf b) => if m = 0 then none else some (b != decide (m < 0))
  | _ => none

/-- A chunk's value: zero-times-infinity present (R157), the value, saturated (R158), the reference exponent if all are finite
(R150, R153, R155). -/
structure ChunkVal where
  invalid : Bool
  val : Val
  sat : Bool
  ref : Option Int
  deriving DecidableEq, Repr

def chunkValue (as bs : List Val) : ChunkVal :=
  let ps := as.zip bs
  let invalid := ps.any fun p => (p.1.isZero && isInfinite p.2) || (isInfinite p.1 && p.2.isZero)
  let signs := ps.filterMap infSign
  if invalid then ⟨true, .nan, false, none⟩
  else if ps.any fun p => p.1.isNan || p.2.isNan then ⟨false, .nan, false, none⟩
  else if signs.contains true && signs.contains false then ⟨false, .nan, false, none⟩
  else
    match signs with
    | b :: _ => ⟨false, .inf b, false, none⟩
    | [] =>
      let r := maxRef as + maxRef bs
      let sum := (ps.map (aligned r)).foldl (· + ·) 0
      let (v, t) := round32 (.fin sum (r - 44)) Tally.none
      ⟨false, v, 0 < t.sat, some r⟩

/-- The accumulator after a chunk, and whether the addition saturated (R154, R156, R158). -/
def addChunk (acc x : Val) : Val × Bool := let (v, t) := round32 (acc.add x) Tally.none; (v, 0 < t.sat)

/-- An output element: its value, the chunks that counted under R157, the saturations, the largest reference exponent. -/
structure DotVal where
  val : Val
  invalid : List Nat
  ovf : Nat
  rmax : Int
  deriving DecidableEq, Repr

/-- One element over its chunks of 32 (R149, R154). -/
def dotProduct (init : Val) (as bs : List Val) : DotVal :=
  let n := as.length / 32 + 1
  let cs := ((chunksOf 32 n as).zip (chunksOf 32 n bs)).zipIdx
  cs.foldl (fun d e =>
    let c := chunkValue e.1.1 e.1.2
    let (v, s) := addChunk d.val c.val
    { val := v, invalid := if c.invalid then d.invalid ++ [e.2] else d.invalid,
      ovf := d.ovf + (if c.sat then 1 else 0) + (if s then 1 else 0), rmax := match c.ref with | some r => max d.rmax r | none => d.rmax })
    ⟨init, [], 0, -288⟩

/-! ## MATMUL_PASS: fields and checks (R173 to R176) -/

def mArray (d : List Byte) : Nat := bitsOf (fld d 26 2) 1 0
def mAccMode (d : List Byte) : Nat := bitsOf (fld d 26 2) 3 2
def mDrain (d : List Byte) : Bool := bitAt (fld d 26 2) 4
def mSparse (d : List Byte) : Bool := bitAt (fld d 26 2) 12
def mM (d : List Byte) : Nat := fld d 28 2 % 512
def mN (d : List Byte) : Nat := fld d 30 2 % 512
def mK (d : List Byte) : Nat := fld d 32 4 % 2 ^ 21
def mTransOut (d : List Byte) : Bool := bitAt (fld d 60 1) 1

/-- The element at row `r0 + i` and column `c0 + j` of a view, or with the roles exchanged (R174). -/
def viewIdx (r0 c0 : Nat) (trans : Bool) (i j : Nat) : List Nat := if trans then [c0 + i, r0 + j] else [c0 + j, r0 + i]

def aIdx (d : List Byte) (m k : Nat) : List Nat := viewIdx (fld d 36 4) (fld d 40 4) (bitAt (fld d 26 2) 5) m k
def bIdx (d : List Byte) (k n : Nat) : List Nat := viewIdx (fld d 44 4) (fld d 48 4) (bitAt (fld d 26 2) 6) k n
def outIdx (d : List Byte) (m n : Nat) : List Nat := viewIdx (fld d 52 4) (fld d 56 4) (mTransOut d) m n

/-- A view's last element lies in the tensor. -/
def inSizes (t : List Byte) (idx : List Nat) : Bool := idx.zipIdx.all fun e => e.1 < iSize t e.2

def isLoad (d : List Byte) : Bool := mAccMode d = 1
def isContinue (d : List Byte) : Bool := mAccMode d = 2
def hasMeta (d : List Byte) : Bool := mSparse d && fld d 24 2 ≠ 0

/-- The format of the body (R99, R173, R176, R195). -/
def passFmt (d : List Byte) : Chk :=
  let f := fld d 26 2
  fmtChk [handleBad d 16, handleBad d 18, if isLoad d then handleBad d 20 else none, if mDrain d then handleBad d 22 else none,
    if mSparse d then handleBad d 24 else none,
    badIf (mArray d = 3 || mAccMode d = 3 || (mArray d = 2 && mAccMode d = 2)) 26,
    badIf (f / 2 ^ 13 ≠ 0) 27, badIf (mM d < 1 || 256 < mM d) 28, badIf (fld d 28 2 / 512 ≠ 0) 29,
    badIf (mN d < 1 || 256 < mN d) 30, badIf (fld d 30 2 / 512 ≠ 0) 31,
    badIf (mK d < 1 || 1048576 < mK d) 32, reservedBad d [(34, 31), (35, 0)],
    reservedBad d ([(60, 3)] ++ zeroBytes 61 64)]

/-- The checks at issue (R144, R175, R196, R212, R221). -/
def passChk (env : Env) (d : List Byte) : Chk :=
  let a := imgOf env d 16
  let b := imgOf env d 18
  let c := imgOf env d 20
  let o := imgOf env d 22
  let mt := imgOf env d 24
  let (m, n, k) := (mM d, mN d, mK d)
  let named := [a, b] ++ (if isLoad d then [c] else []) ++ (if mDrain d then [o] else [])
  let outer := (if isLoad d then [c] else []) ++ (if mDrain d then [o] else [])
  let viewBad := !inSizes a (aIdx d (m - 1) (k - 1)) || !inSizes b (bIdx d (k - 1) (n - 1)) ||
    outer.any fun t => !inSizes t (outIdx d (m - 1) (n - 1))
  let sdirBad := fun (t : List Byte) (sdir : Bool) (red : Nat) => iScaled t && iScaleDim t ≠ (if sdir then 1 - red else red)
  let redA := if bitAt (fld d 26 2) 5 then 1 else 0
  let redB := if bitAt (fld d 26 2) 6 then 0 else 1
  let hi := (outIdx d (m - 1) (n - 1)).map (· + 1)
  firstChk [passFmt d,
    noHandle env d ([16, 18] ++ (if isLoad d then [20] else []) ++ (if mDrain d then [22] else []) ++ (if hasMeta d then [24] else [])),
    opChk (named.any fun t => iRank t ≠ 2) 0x0701, opChk viewBad 0x0702,
    opChk (outer.any fun t => isInt (iType t) || iType t = tSPLIT) 0x0704,
    opChk (isInt (iType a) || isInt (iType b)) 0x0501,
    opChk (sdirBad a (bitAt (fld d 26 2) 9) redA || sdirBad b (bitAt (fld d 26 2) 10) redB) 0x0503,
    if mDrain d then destChk (entryOf env d 22) (outIdx d 0 0) hi else none,
    opChk (mSparse d && k % 32 ≠ 0) 0x0901,
    opChk (hasMeta d && (iRank mt ≠ 2 || iType mt ≠ tU8M || iSize mt 0 < k / 4 || iSize mt 1 < m)) 0x0906,
    if hasMeta d then destChk (entryOf env d 24) [0, 0] [k / 4, m] else none]

/-! ## The pass -/

/-- An operand element as it enters the array: FP32 through F19 precision (R137), everything else exact (R130). -/
def feedElem (ty : Nat) (truncate : Bool) (v : Val) : NumM Val :=
  if ty = tFP32 then (if truncate then return f19.chop v else f19.round v) else return v

/-- k per step of a type's width class (R168). -/
def widthOf (ty : Nat) : Nat := if packed ty then 4 else if ty = tE4M3 || ty = tE5M2 then 2 else 1

/-- The positions of a group's non-zeros (R231). -/
def nonZeros (g : List Val) : List Nat := (g.zipIdx.filter fun e => !e.1.isZero).map Prod.snd

/-- A group's metadata byte (R232). -/
def metaByte (g : List Val) : Nat :=
  let nz := nonZeros g
  let ps := (nz ++ (List.range 4).filter fun p => !nz.contains p).take 2
  ps.getD 0 0 + 4 * ps.getD 1 0 + (if 2 < nz.length then 16 else 0)

/-- Where an operand's elements are taken from: memory as they were read, and the tensor. -/
abbrev Source := List Host.Cell × List Byte

/-- The rows of A and the columns of B as they enter the array, with NEG applied (R174). -/
def passOperands (srcA srcB : Source) (d : List Byte) (negate : Bool) : NumM (List (List Val) × List (List Val)) := do
  let (ma, a) := srcA
  let (mb, b) := srcB
  let as ← (List.range (mM d)).mapM fun i => (List.range (mK d)).mapM fun k => do
    let v ← feedElem (iType a) (bitAt (fld d 26 2) 7) (readElem ma a (aIdx d i k))
    return if negate then v.neg else v
  let bs ← (List.range (mN d)).mapM fun j => (List.range (mK d)).mapM fun k =>
    feedElem (iType b) (bitAt (fld d 26 2) 8) (readElem mb b (bIdx d k j))
  return (as, bs)

/-- Initial accumulators, row by row (R176). -/
def passInit (m : List Host.Cell) (env : Env) (d : List Byte) (held : Option HeldSet) : NumM (List Val) :=
  if isLoad d then
    (List.range (mM d * mN d)).mapM fun i => readElem32 m (imgOf env d 20) (outIdx d (i / mN d) (i % mN d))
  else
    return match held with
      | some h => if isContinue d then h.vals.map val32 else List.replicate (mM d * mN d) .zero
      | none => List.replicate (mM d * mN d) .zero

/-- Every element of a product, row by row. -/
def product (init : List Val) (as bs : List (List Val)) : List DotVal :=
  (as.flatMap fun r => bs.map fun c => (r, c)).zip init |>.map fun e => dotProduct e.2 e.1.1 e.1.2

/-- The steps a pass presents (R168, R234). -/
def passSteps (a b d : List Byte) (violChunks : Nat) : Nat :=
  let w := min (widthOf (iType a)) (widthOf (iType b))
  let up := fun (x y : Nat) => (x + y - 1) / y
  if mSparse d then up (mK d) (2 * w) + 16 / w * violChunks else up (mK d) w

/-- What a pass does: its results, counts, captures, flags and stores (R154 to R166, R173 to R177, R210, R231 to R234). -/
def passResult (m : List Host.Cell) (srcA srcB : Source) (env : Env) (d : List Byte) (arr : Fin 2) (held : Option HeldSet) : Result :=
  let ((as, bs, init), feed) := (do
    let (as, bs) ← passOperands srcA srcB d (bitAt (fld d 26 2) 11)
    let init ← passInit m env d held
    return (as, bs, init) : NumM _) Tally.none
  let els := product init as bs
  let n := mN d
  let inv := (els.map fun e => e.invalid.length).sum
  let ovf := (els.map DotVal.ovf).sum
  let nan := els.any fun e => e.val.isNan
  let caps := els.zipIdx.flatMap fun e => e.1.invalid.map fun c => (c, e.2 / n, e.2 % n)
  let least := caps.foldl (fun (a : Option (Nat × Nat × Nat)) x => match a with
    | some y => if (x.1 * 65536 + x.2.1 * 256 + x.2.2) < (y.1 * 65536 + y.2.1 * 256 + y.2.2) then some x else a
    | none => some x) none
  let groups := if mSparse d then as.zipIdx.flatMap fun r => (chunksOf 4 (mK d / 4) r.1).zipIdx.map fun g => (g.2, r.2, g.1) else []
  let viols := groups.filter fun g => 2 < (nonZeros g.2.2).length
  let firstViol := viols.foldl (fun a g => min a (g.1 * 256 + g.2.1)) (2 ^ 26)
  let steps := passSteps srcA.2 srcB.2 d (viols.map fun g => g.1 / 8).eraseDups.length
  let o := imgOf env d 22
  let outs := els.zipIdx.map fun e => (outIdx d (e.2 / n) (e.2 % n), e.1.val)
  let (st, drain) := if mDrain d then storeElems o (histOf env o) (bitAt (fld d 60 1) 0) none outs Tally.none
    else ((⟨[], false, none⟩ : Stored), Tally.none)
  let metas := if hasMeta d then
      (storeElems (imgOf env d 24) [] false none (groups.map fun g => ([g.1, g.2.1], natVal (metaByte g.2.2))) Tally.none).1.units
    else []
  let vals := els.map fun e => bits32 e.val
  let flags := flagIf (0 < inv) flInvalid ||| flagIf nan flNan ||| flagIf (0 < ovf || 0 < feed.sat) flOverflow |||
    flagIf (!viols.isEmpty) flStructViol ||| flagIf st.jit flJitScale
  ⟨(if inv = 0 then [] else [.invalid inv]) ++ (if ovf = 0 then [] else [.overflow ovf]) ++ (if nan then [.nanResult] else []) ++
    (if feed.sat = 0 then [] else [.sat feed.sat]) ++
    (match least with | some (c, i, j) => [.firstInvalid (dId d) (i + 256 * arr.val) j c] | none => []) ++
    (if viols.isEmpty then [] else [.structViol viols.length (w32 (firstViol % 256 + firstViol / 256 * 256 + arr.val * 2 ^ 26))]) ++
    [.busy arr steps, .pass arr] ++
    (if mDrain d then st.effs o else [.held arr (mM d) n vals]) ++ (if metas.isEmpty then [] else [.units metas]) ++
    (if drain.sat = 0 then [] else [.drainSat drain.sat]) ++ (if drain.nan then [.drainNan] else []) ++
    (if mAccMode d = 0 && mDrain d then [.eligible arr vals (els.map DotVal.rmax)] else []), flags, 0⟩

/-! ## Operands and their reuse (R107, R178) -/

/-- The memory of a pass's A view and of its B view. -/
def aSpans (t d : List Byte) : List Span := elemSpans t ((List.range (mM d)).flatMap fun i => (List.range (mK d)).map (aIdx d i))
def bSpans (t d : List Byte) : List Span := elemSpans t ((List.range (mN d)).flatMap fun j => (List.range (mK d)).map fun k => bIdx d k j)

/-- The bytes of ranges as they stand. -/
def takeSpans (m : List Host.Cell) (l : List Span) : List (Nat × List Byte) := l.map fun r => (r.1, memRds m r.1 r.2)

/-- A pass names the same tensor, origin, TRANS setting and k range for an operand as the pass feeding ahead of it (R178). -/
def sameA (d e : List Byte) : Bool :=
  fld d 16 2 = fld e 16 2 && fld d 36 8 = fld e 36 8 && bitAt (fld d 26 2) 5 = bitAt (fld e 26 2) 5 && mK d = mK e
def sameB (d e : List Byte) : Bool :=
  fld d 18 2 = fld e 18 2 && fld d 44 8 = fld e 44 8 && bitAt (fld d 26 2) 6 = bitAt (fld e 26 2) 6 && mK d = mK e

/-- An operand as it stands in memory, or as the operand store holds it. -/
def sourceOf (m : List Host.Cell) (img : List Byte) (held : Option (List Byte × List (Nat × List Byte))) : Source :=
  match held with
  | some (t, l) => (l.foldl (fun m p => memWrs m p.1 p.2) m, t)
  | none => (m, img)

/-- What the operand store gives a pass: its A operand and its B operand, where it reuses them. -/
def reusedA (o : Option Operands) (d : List Byte) : Option (List Byte × List (Nat × List Byte)) :=
  o.bind fun x => if sameA d x.desc then some (x.aImg, x.aBytes) else none
def reusedB (o : Option Operands) (d : List Byte) : Option (List Byte × List (Nat × List Byte)) :=
  o.bind fun x => if sameB d x.desc then some (x.bImg, x.bBytes) else none

/-- The operand store as a pass leaves it. -/
def operandsOf (d : List Byte) (srcA srcB : Source) : Operands :=
  ⟨d, srcA.2, srcB.2, takeSpans srcA.1 (aSpans srcA.2 d), takeSpans srcB.1 (bSpans srcB.2 d)⟩

/-! ## Closure (R286 to R290) -/

/-- The wide operand's tensor: the shadow handle if it may serve, else the operand's own (R286). -/
def wideImg (env : Env) (d : List Byte) (off : Nat) : List Byte :=
  let own := imgOf env d off
  let h := fld d off 2
  match spGet (fun _ => none) env.tensors (h + 0x2000) with
  | some e =>
    let t := e.img
    if env.closureRate.getLsbD 16 && h ≤ 0x1FFF && 1 ≤ iType t && iType t ≤ 4 && !iScaled t && iSizes t = iSizes own then t else own
  | none => own

/-- The exact low part of an FP32 value (R179, R184). -/
def lowPart (v : Val) : Val :=
  match v with
  | .fin _ _ => v.sub (f19.chop v)
  | .inf _ => .zero
  | .nan => .nan

/-- The wide result of every element, row by row: the passes of R179 whose low operand exists, then the high pass (R286). -/
def wideResult (m : List Host.Cell) (env : Env) (d : List Byte) : List W32 :=
  let a := wideImg env d 16
  let b := wideImg env d 18
  let negate := fun (v : Val) => if bitAt (fld d 26 2) 11 then v.neg else v
  let as := (List.range (mM d)).map fun i => (List.range (mK d)).map fun k => negate (readElem m a (aIdx d i k))
  let bs := (List.range (mN d)).map fun j => (List.range (mK d)).map fun k => readElem m b (bIdx d k j)
  let hi := fun (t : List Byte) (l : List (List Val)) => if iType t = tFP32 then l.map (·.map f19.chop) else l
  -- a low part enters with ROUND_IN 0: rounded to F19 precision (R137, R179)
  let lo := fun (l : List (List Val)) => l.map (·.map fun v => (f19.round (lowPart v) Tally.none).1)
  let acc0 := List.replicate (mM d * mN d) Val.zero
  let run := fun (acc : List Val) (x y : List (List Val)) => (product acc x y).map DotVal.val
  let acc1 := if iType b = tFP32 then run acc0 (hi a as) (lo bs) else acc0
  let acc2 := if iType a = tFP32 then run acc1 (lo as) (hi b bs) else acc1
  (run acc2 (hi a as) (hi b bs)).map bits32

/-- The code of an EXACT and of an INFINITE closure error (R290). -/
def errExact : Int := -128
def errInfinite : Int := 127

/-- The closure error of an element, as the signed byte of DETAIL (R289, R290). -/
def closureErr (n w : W32) (rmax : Int) : Int :=
  if n = w then errExact
  else
    match (val32 n).sub (val32 w) with
    | .fin m e => if m = 0 then errExact else max (-127) (min 126 (floorLog2 m e - rmax))
    | _ => errInfinite

/-- The unclamped error against the bound (R289): in excess or not. -/
def elementExcess (n w : W32) (rmax bound : Int) : Bool :=
  n ≠ w && (match (val32 n).sub (val32 w) with
    | .fin m e => m ≠ 0 && decide (bound < floorLog2 m e - rmax)
    | _ => true)

/-- The sample's error and whether it is in excess of BOUND (R289). -/
def sampleErr (cl : Closure) (wide : List W32) (bound : Int) : Int × Bool :=
  let es := (cl.narrow.zip wide).zip cl.rmax
  (es.foldl (fun a e => max a (closureErr e.1.1 e.1.2 e.2)) errExact, es.any fun e => elementExcess e.1.1 e.1.2 e.2 bound)

end Sys2Proof.Machine
end

