-- ==== Sys2Proof/Machine/Gx.lean ====
section
/-! DEFINITION. The descriptor engine of GX: GATHER, MERGE, BIN, COMPACT with its predictor audit (R217 to R246). -/
namespace Sys2Proof.Machine

/-! ## Rows and sequences -/

/-- The elements of a row: dimension 1 index `r` (R220). -/
def readRow (m : List Host.Cell) (t : List Byte) (r : Nat) : List Val := (List.range (iSize t 0)).map fun i => readElem m t [i, r]

def rowEls (r : Nat) (vs : List Val) : List (List Nat × Val) := vs.zipIdx.map fun e => ([e.2, r], e.1)

/-- The sequences of the copied table packed from a row in granules (R226): start, count, offset. -/
def raggedSegs (env : Env) (off pad : Nat) : List (Nat × Nat × Nat) × Nat :=
  (env.seqTable.toList.filter SeqEntry.valid).foldl (fun (a : List (Nat × Nat × Nat) × Nat) e =>
    let n := e.tokenCount.toNat
    (a.1 ++ [(e.tokenStart.toNat, n, a.2)], a.2 + (n + pad - 1) / pad * pad)) ([], off)

def inRange (x : Int) (rows : Nat) : Bool := 0 ≤ x && x < rows

/-- An index, count or histogram tensor of rank 1 (R221), a tensor of rank 2. -/
def rankBad (t : List Byte) (r : Nat) : Bool := iRank t ≠ r

/-- The effects of out-of-range indices, and their flag (R222, R223). -/
def rangeEffs (pos : List Nat) : List Eff :=
  match pos with
  | [] => []
  | p :: ps => [.indexRange pos.length (w32 (ps.foldl min p))]

def rangeFlag (pos : List Nat) : H16 := flagIf (!pos.isEmpty) flIndexRange

/-- Rows keep their source's scales (R220). -/
def carriesRows (src dst : List Byte) : Bool :=
  iScaled dst && iScaled src && iType src = iType dst && iScaleCode src = iScaleCode dst && iScaleDim src = 0 && iScaleDim dst = 0

/-- Copied rows into a destination: `(row, source row or zero)`; scales are carried where R220 lets a row keep them. A row written as zero
takes its scale from the destination's own source, and with a scale history that choice is a use of the record (R220, R282, R283). -/
def storeRows (m : List Host.Cell) (env : Env) (src dst : List Byte) (rows : List (Nat × Option Nat)) : NumM Stored := do
  let vals := fun (e : Nat × Option Nat) => match e.2 with
    | some r => readRow m src r
    | none => List.replicate (iSize dst 0) Val.zero
  let els := rows.flatMap fun e => rowEls e.1 (vals e)
  let hist := histOf env dst
  if carriesRows src dst then
    let (hx, jit) := histExp (iType dst) hist (els.map Prod.snd)
    let own : Nat := if iScaleSrc dst = 0 then 127 else if iScaleSrc dst = 1 then iScaleExp dst else (hx + 127).toNat
    let carry : List Nat → Nat := fun idx => match rows.find? fun e => e.1 = idx.getD 1 0 with
      | some (_, some r) => scaleOf m src [idx.getD 0 0, r]
      | _ => own
    let st ← storeElems dst hist false (some carry) els
    if iScaleSrc dst = 2 && rows.any fun e => e.2.isNone then
      return { st with jit, amax := some (bits32 ((round32 (amaxOf (els.map Prod.snd))) Tally.none).1) }
    else return st
  else storeElems dst hist false none els

/-- The memory of a row, and of entries of a list. -/
def rowSpans (t : List Byte) (r : Nat) : List Span := elemSpans t ((List.range (iSize t 0)).map fun i => [i, r])
def listSpans (t : List Byte) (lo n : Nat) : List Span := elemSpans t ((List.range n).map fun i => [lo + i])

/-! ## GATHER (R225, R226) -/

def gMode (d : List Byte) : Nat := fld d 24 1 % 4
def gCount (d : List Byte) : Nat := fld d 28 4 % 2 ^ 25
def gRow0 (d : List Byte) : Nat := fld d 40 4
def gPad (d : List Byte) : Nat := fld d 44 2 % 2 ^ 13
def gHasNnz (d : List Byte) : Bool := gMode d = 0 && fld d 22 2 ≠ 0

def gatherFmt (d : List Byte) : Chk :=
  let idx := gMode d = 0
  fmtChk [handleBad d 16, handleBad d 18, if idx then handleBad d 20 else none, if idx then handleBad d 22 else none,
    badIf (1 < gMode d) 24, reservedBad d ((24, 3) :: zeroBytes 25 28),
    badIf (idx && (gCount d < 1 || 16777216 < gCount d)) 28, reservedBad d [(31, 1)],
    badIf (!idx && (gPad d < 1 || 4096 < gPad d)) 44, reservedBad d ((45, 31) :: zeroBytes 46 64)]

/-- The live rows c, read at issue (R225). -/
def gatherLive (m : List Host.Cell) (env : Env) (d : List Byte) : Nat :=
  if gHasNnz d then min (gCount d) (readInt m (imgOf env d 22) (fld d 36 4)).toNat else gCount d

/-- The checks at issue (R221, R225). -/
def gatherChk (m : List Host.Cell) (env : Env) (d : List Byte) : Chk :=
  let dst := imgOf env d 16
  let src := imgOf env d 18
  let idx := imgOf env d 20
  let nnz := imgOf env d 22
  let byIdx := gMode d = 0
  let stop := if byIdx then gRow0 d + gCount d else (raggedSegs env (gRow0 d) (gPad d)).2
  let live := gatherLive m env d
  let nnzShort := gHasNnz d && iSize nnz 0 ≤ fld d 36 4
  firstChk [gatherFmt d,
    noHandle env d ([16, 18] ++ (if byIdx then [20] else []) ++ (if gHasNnz d then [22] else [])),
    opChk (rankBad dst 2 || rankBad src 2 || (byIdx && rankBad idx 1) || (gHasNnz d && rankBad nnz 1)) 0x0902,
    opChk (iSize src 0 ≠ iSize dst 0 || (gRow0 d < stop && iSize dst 1 < stop) || nnzShort ||
      (byIdx && 0 < live && iSize idx 0 < fld d 32 4 + live)) 0x0903,
    opChk ((byIdx && iType idx ≠ tI32) || (gHasNnz d && iType nnz ≠ tI32)) 0x0904,
    pairChk (iType src) (iType dst),
    if gRow0 d < stop then destChk (entryOf env d 16) [0, gRow0 d] [iSize dst 0, stop] else destNamed (entryOf env d 16)]

def gatherResult (m : List Host.Cell) (env : Env) (d : List Byte) : Result :=
  let dst := imgOf env d 16
  let src := imgOf env d 18
  let rows : List (Nat × Option Nat) × List Nat :=
    if gMode d = 0 then
      let is := (List.range env.live).map fun i => (i, readInt m (imgOf env d 20) (fld d 32 4 + i))
      ((List.range (gCount d)).map fun i => (gRow0 d + i, match is[i]? with
          | some (_, x) => if inRange x (iSize src 1) then some x.toNat else none
          | none => none),
        is.filterMap fun e => if inRange e.2 (iSize src 1) then none else some (fld d 32 4 + e.1))
    else
      let segs := (raggedSegs env (gRow0 d) (gPad d)).1
      let rows := segs.flatMap fun s => (List.range ((s.2.1 + gPad d - 1) / gPad d * gPad d)).map fun j =>
        (s.2.2 + j, if j < s.2.1 && s.1 + j < iSize src 1 then some (s.1 + j) else none)
      (rows, segs.flatMap fun s => (List.range s.2.1).filterMap fun j =>
        if s.1 + j < iSize src 1 then none else some (s.2.2 + j - gRow0 d))
  let (st, t) := storeRows m env src dst rows.1 Tally.none
  let detail := if gMode d = 0 then env.live else (raggedSegs env (gRow0 d) (gPad d)).2 - gRow0 d
  gxResult t st.jit (rangeFlag rows.2) detail (st.effs dst ++ rangeEffs rows.2)

/-! ## MERGE (R227 to R229) -/

def rPad (d : List Byte) : Nat := fld d 40 2 % 2 ^ 13
def rRow0 (d : List Byte) : Nat := fld d 36 4

def mergeFmt (d : List Byte) : Chk :=
  let rag := gMode d = 2
  fmtChk [handleBad d 16, handleBad d 18, if rag then none else handleBad d 20,
    if rag then badIf (fld d 22 2 ≠ 0) 22 else handleBad d 22, badIf (gMode d = 3) 24, reservedBad d ((24, 3) :: zeroBytes 25 28),
    badIf (!rag && (gCount d < 1 || 16777216 < gCount d)) 28, reservedBad d [(31, 1)],
    badIf (rag && (rPad d < 1 || 4096 < rPad d)) 40, reservedBad d ((41, 31) :: zeroBytes 42 64)]

/-- The checks at issue (R221). A MERGE writes FP32, BF16 or FP16 unscaled; a RAGGED copy may write a scaled destination
too (R220, log 10). -/
def mergeChk (env : Env) (d : List Byte) : Chk :=
  let dst := imgOf env d 16
  let src := imgOf env d 18
  let idx := imgOf env d 20
  let w := imgOf env d 22
  let rag := gMode d = 2
  let hasW := !rag && fld d 22 2 ≠ 0
  let (segs, stop) := raggedSegs env (rRow0 d) (rPad d)
  let last := fld d 32 4 + gCount d
  let dests := if rag then (segs.filter fun s => s.1 < iSize dst 1).map fun s =>
      destChk (entryOf env d 16) [0, s.1] [iSize dst 0, min (s.1 + s.2.1) (iSize dst 1)]
    else [destChk (entryOf env d 16) [0, 0] (iSizes dst)]
  firstChk ([mergeFmt d,
    noHandle env d ([16, 18] ++ (if rag then [] else [20]) ++ (if hasW then [22] else [])),
    opChk (rankBad dst 2 || rankBad src 2 || (!rag && rankBad idx 1) || (hasW && rankBad w 1)) 0x0902,
    opChk (iSize src 0 ≠ iSize dst 0 || (if rag then !segs.isEmpty && iSize src 1 < stop
      else iSize src 1 < rRow0 d + gCount d || iSize idx 0 < last || (hasW && iSize w 0 < last))) 0x0903,
    opChk (!rag && iType idx ≠ tI32) 0x0904,
    opChk ((if iScaled dst then !rag else !(iType dst = tFP32 || iType dst = tBF16 || iType dst = tFP16)) ||
      (hasW && (iScaled w || !isFloat (iType w)))) 0x0905,
    pairChk (iType src) (iType dst), destNamed (entryOf env d 16)] ++ dests)

/-- One update: the exact sum rounded once to the destination type (R227, R228). -/
def mergeStep (ty : Nat) (w : Val) (old src : Val) : NumM Val := do
  let v := old.add (← w.mul src)
  if v.isNan then noteNan
  (typeFmt ty).round v

/-- The destination rows after every contribution, as (row, values). -/
def mergeRows (m : List Host.Cell) (env : Env) (d : List Byte) : NumM (List (Nat × List Val)) := do
  let dst := imgOf env d 16
  let src := imgOf env d 18
  let ty := iType dst
  let hasW := fld d 22 2 ≠ 0
  let start : List (Nat × List Val) :=
    if gMode d = 1 then (List.range (iSize dst 1)).map fun r => (r, List.replicate (iSize dst 0) Val.zero) else []
  (List.range (gCount d)).foldlM (fun rows i => do
    let x := readInt m (imgOf env d 20) (fld d 32 4 + i)
    if !inRange x (iSize dst 1) then return rows
    let r := x.toNat
    let w := if hasW then (readElem32 m (imgOf env d 22) [fld d 32 4 + i] Tally.none).1 else Val.one
    let old := ((rows.find? fun e => e.1 = r).map Prod.snd).getD (readRow m dst r)
    let new ← (old.zip (readRow m src (rRow0 d + i))).mapM fun e => mergeStep ty w e.1 e.2
    return (rows.filter fun e => e.1 ≠ r) ++ [(r, new)]) start

def mergeResult (m : List Host.Cell) (env : Env) (d : List Byte) : Result :=
  let dst := imgOf env d 16
  let src := imgOf env d 18
  if gMode d = 2 then
    let segs := (raggedSegs env (rRow0 d) (rPad d)).1
    let all := segs.flatMap fun s => (List.range s.2.1).map fun j => (s.1 + j, s.2.2 + j)
    let pos := all.filterMap fun e => if e.1 < iSize dst 1 then none else some (e.2 - rRow0 d)
    let (st, t) := storeRows m env src dst ((all.filter fun e => e.1 < iSize dst 1).map fun e => (e.1, some e.2)) Tally.none
    gxResult t st.jit (rangeFlag pos) 0 (st.effs dst ++ rangeEffs pos)
  else
    let pos := (List.range (gCount d)).filterMap fun i =>
      let x := readInt m (imgOf env d 20) (fld d 32 4 + i)
      if inRange x (iSize dst 1) then none else some (fld d 32 4 + i)
    let (st, t) := (do
      let rows ← mergeRows m env d
      storeElems dst [] false none (rows.flatMap fun e => rowEls e.1 e.2) : NumM Stored) Tally.none
    gxResult t false (rangeFlag pos) 0 (st.effs dst ++ rangeEffs pos)

/-! ## BIN (R237) -/

def bRow0 (d : List Byte) : Nat := fld d 24 4
def bRows (d : List Byte) : Nat := fld d 28 4 % 2 ^ 25

def binChk (env : Env) (d : List Byte) : Chk :=
  let src := imgOf env d 16
  let ord := imgOf env d 18
  let hist := imgOf env d 20
  firstChk [fmtChk [handleBad d 16, handleBad d 18, handleBad d 20, reservedBad d (zeroBytes 22 24),
      badIf (bRows d < 1 || 16777216 < bRows d) 28, reservedBad d ((31, 1) :: zeroBytes 32 64)],
    noHandle env d [16, 18, 20],
    opChk (rankBad src 2 || rankBad ord 1 || rankBad hist 1) 0x0902,
    opChk (iSize src 1 < bRow0 d + bRows d || iSize ord 0 < bRows d || iSize hist 0 < 10) 0x0903,
    opChk (iType ord ≠ tI32 || iType hist ≠ tI32) 0x0904,
    destChk (entryOf env d 18) [0] [bRows d], destChk (entryOf env d 20) [0] [10]]

/-- The positions of a row's non-zeros: an FP32 element counts by its expanded class, as it enters an array (R130, R137, R231). -/
def rowNonZeros (t : List Byte) (vs : List Val) : List Nat := nonZeros (vs.map fun v => (feedElem (iType t) false v Tally.none).1)

/-- The non-zeros of a row (R231, R237). -/
def rowNnz (m : List Host.Cell) (t : List Byte) (r : Nat) : Nat := (rowNonZeros t (readRow m t r)).length

/-- The bin of a count (R237). -/
def binOf (n : Nat) : Nat :=
  if n = 0 then 0 else if n ≤ 16 then 1 else if n ≤ 32 then 2 else if n ≤ 64 then 3 else if n ≤ 128 then 4
  else if n ≤ 256 then 5 else if n ≤ 512 then 6 else if n ≤ 1024 then 7 else 8

def listEls (l : List Nat) : List (List Nat × Val) := l.zipIdx.map fun e => ([e.2], natVal e.1)

def binResult (m : List Host.Cell) (env : Env) (d : List Byte) : Result :=
  let rows := (List.range (bRows d)).map fun i => (bRow0 d + i, binOf (rowNnz m (imgOf env d 16) (bRow0 d + i)))
  let order := (List.range 9).flatMap fun b => (rows.filter fun r => r.2 = b).map Prod.fst
  let hist := (List.range 9).map (fun b => (rows.filter fun r => r.2 < b).length) ++ [bRows d]
  let (st, t) := (do
    let a ← storeElems (imgOf env d 18) [] false none (listEls order)
    let b ← storeElems (imgOf env d 20) [] false none (listEls hist)
    return [a, b] : NumM (List Stored)) Tally.none
  gxResult t false 0 0 (unitsEff st)

/-! ## COMPACT (R238 to R243) -/

def kPredict (d : List Byte) : Bool := fld d 16 1 % 4 = 1
def kRows (d : List Byte) : Nat := fld d 36 4 % 2 ^ 25
def kCap (d : List Byte) : Nat := fld d 40 4 % 2 ^ 17
def kTiles (d : List Byte) : Nat := (kRows d + 255) / 256

def compactFmt (d : List Byte) : Chk :=
  let pr := kPredict d
  fmtChk ([badIf (1 < fld d 16 1 % 4) 16, reservedBad d [(16, 3), (17, 0)], handleBad d 18, handleBad d 20,
    if pr && fld d 20 2 = 0 then none else handleBad d 22, handleBad d 24, handleBad d 26,
    if pr then handleBad d 28 else reservedBad d (zeroBytes 28 30), if pr then handleBad d 30 else reservedBad d (zeroBytes 30 32),
    badIf (kRows d < 1 || 16777216 < kRows d) 36, reservedBad d [(39, 1)], badIf (kCap d < 1 || 65536 < kCap d) 40,
    reservedBad d [(42, 1), (43, 0)], if pr then none else reservedBad d (zeroBytes 44 52), reservedBad d (zeroBytes 52 64)])

/-- The checks at issue (R221, R238, R239, R242). -/
def compactChk (env : Env) (d : List Byte) : Chk :=
  let t := imgOf env d
  let cap := kCap d
  let n := kRows d
  if kPredict d then
    let hasX := fld d 20 2 ≠ 0
    let hasMask := fld d 28 2 ≠ 0
    let hasHist := fld d 30 2 ≠ 0
    let nn := iSize (t 18) 0
    firstChk [compactFmt d,
      noHandle env d ([18, 24, 26] ++ (if hasX then [20, 22] else []) ++ (if hasMask then [28] else []) ++ (if hasHist then [30] else [])),
      opChk (rankBad (t 18) 2 || rankBad (t 24) 2 || rankBad (t 26) 1 || (hasX && (rankBad (t 20) 2 || rankBad (t 22) 2)) ||
        (hasMask && rankBad (t 28) 2) || (hasHist && rankBad (t 30) 1)) 0x0902,
      opChk (iSize (t 18) 1 < n || iSize (t 24) 0 < cap || iSize (t 24) 1 < kTiles d || iSize (t 26) 0 < kTiles d ||
        (hasMask && (iSize (t 28) 0 < (nn + 7) / 8 || iSize (t 28) 1 < kTiles d)) || (hasHist && iSize (t 30) 0 < 17) ||
        (hasX && (iSize (t 20) 0 ≠ iSize (t 22) 0 || iSize (t 20) 1 < n || iSize (t 22) 1 < nn))) 0x0903,
      opChk (iType (t 24) ≠ tI32 || iType (t 26) ≠ tI32 || (hasMask && iType (t 28) ≠ tU8M) || (hasHist && iType (t 30) ≠ tI32)) 0x0904,
      opChk (isInt (iType (t 18)) || (hasX && (isInt (iType (t 20)) || isInt (iType (t 22))))) 0x0501,
      destChk (entryOf env d 24) [0, 0] [cap, kTiles d], destChk (entryOf env d 26) [0] [kTiles d],
      if hasMask then destChk (entryOf env d 28) [0, 0] [(nn + 7) / 8, kTiles d] else none,
      if hasHist then destChk (entryOf env d 30) [0] [17] else none]
  else
    firstChk [compactFmt d, noHandle env d [18, 20, 22, 24, 26],
      opChk (rankBad (t 18) 2 || rankBad (t 20) 1) 0x0902,
      opChk (rankBad (t 22) 2 || rankBad (t 24) 2 || rankBad (t 26) 1 || !isFloat (iType (t 22)) || iSize (t 22) 0 < cap ||
        iSize (t 22) 1 < n || iSize (t 24) 0 < cap || iSize (t 24) 1 < n || iSize (t 26) 0 < n || iSize (t 20) 0 < fld d 32 4 + n) 0x0903,
      opChk (iType (t 20) ≠ tI32 || iType (t 24) ≠ tI32 || iType (t 26) ≠ tI32) 0x0904,
      pairChk (iType (t 18)) (iType (t 22)), destChk (entryOf env d 22) [0, 0] [cap, n], destChk (entryOf env d 24) [0, 0] [cap, n],
      destChk (entryOf env d 26) [0] [n]]

/-- ROWS mode (R238). -/
def compactRows (m : List Host.Cell) (env : Env) (d : List Byte) : Result :=
  let t := imgOf env d
  let cap := kCap d
  let rows := (List.range (kRows d)).map fun i =>
    let r := readInt m (t 20) (fld d 32 4 + i)
    if inRange r (iSize (t 18) 1) then
      let vs := readRow m (t 18) r.toNat
      (i, rowNonZeros (t 18) vs, vs, false)
    else (i, [], [], true)
  let pos := rows.filterMap fun e => if e.2.2.2 then some (fld d 32 4 + e.1) else none
  let pad := fun (l : List Val) (x : Val) => l ++ List.replicate (cap - l.length) x
  let (puts, tally) := (do
    let a ← storeElems (t 22) (histOf env (t 22)) false none
      (rows.flatMap fun e => rowEls e.1 (pad ((e.2.1.take cap).map fun j => e.2.2.1.getD j .zero) .zero))
    let b ← storeElems (t 24) [] false none (rows.flatMap fun e => rowEls e.1 (pad ((e.2.1.take cap).map natVal) (.fin (-1) 0)))
    let n ← storeElems (t 26) [] false none (listEls (rows.map fun e => e.2.1.length))
    return (a, [b, n]) : NumM (Stored × List Stored)) Tally.none
  gxResult tally puts.1.jit (rangeFlag pos) (rows.filter fun e => cap < e.2.1.length).length
    (puts.1.effs (t 22) ++ unitsEff puts.2 ++ rangeEffs pos)

/-- A tile's score of each neuron: the largest over its tokens, NaN as +infinity (R239). -/
def tileScores (m : List Host.Cell) (t : List Byte) (lo hi : Nat) : List Val :=
  (List.range (iSize t 0)).map fun j =>
    (List.range (hi - lo)).foldl (fun a k =>
      let v := match readElem m t [j, lo + k] with | .nan => Val.inf false | v => v
      if a.lt v then v else a) (.inf true)

/-- The selected neurons of a tile, ascending, and whether CAP excluded some (R239). -/
def selectTop (cap : Nat) (keep : Val → Bool) (vs : List Val) : List Nat × Bool :=
  let cand := vs.zipIdx.filter fun e => keep e.1
  let better := fun (a b : Val × Nat) => b.1.lt a.1 || (!a.1.lt b.1 && decide (a.2 < b.2))
  ((cand.filter fun e => decide ((cand.filter fun f => better f e).length < cap)).map Prod.snd, cap < cand.length)

/-- The histogram entry of a count (R242). -/
def auditBin (n : Nat) : Nat := if n = 0 then 0 else min 16 (Nat.log2 n + 1)

/-- A tile of a PREDICT is audited (R242). -/
def audited (env : Env) (d : List Byte) (i : Nat) : Bool :=
  fld d 20 2 ≠ 0 && env.auditRate ≠ 0 && (fld d 32 4 + i) % env.auditRate = 0

/-- The mispredicted neurons of an audited tile (R242). -/
def auditTile (m : List Host.Cell) (env : Env) (d : List Byte) (tile last : Nat) (sel : List Nat) : Nat :=
  let x := imgOf env d 20
  let w := imgOf env d 22
  let want := (fld d 32 4 + tile) / env.auditRate % 256
  let tok := min (256 * tile + want) last
  let feed := fun (t : List Byte) (v : Val) => (feedElem (iType t) false v Tally.none).1
  let xs := (readRow m x tok).map (feed x)
  let thr := val32 (w32 (fld d 48 4))
  ((List.range (iSize (imgOf env d 18) 0)).filter fun j => !sel.contains j && (
    let z := (dotProduct .zero xs ((readRow m w j).map (feed w))).val
    z.isNan || thr.lt z)).length

/-- PREDICT mode (R239, R242, R243). -/
def compactPredict (m : List Host.Cell) (env : Env) (d : List Byte) : Result :=
  let t := imgOf env d
  let cap := kCap d
  let thr := val32 (w32 (fld d 44 4))
  let tiles := (List.range (kTiles d)).map fun i =>
    let hi := min (256 * i + 256) (kRows d)
    let (sel, cut) := selectTop cap (fun v => thr.lt v) (tileScores m (t 18) (256 * i) hi)
    (i, sel, cut, if audited env d i then some (auditTile m env d i (hi - 1) sel) else none)
  let maskRow := fun (sel : List Nat) => (List.range ((iSize (t 18) 0 + 7) / 8)).map fun b =>
    natVal ((List.range 8).foldl (fun a k => a + (if sel.contains (8 * b + k) then 2 ^ k else 0)) 0)
  let audits := tiles.filterMap fun e => e.2.2.2
  let histVals := (List.range 17).map fun b =>
    min 0x7FFFFFFF (readInt m (t 30) b + ((audits.filter fun n => auditBin n = b).length : Nat))
  let (puts, tally) := (do
    let a ← storeElems (t 24) [] false none (tiles.flatMap fun e =>
      rowEls e.1 (e.2.1.map natVal ++ List.replicate (cap - e.2.1.length) (.fin (-1) 0)))
    let n ← storeElems (t 26) [] false none (listEls (tiles.map fun e => e.2.1.length))
    let k ← storeElems (t 28) [] false none
      (if fld d 28 2 = 0 then [] else tiles.flatMap fun e => rowEls e.1 (maskRow e.2.1))
    let h ← storeElems (t 30) [] false none
      (if fld d 30 2 = 0 || audits.isEmpty then [] else histVals.zipIdx.map fun e => ([e.2], Val.fin e.1 0))
    return [a, n, k, h] : NumM (List Stored)) Tally.none
  let missed := min audits.sum 0xFFFF
  let excl := min (tiles.filter fun e => e.2.2.1).length 0xFFFF
  gxResult tally false 0 (excl * 65536 + missed)
    (unitsEff puts ++ (audits.filter fun n => 0 < n).map .mispredict)

def compactResult (m : List Host.Cell) (env : Env) (d : List Byte) : Result :=
  if kPredict d then compactPredict m env d else compactRows m env d

/-! ## What is read (R217, R323) -/

/-- The memory that a GX descriptor reads. -/
def gxSpans (m : List Host.Cell) (env : Env) (d : List Byte) : List Span :=
  let t := imgOf env d
  match dOpcode d with
  | 0x20 =>
    if gMode d = 0 then
      (if gHasNnz d then listSpans (t 22) (fld d 36 4) 1 else []) ++ listSpans (t 20) (fld d 32 4) env.live ++
        (List.range env.live).flatMap fun i =>
          let x := readInt m (t 20) (fld d 32 4 + i)
          if inRange x (iSize (t 18) 1) then rowSpans (t 18) x.toNat else []
    else (raggedSegs env (gRow0 d) (gPad d)).1.flatMap fun s => (List.range s.2.1).flatMap fun j =>
      if s.1 + j < iSize (t 18) 1 then rowSpans (t 18) (s.1 + j) else []
  | 0x21 =>
    if gMode d = 2 then (raggedSegs env (rRow0 d) (rPad d)).1.flatMap fun s => (List.range s.2.1).flatMap fun j => rowSpans (t 18) (s.2.2 + j)
    else listSpans (t 20) (fld d 32 4) (gCount d) ++ (if fld d 22 2 ≠ 0 then listSpans (t 22) (fld d 32 4) (gCount d) else []) ++
      (List.range (gCount d)).flatMap fun i =>
        let x := readInt m (t 20) (fld d 32 4 + i)
        if inRange x (iSize (t 16) 1) then rowSpans (t 18) (rRow0 d + i) ++ (if gMode d = 0 then rowSpans (t 16) x.toNat else []) else []
  | 0x22 =>
    if kPredict d then
      (List.range (kRows d)).flatMap (rowSpans (t 18)) ++
        (if fld d 20 2 ≠ 0 && env.auditRate ≠ 0 then tensorSpans (t 20) ++ tensorSpans (t 22) else [])
    else listSpans (t 20) (fld d 32 4) (kRows d) ++ (List.range (kRows d)).flatMap fun i =>
      let x := readInt m (t 20) (fld d 32 4 + i)
      if inRange x (iSize (t 18) 1) then rowSpans (t 18) x.toNat else []
  | _ => (List.range (bRows d)).flatMap fun i => rowSpans (t 16) (bRow0 d + i)

end Sys2Proof.Machine
end

