-- ==== Sys2Proof/Machine/Func.lean ====
section
/-! DEFINITION. The functions that R184 bounds to one unit in the last place: the exact result in fixed point, and the FP32 value
within the bound that the fixed design picks (log 8). -/
namespace Sys2Proof.Machine

/-! ## Exact results in fixed point -/

/-- Fraction bits of the fixed-point work: far more than FP32 needs. -/
def fixBits : Nat := 512

/-- The Taylor sum of e^t from term `i` on, scaled by 2^fixBits, for 0 ≤ t < 1/8: `n` further terms. -/
def expTerms : Nat → Nat → Nat → Nat → Nat
  | 0, _, _, _ => 0
  | n + 1, i, term, t => term + expTerms n (i + 1) (term * t / 2 ^ fixBits / (i + 1)) t

/-- `n` squarings. -/
def squares : Nat → Nat → Nat
  | 0, x => x
  | n + 1, x => squares n (x * x / 2 ^ fixBits)

/-- e^(a/b) scaled by 2^fixBits, for 0 ≤ a/b < 512. -/
def expPos (a b : Nat) : Nat := squares 12 (expTerms 100 0 (2 ^ fixBits) (a * 2 ^ fixBits / (b * 2 ^ 12)))

/-- e^(a/b) as a value; beyond ±300 the magnitude is taken at the bound, which every rounding to FP32 sees alike. -/
def expRat (a : Int) (b : Nat) : Nat × Int :=
  let n := min a.natAbs (300 * b)
  let p := expPos n b
  if 0 ≤ a then (p, -(fixBits : Int)) else (2 ^ (2 * fixBits) / p, -(fixBits : Int))

/-- The series of atanh t over odd powers, scaled, for t ≤ 1/3. -/
def atanhTerms : Nat → Nat → Nat → Nat → Nat
  | 0, _, _, _ => 0
  | n + 1, k, pw, t2 => pw / k + atanhTerms n (k + 2) (pw * t2 / 2 ^ fixBits) t2

/-- Twice atanh of a/b, scaled by 2^fixBits. -/
def atanh2 (a b : Nat) : Nat :=
  let t := a * 2 ^ fixBits / b
  2 * atanhTerms 170 1 t (t * t / 2 ^ fixBits)

/-- ln (m × 2^e), m positive, scaled by 2^fixBits. -/
def lnFix (m : Nat) (e : Int) : Int :=
  let l := Nat.log2 m
  let ln2 : Int := atanh2 1 3
  (atanh2 (m - 2 ^ l) (m + 2 ^ l) : Int) + (e + l) * ln2

/-- A finite value as a fraction. -/
def ratOf (m e : Int) : Int × Nat := if 0 ≤ e then (m * 2 ^ e.toNat, 1) else (m, 2 ^ (-e).toNat)

/-- s / (1 + e^(-a/b)). -/
def overOnePlusExp (m e : Int) (a : Int) (b : Nat) : Val :=
  let (p, q) := expRat (-a) b
  match addFin 1 0 p q with
  | .fin d de => quotFin m e d de
  | v => v

/-! ## The pick (R184) -/

/-- An FP32 value within one unit in the last place of an exact result: truncated or one above, and one below too where the
result is on the grid; beyond the largest finite value it saturates and counts. -/
def pick32 (op : Nat) (x : Val) (y : Val) : NumM Val :=
  match y with
  | .fin m e => do
    let (c, below) := f32.trunc 64 m.natAbs e
    let d := (Config.ulpPick op (bits32 x)).val
    let c' := if below ≠ 0 then c + d % 2 else if d = 1 then c + 1 else if d = 2 then c - 1 else c
    if f32.top < f32.near m.natAbs e then noteSat; return top32 (m < 0)
    else return f32.value (m < 0) (min c' f32.top)
  | v => return v

/-- EXP (R184). -/
def exp32 (x : Val) : NumM Val :=
  match x with
  | .nan => return .nan
  | .inf n => if n then return .zero else return .inf false
  | .fin m e => do
    let (a, b) := ratOf m e
    let (p, q) := expRat a b
    pick32 0x10 x (.fin p q)

/-- LOG (R184). -/
def log32 (x : Val) : NumM Val :=
  match x with
  | .nan => return .nan
  | .inf n => if n then do noteNan; return .nan else return .inf false
  | .fin m e =>
    if m = 0 then do noteSat; return top32 true
    else if m < 0 then do noteNan; return .nan
    else pick32 0x11 x (.fin (lnFix m.natAbs e) (-(fixBits : Int)))

/-- RECIP (R183, R184). -/
def recip32 (x : Val) : NumM Val :=
  match x with
  | .nan => return .nan
  | .inf _ => return .zero
  | .fin m e => if m = 0 then do noteSat; return top32 false else pick32 0x12 x (quotFin 1 0 m e)

/-- RSQRT (R183, R184). -/
def rsqrt32 (x : Val) : NumM Val :=
  match x with
  | .nan => return .nan
  | .inf n => if n then do noteNan; return .nan else return .zero
  | .fin m e =>
    if m = 0 then do noteSat; return top32 false
    else if m < 0 then do noteNan; return .nan
    else match quotFin 1 0 m e with
      | .fin a b => pick32 0x13 x (sqrtFin a.natAbs b)
      | v => return v

/-- SILU (R184); of zero it is +0 (R240). At minus infinity its division is infinity by infinity (R183, log 8). -/
def silu32 (x : Val) : NumM Val :=
  match x with
  | .nan => return .nan
  | .inf n => if n then do noteNan; return .nan else return .inf false
  | .fin m e => do
    if m = 0 then return .zero
    let (a, b) := ratOf m e
    pick32 0x15 x (overOnePlusExp m e a b)

/-- GELU (R184): 0.5 s (1 + tanh u) is s / (1 + e^(-2u)); of zero it is +0 (R240). At minus infinity it is a product of zero and infinity (R183, log 8). -/
def gelu32 (x : Val) : NumM Val :=
  match x with
  | .nan => return .nan
  | .inf n => if n then do noteInv; return .nan else return .inf false
  | .fin m e => do
    if m = 0 then return .zero
    let (a, b) := ratOf m e
    let num := 1595770 * (a * 1000000 * (b : Int) ^ 2 + 44715 * a ^ 3)
    pick32 0x16 x (overOnePlusExp m e num (1000000000000 * b ^ 3))

/-- The SIGMOID of ROUTE_SCORE (R248), with the accuracy of EXP. -/
def sigmoid32 (x : Val) : NumM Val :=
  match x with
  | .nan => return .nan
  | .inf n => if n then return .zero else return .one
  | .fin m e => do
    let (a, b) := ratOf m e
    pick32 0x17 x (overOnePlusExp 1 0 a b)

end Sys2Proof.Machine
end

