-- ==== Sys2Proof/Machine/VectorUnit.lean ====
section
/-! DEFINITION. The vector unit (R183 to R186). -/
namespace Sys2Proof.Machine

def vOp (d : List Byte) : Nat := fld d 16 1
def vSeq (d : List Byte) : Bool := bitAt (fld d 17 1) 0

def vecOps : List Nat :=
  [0x01, 0x02, 0x03, 0x04, 0x05, 0x06, 0x07, 0x08, 0x10, 0x11, 0x12, 0x13, 0x14, 0x15, 0x16, 0x20, 0x21, 0x22, 0x28, 0x29, 0x2A]

/-- The number of sources an operation takes (R184). -/
def vSources (op : Nat) : Nat :=
  if op = 0x03 || op = 0x2A then 3 else if [0x01, 0x02, 0x04, 0x05, 0x29].contains op then 2 else 1

def vSrcOffs (d : List Byte) : List Nat := [20, 22, 24].take (vSources (vOp d))

def isReduction (op : Nat) : Bool := op = 0x20 || op = 0x21 || op = 0x22

/-- A source's shape agrees with the destination's under broadcast, dimension 0 apart for a reduction (R184). -/
def shapeFits (op : Nat) (dst src : List Byte) : Bool :=
  iRank src = iRank dst && ((iSizes src).zip (iSizes dst)).zipIdx.all fun e =>
    (e.2 = 0 && isReduction op) || e.1.1 = e.1.2 || e.1.1 = 1

/-- The checks at issue (R99, R144, R183, R184, R196, R205, R212). -/
def vectorChk (env : Env) (d : List Byte) : Chk :=
  let op := vOp d
  let dst := imgOf env d 18
  let srcs := (vSrcOffs d).map (imgOf env d)
  firstChk [
    fmtChk ([badIf (!vecOps.contains op) 16, badIf (vSeq d && op ≠ 0x28) 17, reservedBad d [(17, 1)], handleBad d 18] ++
      (vSrcOffs d).map (handleBad d) ++ [reservedBad d (zeroBytes 26 28 ++ zeroBytes 32 64)]),
    noHandle env d (18 :: vSrcOffs d),
    opChk ((dst :: srcs).any (fun t => isInt (iType t)) || iType dst = tSPLIT) 0x0501,
    opChk ((isReduction op && iSize dst 0 ≠ 1) || srcs.any fun t => !shapeFits op dst t) 0x0711,
    destChk (entryOf env d 18) ((iSizes dst).map fun _ => 0) (iSizes dst)]

/-- A source element under broadcast, in FP32. -/
def vRead (m : List Host.Cell) (src : List Byte) (idx : List Nat) : Val :=
  (readElem32 m src ((idx.zip (iSizes src)).map fun e => if e.2 = 1 then 0 else e.1) Tally.none).1

/-- An elementwise operation (R184). -/
def vElem (op : Nat) (imm : Val) (x y z : Val) : NumM Val :=
  match op with
  | 0x01 => add32 x y
  | 0x02 => mul32 x y
  | 0x03 => fma32 x y z
  | 0x04 => return x.max y
  | 0x05 => return x.min y
  | 0x06 => mul32 x imm
  | 0x08 => return match x with
    | .fin _ _ => x.sub (f19.chop x)
    | .inf _ => .zero
    | .nan => .nan
  | 0x10 => exp32 x
  | 0x11 => log32 x
  | 0x12 => recip32 x
  | 0x13 => rsqrt32 x
  | 0x14 => sqrt32 x
  | 0x15 => silu32 x
  | 0x16 => gelu32 x
  | _ => return x

/-- The sequence-table entry that holds a token (R121, R186). -/
def seqOf (tab : Vector SeqEntry 16) (t : Nat) : Option SeqEntry :=
  tab.toList.find? fun e => e.valid && e.tokenStart.toNat ≤ t && t < e.tokenStart.toNat + e.tokenCount.toNat

/-- The positions that a row takes in (R186). -/
def taken (tab : Vector SeqEntry 16) (seq : Bool) (t j : Nat) : Bool :=
  !seq || (match seqOf tab t with
    | some e => e.tokenStart.toNat ≤ j && j < e.tokenStart.toNat + e.tokenCount.toNat && (!e.causal || j ≤ t)
    | none => false)

def rowMax (l : List Val) : Val :=
  match l with
  | [] => .zero
  | x :: xs => xs.foldl Val.max x

/-- A row softmax (R186): the row takes in only some positions, and the sum of R185 runs over those (log 9). -/
def softmaxRow (take : Nat → Bool) (xs : List Val) : NumM (List Val) := do
  let ins := xs.zipIdx.filter fun e => take e.2
  if ins.isEmpty then return xs.map fun _ => Val.zero
  let mx := rowMax (ins.map Prod.fst)
  match mx with
  | .fin _ _ =>
    let es ← xs.zipIdx.mapM fun e => if take e.2 then do exp32 (← sub32 e.1 mx) else return Val.zero
    let s ← rowSum ((es.zipIdx.filter fun e => take e.2).map Prod.fst)
    es.zipIdx.mapM fun e => if take e.2 then div32 e.1 s else return Val.zero
  | _ => do noteNan; return xs.map fun _ => Val.nan

/-- RMSNORM of a row (R185). -/
def rmsRow (imm : Val) (xs gs : List Val) : NumM (List Val) := do
  let sq ← xs.mapM fun x => mul32 x x
  let root ← sqrt32 (← add32 (← rowMean sq) imm)
  (xs.zip gs).mapM fun e => do div32 (← mul32 e.1 e.2) root

/-- LAYERNORM of a row (R185). -/
def layerRow (imm : Val) (xs gs bs : List Val) : NumM (List Val) := do
  let mean ← rowMean xs
  let ds ← xs.mapM fun x => sub32 x mean
  let sq ← ds.mapM fun x => mul32 x x
  let root ← sqrt32 (← add32 (← rowMean sq) imm)
  ((ds.zip gs).zip bs).mapM fun e => do add32 (← mul32 (← div32 e.1.1 root) e.1.2) e.2

/-- A reduction of a row (R184, R185). -/
def reduceRow (op : Nat) (xs : List Val) : NumM Val :=
  if op = 0x20 then rowSum xs else if op = 0x21 then return rowMax (xs.map Val.abs) else return rowMax xs

/-- The destination's elements with their values. -/
def vectorVals (m : List Host.Cell) (env : Env) (d : List Byte) : NumM (List (List Nat × Val)) := do
  let op := vOp d
  let dst := imgOf env d 18
  let src := fun (i : Nat) => imgOf env d (20 + 2 * i)
  let imm := val32 (w32 (fld d 28 4))
  let n := vSources op
  let get := fun (i : Nat) (idx : List Nat) => if i < n then vRead m (src i) idx else Val.zero
  -- each source element is converted, and may saturate, once (R140, R183)
  let _ ← (List.range n).mapM fun i => (allIdx (iSizes (src i))).mapM fun idx => readElem32 m (src i) idx
  if op < 0x20 then
    (allIdx (iSizes dst)).mapM fun idx => do
      return (idx, ← vElem op imm (get 0 idx) (get 1 idx) (get 2 idx))
  else
    let rows := allIdx ((iSizes dst).drop 1)
    let len := if isReduction op then iSize (src 0) 0 else iSize dst 0
    let out ← rows.mapM fun r => do
      let row := fun (i : Nat) => (List.range len).map fun j => get i (j :: r)
      let xs := row 0
      if isReduction op then
        return [(0 :: r, ← reduceRow op xs)]
      else
        let ys ←
          if op = 0x28 then softmaxRow (taken env.seqTable (vSeq d) (r.getD 0 0)) xs
          else if op = 0x29 then rmsRow imm xs (row 1)
          else layerRow imm xs (row 1) (row 2)
        return ys.zipIdx.map fun e => (e.2 :: r, e.1)
    return out.flatten

/-- What a VECTOR does (R183 to R186). -/
def vectorResult (m : List Host.Cell) (env : Env) (d : List Byte) : Result :=
  let dst := imgOf env d 18
  let (st, t) := (do storeElems dst (histOf env dst) false none (← vectorVals m env d) : NumM Stored) Tally.none
  resultOf t st.jit 0 0 (st.effs dst)

end Sys2Proof.Machine
end

