-- ==== Sys2Proof/Machine/Route.lean ====
section
/-! DEFINITION. Expert routing (R247 to R269): scoring and selection, the route report, plans and their checks, the assignment of
pairs, the lists and exchange tables of DISPATCH and COLLECT. -/
namespace Sys2Proof.Machine

/-! ## ROUTE_SCORE (R247 to R251) -/

def scCtx (d : List Byte) : Fin 4 := ⟨fld d 22 1 % 4, by omega⟩
def scFunc (d : List Byte) : Nat := bitsOf (fld d 22 1) 3 2
def scE (d : List Byte) : Nat := fld d 26 2 % 2048
def scToken0 (d : List Byte) : Nat := fld d 32 4
def scT (d : List Byte) : Nat := fld d 36 4 % 32768
def scStanding (d : List Byte) : Nat := fld d 48 5

/-- The body's format (R99, R195). -/
def scoreFmt (d : List Byte) : Chk :=
  fmtChk ([16, 18, 20].map (handleBad d) ++ [badIf (scFunc d = 3) 22, reservedBad d [(22, 63), (23, 0)],
    badIf (scE d < 1 || 1024 < scE d) 26, reservedBad d [(27, 7)], badIf (scT d < 1 || 16384 < scT d) 36,
    reservedBad d [(37, 127), (38, 0), (39, 0)], reservedBad d (zeroBytes 44 48), badIf (scStanding d % 64 ≠ 0) 48,
    reservedBad d (addr40 48), reservedBad d (zeroBytes 56 64)])

/-- A list tensor of rank 1 and the type, with at least `n` entries. -/
def listOk (t : List Byte) (ty n : Nat) : Bool := iRank t = 1 && iType t = ty && n ≤ iSize t 0

def aliasedChk (env : Env) (d : List Byte) (offs : List Nat) : Chk :=
  opChk (offs.any fun o => ((entryOf env d o).map TensorEntry.aliased).getD false) 0x0809

/-- The checks at issue (R265). -/
def scoreChk (ch : Chan) (env : Env) (d : List Byte) : Chk :=
  let t := imgOf env d
  firstChk [scoreFmt d, noHandle env d [16, 18, 20], opChk (ch.route.ctxs[(scCtx d).val].isOpen) 0x0A01,
    opChk (iRank (t 16) ≠ 2 || iType (t 16) ≠ tFP32 || iSize (t 16) 0 ≠ scE d || iSize (t 16) 1 < scToken0 d + scT d ||
      !listOk (t 18) tI32 (8 * scT d) || !listOk (t 20) tFP32 (8 * scT d)) 0x0A03,
    aliasedChk env d [18, 20]]

/-- A row's scores (R248). -/
def scoreRow (func : Nat) (xs : List Val) : NumM (List Val) :=
  if func = 0 then softmaxRow (fun _ => true) xs else if func = 1 then xs.mapM sigmoid32 else return xs

/-- The best expert, NaN below every number (R248). -/
def bestOf (vs : List Val) : Nat :=
  (vs.zipIdx.foldl (fun (a : Val × Nat) e => if (a.1.isNan && !e.1.isNan) || a.1.lt e.1 then e else a) (.nan, 0)).2

/-- The selected experts of a token, ascending (R248). -/
def selectExperts (cap : Nat) (thr : Val) (minOne : Bool) (vs : List Val) : List Nat :=
  let sel := (selectTop cap (fun v => thr.lt v) vs).1
  if sel.isEmpty && minOne then [bestOf vs] else sel

/-- The gates of the selected experts (R249). -/
def gatesOf (renorm : Bool) (ss : List Val) : NumM (List Val) :=
  if renorm then do
    let sum ← match ss with
      | [] => pure Val.zero
      | x :: xs => xs.foldlM add32 x
    if sum.isZero then return ss.map fun _ => Val.zero else ss.mapM fun s => div32 s sum
  else return ss

/-- Selection of every token: experts and gates. -/
def scoreTokens (m : List Host.Cell) (env : Env) (d : List Byte) : NumM (List (List Nat × List Val)) :=
  (List.range (scT d)).mapM fun t => do
    let ss ← scoreRow (scFunc d) (readRow m (imgOf env d 16) (scToken0 d + t))
    if ss.any Val.isNan then noteNan
    let sel := selectExperts env.tokenCap (val32 (w32 (fld d 28 4))) (bitAt (fld d 22 1) 5) ss
    return (sel, ← gatesOf (bitAt (fld d 22 1) 4) (sel.map fun e => ss.getD e .zero))

/-! ## Pairs and plans (R252, R255, R257) -/

def halfLen (tokens : Nat) : Nat := (tokens + 1) / 2

/-- The pairs of a half: expert and token, by expert and then token. -/
def pairsOf (experts tokens : Nat) (sel : Nat → List Nat) (half : Nat) : List (Nat × Nat) :=
  let lo := if half = 0 then 0 else halfLen tokens
  let hi := if half = 0 then halfLen tokens else tokens
  (List.range experts).flatMap fun e => ((List.range (hi - lo)).map (lo + ·)).filterMap fun t =>
    if (sel t).contains e then some (e, t) else none

/-- Expert `e`'s VALID replicas: station and capacity, in slot order. -/
def replicas (plan : List Byte) (e : Nat) : List (Nat × Nat) :=
  (List.range 4).filterMap fun j =>
    let w := fld plan (64 + 16 * e + 4 * j) 4
    if bitAt w 15 then some (w % 2 ^ 14, w / 65536) else none

/-- The checks of R255; the group's are made only where a group is named. -/
def planOk (plan : List Byte) (layer : H16) (experts : Nat) (group : Option (List Nat × Nat)) : Bool :=
  let reps := (List.range experts).map (replicas plan)
  fld plan 8 2 = layer.toNat && fld plan 10 2 % 2048 = experts && fld plan 12 4 = 64 + 16 * experts &&
    (reps.all fun l => l.any (fun r => 1 ≤ r.2) && (l.map Prod.fst).eraseDups.length = l.length) &&
    (match group with
     | none => true
     | some (g, rows) => reps.all (fun l => l.all fun r => g.contains r.1) &&
        g.all fun m => ((reps.flatten.filter fun r => r.1 = m).map Prod.snd).sum ≤ rows)

/-- A pair's place: round, destination station, expert, token (R257). -/
structure Placed where
  round : Nat
  station : Nat
  expert : Nat
  token : Nat
  deriving DecidableEq, Repr

/-- The station that takes position `q` of a round. -/
def stationAt : List (Nat × Nat) → Nat → Nat
  | [], _ => 0
  | (s, c) :: rest, q => if q < c then s else stationAt rest (q - c)

/-- The assignment of a half's pairs (R257). -/
def assignHalf (plan : List Byte) (experts : Nat) (pairs : List (Nat × Nat)) : List Placed :=
  (List.range experts).flatMap fun e =>
    let reps := replicas plan e
    let c := (reps.map Prod.snd).sum
    (pairs.filter fun p => p.1 = e).zipIdx.map fun p => ⟨p.2 / c, stationAt reps (p.2 % c), e, p.1.2⟩

/-- NEED of a half (R257). -/
def needOf (l : List Placed) : Nat := l.foldl (fun a p => max a (p.round + 1)) 1

/-- What a ROUTE_SCORE does: SEL, GATE and the report, its identifier and time still zero (R249, R251). -/
def scoreResult (m : List Host.Cell) (env : Env) (station : Nat) (d : List Byte) : Result :=
  let ((toks, a, b), tally) := (do
    let toks ← scoreTokens m env d
    let selEls := toks.zipIdx.flatMap fun e => (List.range 8).map fun j =>
      ([8 * e.2 + j], match e.1.1[j]? with | some x => natVal x | none => Val.fin (-1) 0)
    let gateEls := toks.zipIdx.flatMap fun e => (List.range 8).map fun j => ([8 * e.2 + j], e.1.2.getD j .zero)
    let a ← storeElems (imgOf env d 18) [] false none selEls
    let b ← storeElems (imgOf env d 20) [] false none gateEls
    return (toks, a, b) : NumM (List (List Nat × List Val) × Stored × Stored)) Tally.none
  let e := scE d
  let sel := fun (t : Nat) => ((toks[t]?).map Prod.fst).getD []
  let p0 := pairsOf e (scT d) sel 0
  let p1 := pairsOf e (scT d) sel 1
  let at_ := scStanding d
  let plan := memRds m at_ (64 + 16 * e)
  let ok := inMap at_ (64 + 16 * e) && planOk plan (BitVec.ofNat 16 (fld d 24 2)) e none
  let placed := if ok then assignHalf plan e p0 ++ assignHalf plan e p1 else []
  let count := fun (f : Placed → Bool) => toLE 4 (placed.filter f).length
  let bytes := toLE 4 0 ++ toLE 4 (fld d 40 4) ++ toLE 2 (fld d 24 2) ++ toLE 2 e ++ toLE 2 (scT d) ++ toLE 2 station ++
    toLE 4 p0.length ++ toLE 4 p1.length ++ toLE 4 (toks.filter fun x => x.1.isEmpty).length ++
    toLE 1 ((scCtx d).val + boolBit ok 2) ++ [0, 0, 0] ++ toLE 4 (if ok then fld plan 4 4 else 0) ++ List.replicate 28 0 ++
    ((List.range e).flatMap fun x => toLE 4 ((p0 ++ p1).filter fun p => p.1 = x).length) ++
    ((List.range 256).flatMap fun r => count fun p => p.station / 64 = r) ++
    ((List.range 64).flatMap fun s => count fun p => p.station / 64 = station / 64 && p.station % 64 = s)
  resultOf tally false 0 0 (unitsEff [a, b] ++ [.report (scCtx d) bytes])

/-- The report with its identifier and the time of its commit point (R250, R251). -/
def stampReport (bytes : List Byte) (id : W32) (time : Nat) : List Byte :=
  toLE 4 id.toNat ++ (bytes.take 40).drop 4 ++ toLE 8 time ++ bytes.drop 48

/-! ## ROUTE_APPLY: fields and checks (R255, R261, R265) -/

def apMode (d : List Byte) : Nat := fld d 16 1 % 4
def apCtx (d : List Byte) : Fin 4 := ⟨bitsOf (fld d 16 1) 3 2 % 4, by omega⟩
def apHalf (d : List Byte) : Fin 2 := ⟨bitsOf (fld d 16 1) 4 4 % 2, by omega⟩
def apStanding (d : List Byte) : Nat := fld d 32 5
def apTable (d : List Byte) : Nat := fld d 40 5
def apSlotRows (d : List Byte) : Nat := fld d 48 2 % 8192
def apG (d : List Byte) : Nat := fld d 50 2 % 2048
def apRoundList (d : List Byte) : Nat := fld d 24 5
def apRoundCount (d : List Byte) : Nat := fld d 29 3 % 2 ^ 21
def apCont (d : List Byte) : Nat := fld d 56 5

/-- The body's format (R99): CLOSE uses CTX alone. -/
def applyFmt (d : List Byte) : Chk :=
  let mode := apMode d
  let numbers := [badIf (apSlotRows d < 1 || 4096 < apSlotRows d) 48, reservedBad d [(49, 31)], badIf (apG d < 1 || 1024 < apG d) 50,
    reservedBad d [(51, 7)], reservedBad d (addr40 32), reservedBad d (addr40 40)]
  fmtChk ([badIf (mode = 3) 16, reservedBad d [(16, 31), (17, 0)]] ++
    (if mode = 0 then [badIf (bitAt (fld d 16 1) 4) 16] ++ ([18, 20, 22, 24, 26, 28, 30].map (handleBad d)) ++ numbers ++
      [reservedBad d (zeroBytes 52 64)]
    else if mode = 1 then ([18, 20, 22].map (handleBad d)) ++ numbers ++
      [badIf (apRoundCount d < 1 || 1048576 < apRoundCount d) 29, reservedBad d [(31, 31)], reservedBad d (addr40 56)]
    else []))

/-- The entries of an I32 list. -/
def intList (m : List Host.Cell) (t : List Byte) (n : Nat) : List Int := (List.range n).map (readInt m t)

/-- The exchange group's stations (R259). -/
def groupOf (m : List Host.Cell) (env : Env) (d : List Byte) : List Nat :=
  (intList m (imgOf env d 22) (iSize (imgOf env d 22) 0)).map fun x => x.toNat

/-- A context's selection as its SEL and GATE hold it. -/
def selAt (m : List Host.Cell) (env : Env) (d : List Byte) (experts t : Nat) : List Nat :=
  ((List.range 8).map fun j => readInt m (imgOf env d 18) (8 * t + j)).filterMap fun x => if inRange x experts then some x.toNat else none

def headerSize (d : List Byte) : Nat := up64 (64 + 2 * apSlotRows d)

/-- The routing header and expert numbers of member `i` (R259). -/
def hdrOf (m : List Host.Cell) (d : List Byte) (i : Nat) : List Byte := memRds m (apStanding d + i * headerSize d) (headerSize d)
def hdrRows (h : List Byte) : Nat := fld h 12 4
def hdrNeed (h : List Byte) : Nat := fld h 16 4
def hdrExperts (h : List Byte) : List Nat := (List.range (hdrRows h)).map fun j => fld h (64 + 2 * j) 2

/-- The checks of a DISPATCH (R259, R265). -/
def dispatchChk (ch : Chan) (env : Env) (station : Nat) (d : List Byte) : Chk :=
  let t := imgOf env d
  let x := ch.route.ctxs[(apCtx d).val]
  let grp := groupOf ch.mem env d
  let n := ((List.range x.tokens).map fun k => (selAt ch.mem env d x.experts k).length).sum
  firstChk [applyFmt d, opChk (!x.isOpen) 0x0A02, noHandle env d [18, 20, 22, 24, 26, 28, 30],
    opChk (!listOk (t 18) tI32 (8 * x.tokens) || !listOk (t 20) tFP32 (8 * x.tokens) || !listOk (t 22) tI32 0 ||
      !listOk (t 24) tI32 n || !listOk (t 26) tI32 n || !listOk (t 28) tI32 n || !listOk (t 30) tFP32 n) 0x0A03,
    opChk (iSize (t 22) 0 ≠ apG d || (grp.filter fun g => g = station).length ≠ 1) 0x0A05,
    aliasedChk env d [24, 26, 28, 30]]

/-- The checks of a COLLECT (R261, R265). -/
def collectChk (ch : Chan) (env : Env) (d : List Byte) : Chk :=
  let t := imgOf env d
  let x := ch.route.ctxs[(apCtx d).val]
  let hosted := intList ch.mem (t 18) (iSize (t 18) 0)
  let hs := (List.range (apG d)).map (hdrOf ch.mem d)
  let round := x.halves[(apHalf d).val].round
  firstChk [applyFmt d, opChk (!x.isOpen || !x.dispatched) 0x0A02, noHandle env d [18, 20, 22],
    opChk (!listOk (t 18) tI32 0 || !listOk (t 20) tI32 (iSize (t 18) 0 * apG d * apSlotRows d) ||
      !listOk (t 22) tI32 (iSize (t 18) 0)) 0x0A03,
    opChk (hs.any fun h => fld h 8 4 ≠ round || fld h 4 1 % 2 ≠ (apHalf d).val || fld h 6 2 ≠ x.layer.toNat ||
      apSlotRows d < hdrRows h) 0x0A06,
    opChk (hs.any fun h => (hdrExperts h).any fun e => !hosted.contains (e : Int)) 0x0A07,
    aliasedChk env d [20, 22]]

def applyChk (ch : Chan) (env : Env) (station : Nat) (d : List Byte) : Chk :=
  if apMode d = 0 then dispatchChk ch env station d else if apMode d = 1 then collectChk ch env d else applyFmt d

/-! ## Exchange tables (R359). Their layout is internal to the channel: this one is the model's (log 11). -/

/-- The first 256 bytes of a table and its entries, with its check over everything but the round cursors. -/
def sealTable (head : List Byte) (rest : List Byte) : List Byte :=
  let h := (head ++ List.replicate 252 0).take 252
  let blank := h.take 16 ++ List.replicate 8 0 ++ h.drop 24
  h ++ toLE 4 (crc32c (blank ++ rest)).toNat ++ rest

/-- A table's check holds, and it is of the kind asked for: 1 DISPATCH, 2 COLLECT. -/
def tableOk (t : List Byte) (kind : Nat) : Bool :=
  let blank := t.take 16 ++ List.replicate 8 0 ++ (t.take 252).drop 24
  fld t 0 1 = kind && fld t 252 4 = (crc32c (blank ++ t.drop 256)).toNat

def tbG (t : List Byte) : Nat := fld t 2 2
def tbSlotRows (t : List Byte) : Nat := fld t 4 2
def tbOwn (t : List Byte) : Nat := fld t 6 2
def tbNeed (t : List Byte) (h : Nat) : Nat := fld t (8 + 4 * h) 4
def tbCursor (t : List Byte) (h : Nat) : Nat := fld t (16 + 4 * h) 4
def tbBytes (t : List Byte) : Nat := fld t 44 4

/-- An entry: station, rows, first row, place of its expert numbers. -/
def tbEntry (t : List Byte) (k : Nat) : Nat × Nat × Nat × Nat :=
  let o := 256 + 16 * k
  (fld t o 2, fld t (o + 2) 2, fld t (o + 4) 4, fld t (o + 8) 4)

def entryBytes (station rows first expl : Nat) : List Byte := toLE 2 station ++ toLE 2 rows ++ toLE 4 first ++ toLE 4 expl ++ toLE 4 0

/-- The whole table at an address. -/
def readTable (m : List Host.Cell) (a : Nat) : List Byte :=
  if inMap a 256 then
    let head := memRds m a 256
    if inMap a (tbBytes head) then memRds m a (max 256 (tbBytes head)) else head
  else []

/-! ## DISPATCH (R255 to R258) -/

/-- The pairs in send-buffer order, with their half. -/
def sendOrder (group : List Nat) (l0 l1 : List Placed) : List (Nat × Placed) :=
  let key := fun (p : Placed) => p.round * 2 ^ 40 + (group.findIdx fun g => g = p.station) * 2 ^ 26 + p.expert * 2 ^ 14 + p.token
  let sort := fun (l : List Placed) => sortBy (fun a b => key a ≤ key b) l
  (sort l0).map (fun p => (0, p)) ++ (sort l1).map fun p => (1, p)

/-- The exchange table of a DISPATCH (R359). -/
def dispatchTable (group : List Nat) (own slotRows layer : Nat) (station : Nat) (reportId : W32) (n0 n1 : Nat)
    (order : List (Nat × Placed)) : List Byte :=
  let cells := (List.range (n0 + n1)).flatMap fun r => group.map fun g => (if r < n0 then (0, r, g) else (1, r - n0, g))
  let step := fun (a : List Byte × Nat) (c : Nat × Nat × Nat) =>
    let rows := (order.filter fun p => p.1 = c.1 && p.2.round = c.2.1 && p.2.station = c.2.2).length
    (a.1 ++ entryBytes c.2.2 rows a.2 (2 * a.2), a.2 + rows)
  let entries := (cells.foldl step ([], 0)).1
  let rest := entries ++ order.flatMap fun p => toLE 2 p.2.expert
  sealTable (toLE 1 1 ++ toLE 1 0 ++ toLE 2 group.length ++ toLE 2 slotRows ++ toLE 2 own ++ toLE 4 n0 ++ toLE 4 n1 ++
    List.replicate 8 0 ++ toLE 2 layer ++ toLE 2 station ++ toLE 4 reportId.toNat ++ List.replicate 12 0 ++ toLE 4 (256 + rest.length)) rest

/-- What a DISPATCH writes with an adopted plan, and its two NEEDs (R257, R258). -/
def dispatchResult (m : List Host.Cell) (env : Env) (x : RouteCtx) (station : Nat) (d : List Byte) (plan : List Byte) :
    List Eff × Nat × Nat :=
  let group := groupOf m env d
  let sel := selAt m env d x.experts
  let l0 := assignHalf plan x.experts (pairsOf x.experts x.tokens sel 0)
  let l1 := assignHalf plan x.experts (pairsOf x.experts x.tokens sel 1)
  let order := sendOrder group l0 l1
  let disp := order.map fun p => natVal (x.token0 + p.2.token)
  -- combine order: half, token, expert
  let place := fun (p : Nat × Placed) => p.1 * 2 ^ 40 + p.2.token * 2 ^ 14 + p.2.expert
  let comb := sortBy (fun a b => place a.1 ≤ place b.1) order.zipIdx
  let gate := fun (p : Placed) =>
    let j := ((List.range 8).find? fun j => readInt m (imgOf env d 18) (8 * p.token + j) = p.expert).getD 0
    readElem m (imgOf env d 20) [8 * p.token + j]
  let els := fun (l : List Val) => l.zipIdx.map fun e => ([e.2], e.1)
  let (lists, _) := (do
    let a ← storeElems (imgOf env d 24) [] false none (els disp)
    let b ← storeElems (imgOf env d 26) [] false none (els (comb.map fun e => natVal e.2))
    let c ← storeElems (imgOf env d 28) [] false none (els (comb.map fun e => natVal e.1.2.token))
    let w ← storeElems (imgOf env d 30) [] false none (els (comb.map fun e => gate e.1.2))
    return [a, b, c, w] : NumM (List Stored)) Tally.none
  let n0 := needOf l0
  let n1 := needOf l1
  let table := dispatchTable group (group.findIdx fun g => g = station) (apSlotRows d) x.layer.toNat station x.reportId n0 n1 order
  (unitsEff lists ++ [.store (apTable d) table], n0, n1)

/-- A gate that is NaN is written as one: NAN_SEEN (R115). -/
def dispatchNan (m : List Host.Cell) (env : Env) (x : RouteCtx) (d : List Byte) : Bool :=
  (List.range x.tokens).any fun t => (List.range 8).any fun j =>
    inRange (readInt m (imgOf env d 18) (8 * t + j)) x.experts && (readElem m (imgOf env d 20) [8 * t + j]).isNan

/-! ## COLLECT (R260 to R262) -/

/-- The round count of a half, from the NEEDs of every member (R260). -/
def roundsOf (m : List Host.Cell) (d : List Byte) : Nat :=
  (List.range (apG d)).foldl (fun a i => max a (hdrNeed (hdrOf m d i))) 0

/-- The continuation descriptor (R262). -/
def continuation (d : List Byte) (more : Bool) : List Byte :=
  let head := fun (op : Nat) => toLE 1 op ++ [0] ++ toLE 2 (dStream d).val ++ toLE 4 0 ++ toLE 2 0 ++ toLE 2 0 ++ toLE 4 (fld d 52 4)
  if more then head 0x68 ++ toLE 8 (apRoundList d) ++ toLE 4 (apRoundCount d) ++ List.replicate 36 0
  else head 0x60 ++ List.replicate 48 0

/-- The exchange table of a COLLECT: the returns of the round (R261, R359). -/
def collectTable (m : List Host.Cell) (d : List Byte) (station round : Nat) : List Byte :=
  let hs := (List.range (apG d)).map (hdrOf m d)
  let own := (hs.findIdx? fun h => fld h 2 2 % 2 ^ 14 = station).getD 0
  let mine := hs.getD own []
  let rest := hs.zipIdx.flatMap fun h => entryBytes (fld h.1 2 2 % 2 ^ 14) (hdrRows h.1) (h.2 * apSlotRows d) 0
  sealTable (toLE 1 2 ++ toLE 1 (apHalf d).val ++ toLE 2 (apG d) ++ toLE 2 (apSlotRows d) ++ toLE 2 own ++ toLE 4 (hdrNeed mine) ++ toLE 4 0 ++
    List.replicate 8 0 ++ toLE 2 (fld mine 6 2) ++ toLE 2 station ++ toLE 4 (fld mine 20 4) ++ toLE 4 round ++ toLE 8 (apStanding d) ++
    toLE 4 (256 + rest.length)) rest

/-- What a COLLECT writes (R261, R262). -/
def collectResult (m : List Host.Cell) (env : Env) (d : List Byte) (station round rounds : Nat) : List Eff :=
  let t := imgOf env d
  let hosted := intList m (t 18) (iSize (t 18) 0)
  let span := apG d * apSlotRows d
  let rows := (List.range (apG d)).flatMap fun i => (hdrExperts (hdrOf m d i)).zipIdx.map fun e => ((e.1 : Int), i * apSlotRows d + e.2)
  let lists := hosted.map fun x => (rows.filter fun r => r.1 = x).map Prod.snd
  let idx := lists.zipIdx.flatMap fun l => (l.1 ++ List.replicate (span - l.1.length) span).zipIdx.map fun e => ([l.2 * span + e.2], natVal e.1)
  let (stored, _) := (do
    let a ← storeElems (t 20) [] false none idx
    let b ← storeElems (t 22) [] false none (listEls (lists.map List.length))
    return [a, b] : NumM (List Stored)) Tally.none
  unitsEff stored ++ [.store (apTable d) (collectTable m d station round), .store (apCont d) (continuation d (round + 1 < rounds))]

/-! ## Plans that arrive (R253, R254, R267) -/

def State.modCtx (s : State) (c : Fin 9) (x : Fin 4) (f : RouteCtx → RouteCtx) : State :=
  s.modRoute c fun r => { r with ctxs := r.ctxs.set x.val (f r.ctxs[x.val]) }

/-- The plan buffer holds a plan or part of one. -/
def planHeld (r : RouteS) : Bool := r.planDone || !r.planBuf.isEmpty

def emptyPlan (c : Fin 9) (s : State) : State := s.modRoute c fun r => { r with planBuf := [], planDone := false }

/-- A plan is discarded as stale: counted, and the cause set (R253). -/
def stalePlan (c : Fin 9) (s : State) : State :=
  cause (cpage c .route) 17 ((emptyPlan c s).bumpField (cpage c .route) 0x104 31 16 1)

/-- The context that a plan in the buffer answers: open, its deadline still running. -/
def planCtx (r : RouteS) : Option (Fin 4) :=
  (List.finRange 4).find? fun x =>
    let k := r.ctxs[x.val]
    k.isOpen && k.running && 4 ≤ r.planBuf.length && fld r.planBuf 0 4 = k.reportId.toNat

/-- A fragment of a plan (R253): refused BUSY (`false`), or handled and acknowledged (`true`). -/
def planFrame (c : Fin 9) (first : Bool) (off : Nat) (payload : List Byte) (s : State) : Bool × State :=
  let r := (s.chan c).route
  if r.planDone || (first && off = 0 && !r.planBuf.isEmpty) then (false, s)
  else if r.planBuf.isEmpty && !(first && off = 0) then (true, cause (cpage c .route) 18 s)
  else if off ≠ r.planBuf.length then (true, cause (cpage c .route) 18 (emptyPlan c s))
  else
    let s := s.modRoute c fun r => { r with planBuf := r.planBuf ++ payload }
    let buf := (s.chan c).route.planBuf
    if 16 ≤ buf.length && fld buf 12 4 ≤ buf.length then
      if (planCtx (s.chan c).route).isSome then (true, s.modRoute c fun r => { r with planDone := true })
      else (true, stalePlan c s)
    else (true, s)

/-- A context's deadline has run out: an incomplete plan for it is discarded as stale (R254). -/
def deadlinePassed (c : Fin 9) (x : Fin 4) (s : State) : State :=
  let r := (s.chan c).route
  if !(r.ctxs[x.val].isOpen && r.ctxs[x.val].running) then s
  else
    let s := if !r.planDone && planCtx r = some x then stalePlan c s else s
    s.modCtx c x fun k => { k with running := false }

/-- A whole on-time plan for a context stands in the buffer. -/
def onTimePlan (r : RouteS) (x : Fin 4) : Bool := r.planDone && fld r.planBuf 0 4 = r.ctxs[x.val].reportId.toNat

/-- A routing descriptor of a context. -/
def ofCtx (x : Fin 4) (f : Fly) : Bool := (f.unit = .score && scCtx f.desc = x) || (f.unit = .apply && apCtx f.desc = x)

/-- A context closes: a plan held for it is discarded, and the sections write nothing further for it (R253, R267). -/
def closeCtx (c : Fin 9) (x : Fin 4) (s : State) : State :=
  let r := (s.chan c).route
  let mine := r.ctxs[x.val].isOpen && 4 ≤ r.planBuf.length && fld r.planBuf 0 4 = r.ctxs[x.val].reportId.toNat
  let stop := fun (f : Fly) => if ofCtx x f && f.granted then { f with effs := f.effs.filter fun e => !e.writes } else f
  let s := s.modChan c fun ch => { ch with fly := ch.fly.map stop }
  (s.when mine (emptyPlan c)).modCtx c x fun _ => .closed

end Sys2Proof.Machine
end

