-- ==== Sys2Proof/Machine/Update.lean ====
section
/-! DEFINITION. The update engine (R270 to R280): the checks of an UPDATE, its step in binary64, its generator, stochastic rounding
and the storing of masters and moments. -/
namespace Sys2Proof.Machine

/-! ## Fields and checks (R270 to R272) -/

def uWord (d : List Byte) (off : Nat) : Val := val32 (w32 (fld d off 4))
def uDecoupled (d : List Byte) : Bool := fld d 48 1 % 4 = 0
def uTag (d : List Byte) : Nat := fld d 52 4
def uIndexBase (d : List Byte) : Nat := fld d 56 6

/-- A finite value, not negative if so asked, below one if so asked. -/
def inBand (nonNeg below1 : Bool) (v : Val) : Bool :=
  match v with
  | .fin m _ => (!nonNeg || decide (0 ≤ m)) && (!below1 || v.lt .one)
  | _ => false

/-- The body's format (R99, R195 and the body table). -/
def updateFmt (d : List Byte) : Chk :=
  let band := fun (off : Nat) (n b : Bool) => badIf (!inBand n b (uWord d off)) off
  fmtChk ([16, 18, 20, 22].map (handleBad d) ++
    [band 24 false false, band 28 true true, band 32 true true, band 36 true false, band 40 false false, band 44 false false,
     badIf (1 < fld d 48 1 % 4) 48, reservedBad d ((48, 3) :: zeroBytes 49 52 ++ zeroBytes 62 64)])

/-- A moment's format: E4M3, blocks of 32 along dimension 0, derived scales. -/
def momentBad (t : List Byte) : Bool := iType t ≠ tE4M3 || iScaleCode t ≠ 2 || iScaleDim t ≠ 0 || iScaleSrc t ≠ 0

/-- The checks at issue (R272). -/
def updateChk (env : Env) (d : List Byte) : Chk :=
  let t := imgOf env d
  let differs := fun (x : List Byte) => iRank x ≠ iRank (t 16) || iSizes x ≠ iSizes (t 16)
  firstChk [updateFmt d, noHandle env d [16, 18, 20, 22],
    opChk (iType (t 16) ≠ tSPLIT && iType (t 16) ≠ tBF16) 0x0B01,
    opChk (momentBad (t 20) || momentBad (t 22)) 0x0B02,
    opChk (differs (t 18) || differs (t 20) || differs (t 22)) 0x0B03,
    opChk (isInt (iType (t 18))) 0x0501,
    opChk ([16, 20, 22].any fun o => ((entryOf env d o).map TensorEntry.aliased).getD false) 0x0809]

/-! ## The generator (R277) -/

def mix (z : W64) : W64 :=
  let a := (z ^^^ (z >>> 30)) * 0xBF58476D1CE4E5B9
  let b := (a ^^^ (a >>> 27)) * 0x94D049BB133111EB
  b ^^^ (b >>> 31)

def rng (seed step tag n : W64) : W64 :=
  mix (mix (mix (seed + 0x9E3779B97F4A7C15 * (step + 1)) ^^^ tag) ^^^ n)

/-! ## Stochastic rounding (R276, R280) -/

/-- A magnitude rounded by `n` random bits, as a code: up when the bits below the grid and the random bits carry. -/
def Fmt.stoch (f : Fmt) (n : Nat) (rand : Nat) (m : Nat) (e : Int) : Nat :=
  let (c, below) := f.trunc n m e
  if 2 ^ n ≤ below + rand then c + 1 else c

/-- The code of a value that is not NaN, rounded to a format and saturated at its largest magnitude (R276). -/
def roundCode (f : Fmt) (nearest : Bool) (n rand : Nat) : Val → NumM Nat
  | .fin m e =>
    if nearest then f.sat m e
    else if (f.value false f.top).lt (.fin m.natAbs e) then do noteSat; return f.top
    else return f.stoch n rand m.natAbs e
  | _ => do noteSat; return f.top

/-! ## One element (R273) -/

/-- An element of the update: the new master and moments, the random bits, whether the gradient was not finite. -/
structure Stepped where
  w : Val
  m : Val
  q : Val
  u : Nat
  bad : Bool
  deriving DecidableEq, Repr

/-- The FP32 master of a SPLIT32 tensor (R128), or the BF16 one. -/
def readMaster (mem : List Host.Cell) (t : List Byte) (idx : List Nat) : Val :=
  if iType t = tSPLIT then
    decodeElem tFP32 (memBits mem (elemBitAt t (iBase t) idx) 16 * 65536 + memBits mem (elemBitAt t (iAux t) idx) 16)
  else readElem mem t idx

def finiteVal : Val → Bool
  | .fin _ _ => true
  | _ => false

/-- The step of R273 for element `i` at an index. -/
def stepElem (mem : List Host.Cell) (env : Env) (d : List Byte) (i : Nat) (idx : List Nat) : Stepped :=
  let t := imgOf env d
  let lr := uWord d 24
  let beta1 := uWord d 28
  let beta2 := uWord d 32
  let eps := uWord d 36
  let wd := uWord d 40
  let n := (uIndexBase d + i) % 2 ^ 48
  let u := if env.nearest then 0 else (rng env.seed env.step (BitVec.ofNat 64 (uTag d)) (BitVec.ofNat 64 n)).toNat
  let g0 := mul64 (readElem mem (t 18) idx) (uWord d 44)
  let g1 := if finiteVal g0 then g0 else .zero
  let w := readMaster mem (t 16) idx
  let m := readElem mem (t 20) idx
  let q := readElem mem (t 22) idx
  let g := if uDecoupled d then g1 else add64 g1 (mul64 wd w)
  let m' := add64 (mul64 beta1 m) (mul64 (sub64 .one beta1) g)
  let s2 := add64 (mul64 beta2 (mul64 q q)) (mul64 (sub64 .one beta2) (mul64 g g))
  let q' := sqrt64 s2
  let den := add64 q' eps
  let r := if den.isZero then .zero else div64 m' den
  let w' := if uDecoupled d then sub64 w (mul64 lr (add64 r (mul64 wd w))) else sub64 w (mul64 lr r)
  ⟨w', m', q', u, !finiteVal g0⟩

/-! ## Storing -/

/-- A master's bits (R129, R276): FP32 in two halves, or BF16. -/
def masterPuts (t : List Byte) (nearest : Bool) (idx : List Nat) (x : Stepped) : NumM (List BitPut) := do
  let ty := if iType t = tSPLIT then tFP32 else tBF16
  let bits ← match x.w with
    | .nan => do noteNan; pure (nanBits ty)
    | v => do
      let c ← roundCode (typeFmt ty) nearest 32 (x.u % 2 ^ 32) v
      pure (codeBits ty v.isNeg c)
  return if iType t = tSPLIT then
      [(elemBitAt t (iBase t) idx, 16, bits / 65536), (elemBitAt t (iAux t) idx, 16, bits % 65536)]
    else [(elemBitAt t (iBase t) idx, 16, bits)]

/-- A block of a moment tensor (R280): its scale from emax 7, its elements rounded with 16 random bits each. -/
def momentPuts (t : List Byte) (nearest : Bool) (els : List (List Nat × Val × Nat)) : NumM (List BitPut) := do
  let scaleByte := fun (n : Nat) => (els.take 1).map fun e => (scaleAt t e.1 * 8, 8, n)
  if els.any fun e => !finiteVal e.2.1 then
    noteNan
    return (els.map fun e => (elemBitAt t (iBase t) e.1, 8, 0)) ++ scaleByte 255
  else
    let x := derivedExp 7 (amaxOf (els.map fun e => e.2.1))
    let l ← els.mapM fun e => do
      let v := e.2.1.scale (-x)
      return (elemBitAt t (iBase t) e.1, 8, codeBits tE4M3 v.isNeg (← roundCode e4m3 nearest 16 e.2.2 v))
    return l ++ scaleByte (x + 127).toNat

/-- Every element of the master with its linear index, in blocks of up to 32 along dimension 0. -/
def updateBlocks (t : List Byte) : List (List (Nat × List Nat)) :=
  let all := (allIdx (iSizes t)).zipIdx.map fun e => (e.2, e.1)
  (chunksOf (iSize t 0) (all.length) all).flatMap fun row => chunksOf 32 (row.length) row

/-- What an UPDATE does, block by block; DETAIL counts the gradients that were not finite (R275, R279). -/
def updateResult (mem : List Host.Cell) (env : Env) (d : List Byte) : Result :=
  let t := imgOf env d
  let run : NumM (List (Eff × Nat)) := (updateBlocks (t 16)).mapM fun (b : List (Nat × List Nat)) => do
    let els := b.map fun e => (e.2, stepElem mem env d e.1 e.2)
    let w ← els.mapM fun e => masterPuts (t 16) env.nearest e.1 e.2
    let m ← momentPuts (t 20) env.nearest (els.map fun e => (e.1, e.2.m, e.2.u / 2 ^ 32 % 2 ^ 16))
    let q ← momentPuts (t 22) env.nearest (els.map fun e => (e.1, e.2.q, e.2.u / 2 ^ 48))
    return (Eff.block ([w.flatten, m, q].flatMap fun l => (unitsOf (packBits l)).flatten), (els.filter fun e => e.2.bad).length)
  let (out, tally) := run Tally.none
  let bad := (out.map Prod.snd).sum
  resultOf tally false 0 (min bad 0xFFFFFFFF) (out.map Prod.fst ++ (if bad = 0 then [] else [.gradBad]))

end Sys2Proof.Machine
end

