-- ==== Sys2Proof/Machine/Begin.lean ====
section
/-! DEFINITION. Units at work (R106, R108, R117, R172 to R176, R187 to R191): when a descriptor starts feeding, what it computes, the
commit and completion of the descriptors whose effects are computed beforehand. -/
namespace Sys2Proof.Machine

/-! ## What a descriptor computes -/

/-- The array of a unit. -/
def unitArr : UnitId → Option (Fin 2)
  | .arrayA => some 0
  | .arrayB => some 1
  | _ => none

/-- The set held by an effect list. -/
def heldOf (effs : List Eff) : Option HeldSet :=
  effs.findSome? fun e => match e with
    | .held _ m n vals => some ⟨m, n, vals⟩
    | _ => none

/-- The set that a pass due to feed follows (R176): the one its nearest predecessor still in flight leaves, else the array's. -/
def heldFor (s : State) (c : Fin 9) (a : Fin 2) (no : Nat) : Option HeldSet :=
  let x := (s.chan c).arrays[a.val]
  match ((s.chan c).fly.filter fun f => f.unit = arrUnit a && f.begun && f.no < no).getLast? with
  | some f => if f.committed then x.heldSet else if x.dropped = some f.no then none else heldOf f.effs
  | none => x.heldSet

/-- The held-set rule of R176 is broken. -/
def accBad (d : List Byte) (held : Option HeldSet) : Bool :=
  match held with
  | some h => !(isContinue d && h.m = mM d && h.n = mN d)
  | none => isContinue d

/-- A pass's operands as they enter: from memory, or from the operand store (R178). -/
def passSources (s : State) (c : Fin 9) (a : Fin 2) (f : Fly) : Source × Source :=
  let m := (s.chan c).mem
  let o := (s.chan c).arrays[a.val].operands
  (sourceOf m (imgOf f.env f.desc 16) (reusedA o f.desc), sourceOf m (imgOf f.env f.desc 18) (reusedB o f.desc))

/-- The outcome of a descriptor whose unit computes it from memory: an error ends it at the start of its feed. -/
def computeFly (s : State) (c : Fin 9) (f : Fly) : Except (H16 × Nat) Result :=
  let m := (s.chan c).mem
  let d := f.desc
  match dOpcode d with
  | 0x01 => createResult (s.chan c) d
  | 0x02 => .ok (copyResult m f.env d)
  | 0x10 =>
    match unitArr f.unit with
    | some a =>
      let held := heldFor s c a f.no
      let (srcA, srcB) := passSources s c a f
      if accBad d held then .error (stOperand, 0x0703) else .ok (passResult m srcA srcB f.env d a held)
    | none => .ok ⟨[], 0, 0⟩
  | 0x11 => .ok (vectorResult m f.env d)
  | 0x20 => .ok (gatherResult m f.env d)
  | 0x21 => .ok (mergeResult m f.env d)
  | 0x22 => .ok (compactResult m f.env d)
  | 0x23 => .ok (binResult m f.env d)
  | 0x30 => .ok (scoreResult m f.env (ownStation s c) d)
  | 0x48 => .ok (updateResult m f.env d)
  | _ => .ok ⟨[], 0, 0⟩

/-! ## What it reads (R107, R208, R323, R324) -/

/-- Reads of one requester: the largest transaction it makes, and the ranges. -/
structure Reads where
  q : Requester
  unit : Nat
  spans : List Span

/-- An operand in plain layout is read in units of 64 bytes, one in blocks in the largest transactions (R208, R324). -/
def readUnit (t : List Byte) : Nat := if iBlocked t then maxTransaction else 64

/-- What a pass reads: the operands that it does not reuse, A by the sparse operand path if the pass is sparse, and C. -/
def passReads (s : State) (c : Fin 9) (a : Fin 2) (f : Fly) : List Reads :=
  let d := f.desc
  let q := readReq c f.unit f.no
  let o := (s.chan c).arrays[a.val].operands
  let (ta, tb, tc) := (imgOf f.env d 16, imgOf f.env d 18, imgOf f.env d 20)
  (if (reusedA o d).isSome then [] else [⟨if mSparse d then sparseReq c f.no else q, readUnit ta, aSpans ta d⟩]) ++
    (if (reusedB o d).isSome then [] else [⟨q, readUnit tb, bSpans tb d⟩]) ++
    (if isLoad d then [⟨q, readUnit tc, elemSpans tc ((List.range (mM d)).flatMap fun i => (List.range (mN d)).map (outIdx d i))⟩] else [])

/-- The master of an UPDATE: of a SPLIT32 tensor both halves. -/
def masterSpans (t : List Byte) : List Span :=
  tensorSpans t ++ if iType t = tSPLIT then joinSpans ((allIdx (iSizes t)).map fun i => elemBitAt t (iAux t) i / 512) else []

/-- Everything that a descriptor reads when it feeds, the history records it copied with it. -/
def flyReads (s : State) (c : Fin 9) (f : Fly) : List Reads :=
  let d := f.desc
  let q := readReq c f.unit f.no
  let t := imgOf f.env d
  let whole := fun (l : List Span) => if l.isEmpty then [] else [(⟨q, maxTransaction, l⟩ : Reads)]
  whole (f.env.hist.map fun e => (e.1, 128)) ++
    match dOpcode d with
    | 0x01 => whole (if cInvalidate d || !inMap (fld d 24 5) 128 then [] else [(fld d 24 5, 128)])
    | 0x02 => whole (tensorSpans (t 16))
    | 0x10 => match unitArr f.unit with
      | some a => passReads s c a f
      | none => []
    | 0x11 => whole ((vSrcOffs d).flatMap fun o => tensorSpans (t o))
    | 0x20 | 0x21 | 0x22 | 0x23 => whole (gxSpans (s.chan c).mem f.env d)
    | 0x30 => whole (((List.range (scT d)).flatMap fun i => rowSpans (t 16) (scToken0 d + i)) ++ [(scStanding d, 64 + 16 * scE d)])
    | 0x48 => whole (masterSpans (t 16) ++ [18, 20, 22].flatMap fun o => tensorSpans (t o))
    | _ => []

/-- Reads performed, each through its port. -/
def doReads (c : Fin 9) (l : List Reads) (s : State) : State := s.each l fun r s => readSpans c r.q r.unit r.spans s

/-- Some read completes RESET (R317). -/
def readsBlocked (s : State) (c : Fin 9) (l : List Reads) : Bool := l.any fun r => accessBlocked s c false r.spans

/-- A pass takes its array: the accumulator sets take turns (R172), and the operand store holds its operands (R178). -/
def takeArray (c : Fin 9) (a : Fin 2) (f : Fly) (s : State) : State :=
  let (srcA, srcB) := passSources s c a f
  s.modArray c a fun x => { x with parity := if isContinue f.desc then x.parity else !x.parity, ramp := .full,
                                   operands := some (operandsOf f.desc srcA srcB) }

/-- A descriptor starts feeding (R106, R172, R176): it reads its operands. One whose reads meet a fenced stack completes RESET (R317). -/
def beginFly (c : Fin 9) (f : Fly) (s : State) : State :=
  let l := flyReads s c f
  if readsBlocked s c l then sweep (endFly c f stReset 0 0 s)
  else match computeFly s c f with
  | .error (st, detail) => endFly c f st 0 (w32 detail) (doReads c l s)
  | .ok r =>
    let s' := (doReads c l s).modFly c f.no fun g => { g with begun := true, effs := r.effs, flags := r.flags, detail := w32 r.detail }
    match unitArr f.unit with
    | some a => takeArray c a f s'
    | none => s'

/-! ## Feeding (R106, R108, R189, R191, R288, R296) -/

/-- The accumulator set that a pass will use is not yet free, or the drain buffer's two tiles are taken (R172): the pass that used the
set last has not made its last accumulation. -/
def setBusy (c : Fin 9) (f : Fly) (s : State) : Bool :=
  let before := (s.chan c).fly.filter fun g => g.unit = f.unit && g.begun && g.no < f.no
  let turns := fun (g : Fly) => (before.filter fun h => g.no < h.no && !isContinue h.desc).length
  (!isContinue f.desc && before.any fun g => !g.committed && turns g % 2 = 1) || 2 < (before.filter fun g => g.committed && !g.done).length

/-- Closure work that is to be presented before the next pass (R288). -/
def closureFirst (s : State) (c : Fin 9) (a : Fin 2) : Bool := (s.chan c).arrays[a.val].closure.any Closure.presented

/-- What the feeding descriptor of a unit still needs before it begins: nothing, or the state in which it waits. Only an array keeps a
descriptor waiting: for its accumulator set, for closure work that comes first, for its ramp, and under PARK. -/
def mayBegin (c : Fin 9) (f : Fly) (s : State) : Option State :=
  match unitArr f.unit with
  | some a =>
    let r := (s.chan c).arrays[a.val].ramp
    if parkSet s c || setBusy c f s || closureFirst s c a then some s
    else if rampMode s c a = 2 || r = .full then none
    else if r = .rampUp then some s
    else some (rampUp c a s)
  | none => none

/-- One descriptor after the other takes the feed of a unit, or of units that share its engines, and begins as soon as it may; one that ends
at once makes way for the next. -/
def runUnit (c : Fin 9) (u : UnitId) : Nat → State → State
  | 0, s => s
  | n + 1, s =>
    match (s.chan c).fly.find? fun f => overlaps u f.unit && f.phase = .staged && mayFeed s c f with
    | some f => runUnit c u n (s.modFly c f.no fun g => { g with phase := .feeding })
    | none =>
      match (s.chan c).fly.find? fun f => overlaps u f.unit && f.phase = .feeding && !f.begun with
      | some f =>
        match mayBegin c f s with
        | some s' => s'
        | none => runUnit c u n (beginFly c f s)
      | none => s

/-- A unit's descriptors go on as far as they can. -/
def goOn (c : Fin 9) (u : UnitId) (s : State) : State := runUnit c u (2 * (s.chan c).fly.length + 1) s

/-- An issued descriptor enters its unit, and begins if the unit is free. A pass with none ahead of it finds no operands to reuse (R178). -/
def enter (c : Fin 9) (f : Fly) (s : State) : State :=
  let s := match unitArr f.unit with
    | some a => if mayFeed s c f then s.modArray c a fun x => { x with operands := none } else s
    | none => s
  settle c (goOn c f.unit (enterUnit c f s))

/-- Every transfer of a descriptor's reads has ended (R106, R333). -/
def readsEnd (c : Fin 9) (f : Fly) (s : State) : State :=
  let s := drainPort c (unitPort f.unit) s
  deliverReplies c (s.when (isSparse f.desc) (drainPort c 4))

/-- The feeding descriptor's last operands have entered: it leaves the slot, and a staged one starts feeding (R106). An array with no pass to
present has a gap (R189). -/
def feedEnd (c : Fin 9) (u : UnitId) (s : State) : State :=
  match (s.chan c).fly.find? fun f => f.unit = u && f.phase = .feeding && f.begun with
  | some f =>
    let s := s.each f.effs fun e s => match e with
      | .busy a n => countBusy c a n s
      | _ => s
    let s := (readsEnd c f s).modFly c f.no fun g => { g with phase := .fed }
    let s := goOn c u s
    match unitArr u with
    | some a => if presenting s c a then s else openGap c a s
    | none => s
  | none => goOn c u s

/-! ## Commit (R117) -/

/-- The oldest descriptor of a unit that meets a test. -/
def oldest (s : State) (c : Fin 9) (u : UnitId) (p : Fly → Bool) : Option Fly :=
  (s.chan c).fly.find? fun f => f.unit = u && p f

/-- A history record takes a descriptor's amax (R283). -/
def noteAmax (c : Fin 9) (q : Requester) (step : W64) (addr : Nat) (amax : W32) (s : State) : State :=
  lockedUpdate c q addr (fun r => histUpdate r amax step) 128 s

/-- An eligible pass is counted, and sampled if its turn has come (R285). -/
def sampleDue (c : Fin 9) (f : Fly) (a : Fin 2) (narrow : List W32) (rmax : List Int) (s : State) : State :=
  let rate := bitsOf f.env.closureRate.toNat 4 0
  let n := (s.chan c).eligible + 1
  let ar := (s.chan c).arrays[a.val]
  let s := s.modChan c fun ch => { ch with eligible := n }
  if rate = 0 || !(n % 2 ^ rate = 0 || ar.owed) then s
  else if ar.closure.isSome then s.modArray c a fun x => { x with owed := true }
  else
    let now := bitsOf f.env.closureRate.toNat 31 20 = 0
    s.modArray c a fun x => { x with owed := false, closure := some ⟨f.no, narrow, rmax, now, false, 0⟩ }

/-- What happens at the commit of a descriptor itself: tables change, sets are held, passes are counted (R117, R176, R193, R285). -/
def commitEff (c : Fin 9) (f : Fly) (e : Eff) (s : State) : State :=
  match e with
  | .tensor h img al =>
    s.modChan c fun ch => { ch with tensors := spSet (fun _ => none) ch.tensors h (img.map fun t => ⟨t, al⟩) }
  | .pass a =>
    let p := arrPage c a
    let lo := s.reg p 0x100
    let s := (s.setReg p 0x100 (lo + 1)).setReg p 0x104 (s.reg p 0x104 + (if lo = 0xFFFFFFFF then 1 else 0))
    s.modArray c a fun x => { x with heldSet := if x.dropped = some f.no then none else heldOf f.effs }
  | .eligible a narrow rmax => sampleDue c f a narrow rmax s
  | _ => s

/-- What the grant's arrival at the unit brings: its counts, and the history record of its first write (R160, R283). -/
def grantEff (c : Fin 9) (f : Fly) (e : Eff) (s : State) : State :=
  match e with
  | .scaleHistory addr amax => noteAmax c (writeReq c f.unit f.no) f.env.step addr amax s
  | e => countEff c e s

/-- The history records that a descriptor updates. -/
def histSpans (f : Fly) : List Span := f.effs.filterMap fun e => match e with | .scaleHistory a _ => some (a, 128) | _ => none

/-- The grant reaches the unit: its counts, and its history record. One whose record meets a fenced stack completes RESET (R317). -/
def grantFly (c : Fin 9) (f : Fly) (s : State) : State :=
  if accessBlocked s c false (histSpans f) then sweep (endFly c { f with committed := true } stReset 0 0 s)
  else (s.each f.effs (grantEff c f)).modFly c f.no fun g => { g with granted := true }

/-- A descriptor is committed: the grant goes to an array with its page's EPOCH (R160, R407), and reaches every other unit at once. -/
def commitFly (c : Fin 9) (f : Fly) (s : State) : State :=
  let s := (s.each f.effs (commitEff c f)).modFly c f.no fun g => { g with committed := true }
  match unitArr f.unit with
  | some a => s.modArray c a fun x => { x with grants := x.grants ++ [(s.epochOf (arrPage c a), f.no)] }
  | none => grantFly c f s

/-! ## Completion (R110) -/

/-- A descriptor completes: its bytes are written, every transfer of its writes has ended, its outcome is recorded, and its unit moves on.
One whose writes meet a fenced stack completes RESET (R317). -/
def completeFly (c : Fin 9) (f : Fly) (s : State) : State :=
  let s := s.when (f.phase = .feeding) (feedEnd c f.unit)
  let q := writeReq c f.unit f.no
  if !f.done && accessBlocked s c true (f.effs.flatMap Eff.spans) then settle c (goOn c f.unit (sweep (endFly c f stReset 0 0 s)))
  else
    let s := s.when (!f.done) fun s => deliverReplies c (drainPort c q.port (s.each f.effs (storeEff c q)))
    settle c (goOn c f.unit (endFly c f stCompleted (drainFlags f.effs) f.detail s))

/-- A pass under closure work has done its own work: its tile is stored, and it waits for the comparison (R287). -/
def finishWork (c : Fin 9) (f : Fly) (s : State) : State :=
  let q := writeReq c f.unit f.no
  (deliverReplies c (drainPort c q.port (s.each f.effs (storeEff c q)))).modFly c f.no fun g => { g with done := true }

/-- Closure work is pending for a pass. -/
def underClosure (s : State) (c : Fin 9) (f : Fly) : Bool :=
  match unitArr f.unit with
  | some a => ((s.chan c).arrays[a.val].closure.map fun k => decide (k.no = f.no)).getD false
  | none => false

end Sys2Proof.Machine
end

