-- ==== Sys2Proof/Machine/Book.lean ====
section
/-! DEFINITION. The field book's epoch record (R429, R430), the reading of the field book (R434, R440) and of the cairn (R437). -/
namespace Sys2Proof.Machine

/-! ## Gauges -/

/-- The 200 gauges in record order (R429, R430): quantity, channel (15 for global), instance. -/
def gaugeKeys : List (Nat × Nat × Nat) :=
  let per (q n : Nat) : List (Nat × Nat × Nat) := (List.range 9).flatMap fun c => (List.range n).map fun i => (q, c, i)
  let glob (q : Nat) (l : List Nat) : List (Nat × Nat × Nat) := l.map fun i => (q, 15, i)
  per 1 4 ++ glob 1 [0, 1, 2, 3] ++ per 2 2 ++ per 3 4 ++ glob 3 [0, 2, 3] ++ per 4 4 ++ glob 4 [0, 2, 3] ++ per 5 1 ++ per 6 6 ++
    glob 7 [0]

/-- Order of two FP32 values by their bits: sign and magnitude. -/
def fpLt (a b : W32) : Bool :=
  let key := fun (x : W32) => if x.getLsbD 31 then (2 ^ 31 : Int) - x.toNat else x.toNat
  key a < key b

/-- One sample taken into a gauge of the open epoch (R430); it is also the latest sample that TELEM returns (R485). -/
def addSample (g : GaugeSample) (s : State) : State :=
  if !gaugeKeys.contains (g.quantity.toNat, g.chan.toNat, g.inst.toNat) then s
  else
    let same := fun (x : Gauge) => x.quantity = g.quantity && x.chan = g.chan && x.inst = g.inst
    let fresh : Gauge := ⟨g.quantity, g.chan, g.inst, 0, 0, 0, 0, List.replicate 32 0⟩
    let old := (s.book.gauges.find? same).getD fresh
    let new : Gauge :=
      { old with
        count := old.count + 1
        least := if old.count = 0 || fpLt g.value old.least then g.value else old.least
        greatest := if old.count = 0 || fpLt old.greatest g.value then g.value else old.greatest
        latest := g.value
        bins := old.bins.set g.bin.val (w32 (satAdd 0xFFFFFFFF (old.bins.getD g.bin.val 0).toNat 1)) }
    s.modBook fun b => { b with gauges := (b.gauges.filter fun x => !same x) ++ [new] }

/-- A gauge's 144 bytes (R429). -/
def gaugeBytes (b : BookS) (k : Nat × Nat × Nat) : List Byte :=
  let (q, c, i) := k
  let hdr : List Byte := [BitVec.ofNat 8 q, BitVec.ofNat 8 c, BitVec.ofNat 8 i, 0]
  match b.gauges.find? fun x => x.quantity.toNat = q && x.chan.toNat = c && x.inst.toNat = i with
  | some g => hdr ++ toLE 4 g.count.toNat ++ toLE 4 g.least.toNat ++ toLE 4 g.greatest.toNat ++ g.bins.flatMap fun x => toLE 4 x.toNat
  | none => hdr ++ List.replicate 140 0

/-- Every page of the module in zone, block and instance order (R429). -/
def allPages : List Page := globalBlks.map gpage ++ hostBlks.map gpage ++ allChans.flatMap chanPages

/-- A page's counter of the epoch record, 16 bytes (R429). -/
def counterBytes (b : BookS) (p : Page) : List Byte :=
  let (t, l, st) := spGet (fun _ => (0, 0, 0)) b.counters p.key
  toLE 1 p.zone ++ toLE 1 p.inst.val ++ toLE 2 p.blk.num ++ toLE 4 t ++ toLE 4 l ++ toLE 4 st

/-- The epoch record, 32,768 bytes (R429). -/
def epochBytes (s : State) (epoch : Nat) (isPartial : Bool) : List Byte :=
  let body := toLE 2 1 ++ toLE 2 512 ++ toLE 4 s.pwr.opHours.toNat ++ toLE 4 s.pwr.powerCycles.toNat ++ toLE 4 epoch ++
    toLE 1 (boolBit isPartial 0) ++ [0] ++ toLE 2 200 ++ toLE 2 217 ++ toLE 2 9 ++ List.replicate 40 0 ++
    gaugeKeys.flatMap (gaugeBytes s.book) ++ allPages.flatMap (counterBytes s.book) ++
    s.book.totals.toList.flatMap (fun l => l.flatMap (toLE 4)) ++ List.replicate 140 0
  body ++ toLE 4 (crc32c body).toNat

/-- Writes the open epoch's record; a record that closes the epoch starts a new accumulation, a partial one ends this one's
(R429). -/
def writeEpoch (epoch : Nat) (isPartial : Bool) (s : State) : State :=
  let s := bookAppend (epochBytes s epoch isPartial) s
  s.modBook fun b =>
    { b with gauges := b.gauges.map fun g => { g with count := 0, least := 0, greatest := 0, bins := List.replicate 32 0 }
             counters := [], totals := .replicate 9 (List.replicate 8 0) }

/-! ## Reading -/

/-- A word of the field book; zero at or beyond 16 × USED (R440). -/
def bookWord (b : BookS) (w : Nat) : W32 := w32 (leNat (((b.records.flatten).drop (4 * w)).take 4))

/-- The 32 bytes of a cairn entry (R435). -/
def CairnE.bytes (e : CairnE) : List Byte :=
  toLE 8 e.time ++ toLE 2 e.code.toNat ++ [e.kind, e.flags] ++ toLE 2 e.block.toNat ++ [e.zone, e.inst] ++ (e.detail ++ noDetail).take 16

/-- A ring with its header (R436, R437): the freeze fields of a ring that has not frozen read zero. -/
def ringBytes (i : Nat) (r : Ring) : List Byte :=
  let ents := r.entries.flatMap CairnE.bytes
  let hdr :=
    match r.frozen with
    | some (t, code, kind, hours, cycles) =>
      toLE 8 t ++ toLE 2 code.toNat ++ [kind, BitVec.ofNat 8 i] ++ toLE 4 hours.toNat ++ toLE 4 cycles.toNat ++
        toLE 2 r.entries.length ++ toLE 2 (min r.lost 0xFFFF) ++ toLE 4 0
    | none => List.replicate 11 0 ++ [BitVec.ofNat 8 i] ++ List.replicate 8 0 ++ toLE 2 r.entries.length ++ List.replicate 6 0
  let crc := match r.frozen with
    | some _ => (crc32c (hdr ++ ents)).toNat
    | none => 0
  hdr ++ toLE 4 crc ++ ents

/-- A word of a cairn source (R437): 0 to 9 live rings, 16 to 31 flash slots, anything else zero. -/
def cairnWord (s : State) (source w : Nat) : W32 :=
  let bytes :=
    if h : source < 10 then ringBytes source s.rings[source]
    else if 16 ≤ source then ((s.slots[source - 16]?).map fun t => ringBytes t.ring t.content).getD []
    else []
  w32 (leNat ((bytes.drop (4 * w)).take 4))

/-- A frozen ring is emptied and resumes recording (R441); a ring that is not frozen is left. -/
def releaseRing (i : Fin 10) (s : State) : State :=
  s.modRing i fun r => match r.frozen with | some _ => .empty | none => r

end Sys2Proof.Machine
end

