-- ==== Sys2Proof/Machine/Power.lean ====
section
/-! DEFINITION. Power states and their transitions (R442 to R456), boot (R463 to R470), and the takeover by the standby SX
(R466). The meanings of the power and boot events stand at the end. -/
namespace Sys2Proof.Machine

/-! ## States -/

/-- The code of `PWR.STATE.STATE` (R456). -/
def Power.code : Power → Nat
  | .active => 1 | .idle => 2 | .dormant => 3 | .standby => 4 | .unpowered => 0

def pwrPage : Page := gpage .pwr

/-- `PWR.STATE.STATE` changes: STATE_CHANGE is raised (R454). -/
def setPower (p : Power) (s : State) : State :=
  if s.pwr.power = p then s else event 0x020B 0 pwrPage 0 false (s.modPwr fun x => { x with power := p })

/-- The open epoch's number: epoch E covers operating hours 24E to 24E + 24 (R429). -/
def openEpoch (s : State) : Nat := s.pwr.opHours.toNat / 24

/-! ## Going down -/

/-- What the module loses with its power: channel state but what flash holds, the host port, the hub, device time's run; registers
are set up again at the next power-up. -/
def darken (s : State) : State :=
  let s := s.mapChans fun _ ch => { ch.kept with role := .off }
  let s := { s with hdrs := [], regs := [], loLatch := [], loHeld := [], icp := { IcpS.reset with linkUp := false }, hub := .reset,
                    rings := .replicate 10 .empty }
  let s := s.modSupv fun v => { v with switching := 0, feedTag := 0, claim := none, recovering := 0, surveyRunning := 0, freqWait := [],
                                       hmacRun := .replicate 6 false }
  let s := s.modSec fun x => { x with identOk := false, inForce := [], sxActive := false, standbyOk := false, rejected := 0, reports := 0 }
  s.modPwr fun x => { x with power := .standby, changing := false, idleWanted := false, coreRunning := false, sbResp := none }

/-- Orderly power-down to Standby (R446, R448): descriptors RESET and links sending DOWN, the out-queue discarded, the open epoch
written with PARTIAL. No ring freezes. -/
def orderlyDown (s : State) : State :=
  let s := abandonInstall s
  let s := s.each allChans fun c s => if s.powered c then powerDownChan c s else s
  let s := setPower .standby s
  let s := s.modIcp fun i => { i with outq := [], heldEvents := [] }
  darken (writeEpoch (openEpoch s) true s)

/-- Power-loss shutdown (R448): rails off, every non-empty ring frozen with the trip's event as its cause (R436), the open epoch
written with PARTIAL, a plat being written left incomplete. -/
def lossDown (code : Nat) (s : State) : State :=
  let s := s.each (List.finRange 10) fun r s =>
    if s.rings[r.val].entries.isEmpty then s else freezeRing r code 1 s
  let s := writeEpoch (openEpoch s) true s
  darken (abandonInstall s)

/-! ## Firmware (R463) -/

/-- The image a component loads from a slot. -/
def slotImg (s : State) (i : Fin 6) (b : Bool) : Container := if b then s.sec.slotB[i.val] else s.sec.slotA[i.val]

/-- An image is loadable: it passes R458, its key set not revoked and its SVN not below the component's counter (R461). -/
def loadable (s : State) (i : Fin 6) (b : Bool) : Bool :=
  let k := slotImg s i b
  passes s k && s.sec.rollback[i.val] ≤ k.svn

/-- A slot has failed its load and its one retry: lasting for the slot, SEC not fenced; the other slot is preferred and
SLOT_FALLBACK raised (R463). `inj`: by an injection. -/
def slotFallback (i : Fin 6) (inj : Bool) (s : State) : State :=
  let s := lastingEvent (gpage .sec) false inj noDetail s
  let s := s.modSec fun x => { x with preferred := x.preferred ^^^ BitVec.ofNat 6 (2 ^ i.val) }
  event 0x0301 2 (gpage .sec) 0 true (cause (gpage .sec) 17 s)

/-- Loads a component from its preferred slot, or from the other (R463): whether it has an image, and the state after. -/
def loadComp (i : Fin 6) (s : State) : Bool × State :=
  let pref := s.sec.preferred.getLsbD i.val
  let go := fun (b : Bool) (s : State) =>
    s.modSec fun x => { x with active := if b then x.active ||| BitVec.ofNat 6 (2 ^ i.val) else x.active &&& ~~~(BitVec.ofNat 6 (2 ^ i.val)) }
  if loadable s i pref then (true, go pref s)
  else
    let s := slotFallback i false s
    if loadable s i (!pref) then (true, go (!pref) s)
    else (false, event 0x0307 (if 2 ≤ i.val then 2 else 3) (gpage .sec) i.val true s)

/-! ## Records (R464) -/

/-- A die's rating-table target (R458), and the rating table in force. -/
def dieTarget : Die → Nat
  | .dx c => c.val | .gx c => 16 + c.val | .mx c => 32 + c.val | .px c => 48 + c.val
  | .hx => 15 | .hp => 31 | .sxA => 47 | .sxB => 63

def ratingOf (s : State) (d : Die) : Option Container :=
  s.sec.inForce.find? fun r => r.typ = 0x0104 && r.target.toNat = dieTarget d

/-- KMAX of a die's rating table: at most 15 (R426). -/
def kmaxOf (s : State) (d : Die) : BitVec 4 :=
  match ratingOf s d with
  | some r => Config.ratingKmax r.target r.gen
  | none => 0

/-- The die of a channel. -/
def chanDie (c : Fin 9) (d : Fin 4) : Die := if d = 0 then .dx c else if d = 1 then .gx c else if d = 2 then .mx c else .px c

/-- A die's rating table as it is applied (R426, R464): without one the die runs at offset 0 and entry 0, a new one resets its entry, and a die
whose datum is lost runs at its last offset (R425). -/
def applyTable (c : Fin 9) (d : Fin 4) (s : State) : State :=
  let gen := ((ratingOf s (chanDie c d)).map Container.gen).getD 0
  let k := kmaxOf s (chanDie c d)
  s.modChan c fun ch =>
    let b := ch.bench
    let anew := gen = 0 || gen ≠ b.tables[d.val]
    { ch with bench := { b with
        offset := if gen = 0 then b.offset.set d.val 0 else if b.bad.getLsbD d.val then b.offset.set d.val k else b.offset
        entryDx := if d = 0 && anew then 0 else b.entryDx
        entryGx := if d = 1 && anew then 0 else b.entryGx
        entryMx := if d = 2 && anew then 0 else b.entryMx
        tables := b.tables.set d.val gen } }

/-- The module dies of the benchmarks (R424). -/
def modDie (d : Fin 3) : Die := if d = 0 then .hx else if d = 1 then .sxA else .sxB

/-- The same for HX, SX A and SX B; HX alone has an entry, the hub's. -/
def applyModTable (d : Fin 3) (s : State) : State :=
  let gen := ((ratingOf s (modDie d)).map Container.gen).getD 0
  let k := kmaxOf s (modDie d)
  s.modSupv fun v =>
    let entry := if d = 0 && (gen = 0 || gen ≠ v.hubTable) then 0 else v.hubEntry
    { v with
      modOffset := if gen = 0 then v.modOffset.set d.val 0 else if v.modBad.getLsbD d.val then v.modOffset.set d.val k else v.modOffset
      hubEntry := entry, hubNow := entry, hubTable := if d = 0 then gen else v.hubTable }

/-- The rating tables are applied. -/
def applyTables (s : State) : State :=
  (s.each allChans fun c s => s.each (List.finRange 4) (applyTable c)).each (List.finRange 3) applyModTable

/-- Verifies the records once per power-up (R464): those in force, each failed copy counted in REJECTED, RECORD_REJECTED raised
where no copy passes. -/
def applyRecords (s : State) : State :=
  let bad := fun (k : Container) => k.typ ≠ 0 && !passes s k
  let n := (s.sec.records.map fun r => (if bad r.1 then 1 else 0) + (if bad r.2 then 1 else 0)).sum
  let s := s.modSec fun x => { x with inForce := x.records.filterMap (pickRecord s), rejected := satAdd 255 x.rejected n }
  let s := s.each (List.range n) fun _ => cause (gpage .sec) 18
  applyTables (s.each (s.sec.records.filter fun r => (pickRecord s r).isNone) fun _ => event 0x0305 2 (gpage .sec) 0 true)

/-- The identity record is in force (R470). -/
def State.identified (s : State) : Bool := s.sec.inForce.any fun r => r.typ = 0x0100

/-! ## Channels at power-up -/

/-- A rail of the list has lost three phases (R444): it is not powered again (R390). -/
def railsGone (s : State) (l : List Nat) : Bool := s.pwr.phasesLost.any fun r => l.contains r.1 && 3 ≤ r.2

/-- A rail of the channel has. -/
def railGone (s : State) (c : Fin 9) : Bool := railsGone s ((List.range 6).map fun i => 6 * c.val + i)

/-- The role a channel takes at power-up (R389, R392, R446): SERVING or FILLING for a plane the map names, SPARE otherwise. -/
def bootRole (s : State) (c : Fin 9) : Role :=
  if (s.planeOf c).isSome then (if (s.chan c).filling then .filling else .serving) else .spare

/-- Several images load in turn; whether every one did. -/
def loadComps : List (Fin 6) → State → Bool × State
  | [], s => (true, s)
  | i :: l, s =>
    let (a, s) := loadComp i s
    let (b, s) := loadComps l s
    (a && b, s)

/-- The channel steps of the power-up sequence (R446): the channel images load once, then each channel comes up, or reads FAILED
when an image or one of its rails is missing. -/
def bootChannels (s : State) : State :=
  let (ok, s) := loadComps [2, 3, 4, 5] s
  s.each allChans fun c s =>
    if ok && !railGone s c then powerUpChan c (bootRole s c) s
    else setRole c .failed true s

/-! ## The power-up sequence (R446) -/

/-- Releases the global and host-port pages at their reset values (R84). -/
def bootPages (s : State) : State :=
  s.each (globalBlks.map gpage ++ hostBlks.map gpage) fun p s => s.modHdr p fun h => { h with enable := true, fence := false, drained := false }

/-- The trips that Standby recorded raise their events and notes at the next start of the SX core (R451). -/
def reportTrips (s : State) : State :=
  let l := s.pwr.pendingNotes
  let s := s.modPwr fun x => { x with pendingNotes := [] }
  s.each l fun e => event e.1.toNat 3 pwrPage 0 true

/-- The plane map that matches the selectors' positions (R489). -/
def selectorMap (onSpare : BitVec 8) : W32 :=
  w32 ((List.range 8).foldl (fun m k => m + (if onSpare.getLsbD k then 8 else k) * 16 ^ k) 0)

/-- The power-up sequence: device time from zero (R401), POWER_CYCLES advanced (R449), the active SX chosen (R465), records
verified, identity keys (R468), the host port, then the channels unless the wake names Dormant. `identOk`: one of the two
readings of the identity root matched. -/
def powerUp (identOk : Bool) (s : State) : State :=
  let dormant := s.pwr.wakePending = some true
  let s := { s with refCycles := 0, hdrs := [], regs := [], loLatch := [], loHeld := [], icp := .reset, hub := .reset }
  let s := s.modPwr fun x =>
    { x with powerCycles := x.powerCycles + 1, coreRunning := true, wakePending := none, changing := true, idleWanted := false,
             inputMv := 0, inputMin := 0xFFFF, inputMa := 0, inputPeak := 0 }
  let s := s.modSec fun x => { x with result := x.result, installing := none, inForce := [], rejected := 0, reports := 0 }
  let (sxOk, s) := loadComp 0 s
  let aOk := sxOk && !s.sec.faultedA
  let bOk := sxOk && !s.sec.faultedB
  if !aOk && !bOk then
    s.modPwr fun x => { x with power := .standby, changing := false, alert := true, coreRunning := false }
  else
    let s := s.modSec fun x => { x with sxActive := !aOk, standbyOk := aOk && bOk, keySx := !aOk }
    let s := s.modSupv fun v =>
      { v with planeMap := selectorMap s.supv.onSpare, switching := 0, feedTag := 0, claim := none, recovering := 0,
               hmacRun := .replicate 6 true, hmacLost := .replicate 6 false, hmacOnce := .replicate 6 false }
    let s := bootPages s
    let s := reportTrips (applyRecords s)
    let s := if identOk && s.identified then s.modSec fun x => { x with identOk := true }
      else if !identOk then
        event 0x0306 2 (gpage .sec) 0 true (cause (gpage .sec) 19 (lastingEvent (gpage .sec) false false noDetail s))
      else s
    let (hxOk, s) := loadComp 1 s
    if !hxOk || railsGone s [54, 55] then orderlyDown s
    else
      let s := setPower .dormant s
      let s := if dormant then s else setPower .active (bootChannels s)
      s.modPwr fun x => { x with changing := false }

/-! ## Takeover (R466) -/

/-- The standby SX is lost for good: it is marked faulted (R444, R465). -/
def loseStandby (s : State) : State :=
  s.modSec fun x => { x with standbyOk := false, faultedA := x.faultedA || x.sxActive, faultedB := x.faultedB || !x.sxActive }

/-- The standby SX takes over: every global page's EPOCH advances, surveys stop (R428), an INSTALL and a report are abandoned
(R473), SX_TAKEOVER is raised; the former active SX is marked faulted unless the driver swapped. -/
def takeover (isSwap : Bool) (s : State) : State :=
  if !s.sec.standbyOk then s
  else
    let was := s.sec.sxActive
    let s := abandonInstall s
    let s := s.modSec fun x =>
      { x with sxActive := !was, keySx := !was, standbyOk := isSwap,
               faultedA := x.faultedA || (!isSwap && !was), faultedB := x.faultedB || (!isSwap && was) }
    let s := s.modIcp fun i => { i with attestReq := none }
    let s := s.each (globalBlks.map gpage) fun p s => s.modHdr p fun h => { h with epoch := h.epoch + 1 }
    let s := (s.each allChans stopSurvey).mapChans fun _ ch => { ch with surveyHold := false }
    event 0x0160 1 (gpage .supv) 0 true s

/-! ## Trips (R451) -/

/-- A comparator trips: recorded and ALERT_N asserted; in a powered state the event, its note and the power-loss shutdown; in
Standby they are kept for the next start of the SX core. -/
def trip (code : Nat) (mark : PwrS → PwrS) (s : State) : State :=
  let s := s.modPwr fun x => { mark x with tripSeen := true, alert := true }
  match s.pwr.power with
  | .unpowered => s
  | .standby => s.modPwr fun x => { x with pendingNotes := x.pendingNotes ++ [(BitVec.ofNat 16 code, 0)] }
  | _ =>
    let s := lossDown code (event code 3 pwrPage 0 true s)
    s.modPwr fun x => { x with wakePending := none }

/-- A wake from Standby is taken (R446, R447, R451): refused while a comparator other than undervoltage is tripped or the leak
latch is set. POWER_ON then runs the sequence. -/
def wake (src : BitVec 3) (dormant : Bool) (s : State) : State :=
  if s.pwr.power = .standby && !s.pwr.ov && !s.pwr.coolant && !s.pwr.leak then
    s.modPwr fun x => { x with wakePending := some dormant, wakeSrc := src, changing := true }
  else s

/-- A wake is allowed. -/
def wakeAllowed (s : State) : Bool := s.pwr.power = .standby && !s.pwr.changing && !s.pwr.ov && !s.pwr.coolant && !s.pwr.leak

/-! ## PWR.STATE_REQ (R446, R447) -/

/-- PARK has been set or cleared (R191, R194): an array that presents no pass ramps down; one that is released starts the pass that waited
with a ramp-up, or rises to full activity under HOLD. -/
def parkChanged (c : Fin 9) (on : Bool) (s : State) : State :=
  s.each [0, 1] fun a s => if on then (if presenting s c a then s else rampDown c a s) else holdUp c a (goOn c (arrUnit a) s)

/-- PARK set or cleared in a channel's `CPWR.RAMP_CTRL` by the supervisor (R191). -/
def setPark (c : Fin 9) (on : Bool) (s : State) : State :=
  if parkSet s c = on then s else parkChanged c on (s.setField (cpage c .cpwr) 0x104 0 0 (if on then 1 else 0))

/-- PARK as thermal parking and Idle leave it, after the supervisor has used it for a change of its own (R191, R446, R453). -/
def unPark (c : Fin 9) (s : State) : State := setPark c ((s.chan c).thermalPark || s.pwr.power = .idle) s

/-- An accepted Idle request takes effect: issue is held and PARK set on every powered channel (R446). -/
def beginIdle (s : State) : State :=
  (s.each allChans fun c s => if s.powered c then setPark c true s else s).modPwr fun x => { x with changing := true, idleWanted := false }

/-- An Idle request accepted during a plat pause takes effect when the pause has ended (R447). -/
def idleDue (s : State) : State := if s.pwr.idleWanted && !platPausing s then beginIdle s else s

/-- A request of PWR.STATE_REQ is accepted over a path (R447). -/
def stateReqOk (p : Path) (code : Nat) (s : State) : Bool :=
  1 ≤ code && code ≤ 4 && code ≠ s.pwr.power.code && !s.pwr.changing && !s.pwr.idleWanted &&
    (if s.on then code = 4 || p = .icp else p = .sideband && (code = 1 || code = 3) && wakeAllowed s)

/-- An accepted request is carried out (R446). -/
def stateReqGo (code : Nat) (s : State) : State :=
  if !s.on then wake 2 (code = 3) s
  else if code = 4 then orderlyDown s
  else if code = 3 then setPower .dormant (s.each allChans fun c s => if s.powered c then powerDownChan c s else s)
  else if code = 1 then
    if s.pwr.power = .idle then setPower .active (s.each allChans fun c s => if (s.chan c).thermalPark then s else setPark c false s)
    else setPower .active (bootChannels s)
  else if s.pwr.power = .active then
    if platPausing s then s.modPwr fun x => { x with idleWanted := true } else beginIdle s
  else setPower .idle ((bootChannels s).each allChans fun c s => if s.powered c then setPark c true s else s)

/-- PWR.STATE_REQ.REQ over a path. A refused request changes nothing but CFG_REFUSED (R447). -/
def stateReq (p : Path) (code : Nat) (s : State) : State :=
  if code = 0 then s else if stateReqOk p code s then stateReqGo code s else cfgRefused pwrPage s

/-- LEAK_CLEAR: the latch clears if the sense has released (R451). -/
def leakClear (released : Bool) (s : State) : State := s.modPwr fun x => { x with leak := x.leak && !released }

/-! ## Meanings: power events -/

/-- IDLE_REACHED (R446): after an Idle request, with no descriptor issued. -/
def execIdleReached (s : State) : Host.Outcome State Fault Refusal :=
  let s := idleDue s
  if s.pwr.power = .active && s.pwr.changing && (allChans.all fun c => (s.chan c).fly.isEmpty && !bitAt s.supv.surveyRunning.toNat c.val) then
    .next (setPower .idle (s.modPwr fun x => { x with changing := false }))
  else .next s

/-- WAKE_N (R484): held low for 10 ms, a wake request unless the leak latch is set. -/
def execWakeN (s : State) : Host.Outcome State Fault Refusal := .next (wake 1 false s)

/-- UV_TRIP (R451). -/
def execUvTrip (s : State) : Host.Outcome State Fault Refusal := .next (trip 0x0202 (fun x => { x with uv := true }) s)

/-- UV_RELEASE (R451): the comparator releases and wakes the module to Active. -/
def execUvRelease (s : State) : Host.Outcome State Fault Refusal :=
  if s.pwr.uv then .next (wake 3 false (s.modPwr fun x => { x with uv := false })) else .next s

/-- OV_TRIP (R451). -/
def execOvTrip (s : State) : Host.Outcome State Fault Refusal := .next (trip 0x0203 (fun x => { x with ov := true }) s)

/-- OV_RELEASE (R451): no wake. -/
def execOvRelease (s : State) : Host.Outcome State Fault Refusal := .next (s.modPwr fun x => { x with ov := false })

/-- COOLANT_TRIP (R451). -/
def execCoolantTrip (s : State) : Host.Outcome State Fault Refusal := .next (trip 0x0204 (fun x => { x with coolant := true }) s)

/-- COOLANT_RELEASE (R451): no wake. -/
def execCoolantRelease (s : State) : Host.Outcome State Fault Refusal := .next (s.modPwr fun x => { x with coolant := false })

/-- LEAK_TRIP (R451): the leak latch is set. -/
def execLeakTrip (s : State) : Host.Outcome State Fault Refusal := .next (trip 0x0205 (fun x => { x with leak := true }) s)

/-- INPUT_LOW (R454). -/
def execInputLow (s : State) : Host.Outcome State Fault Refusal :=
  if s.on then .next (event 0x0201 0 pwrPage 0 true s) else .next s

/-- COOLANT_WARN (R454). -/
def execCoolantWarn (s : State) : Host.Outcome State Fault Refusal :=
  if s.on then .next (event 0x020A 0 pwrPage 0 false s) else .next s

/-- A rail is lost (R444): a channel rail fails its channel; a VSX rail moves or removes an SX; VHX or VHP puts the module into
Standby. -/
def railLost (rail : Nat) (s : State) : State :=
  let sev := if rail < 54 || rail = 56 || rail = 57 then 2 else 3
  let s := event 0x0207 sev pwrPage rail true s
  if h : rail / 6 < 9 then
    let c : Fin 9 := ⟨rail / 6, h⟩
    if s.powered c then
      let s := fenceChannel c .failed true none s
      s.modChan c fun ch => { ch with answers := false, lasting := true }
    else s
  else if rail = 54 || rail = 55 then orderlyDown s
  else if (rail = 57) = s.sec.sxActive then
    if s.sec.standbyOk then takeover false s else s
  else loseStandby s

/-- PHASE_FAIL (R444): the phase is disconnected and recorded, a third failure on one rail loses the rail. -/
def execPhaseFail (rail : Fin 58) (s : State) : Host.Outcome State Fault Refusal :=
  if !s.on || railsGone s [rail.val] then .next s
  else
    let n := satAdd 3 (spGet (fun _ => 0) s.pwr.phasesLost rail.val) 1
    let s := s.modPwr fun x => { x with phasesLost := spSet (fun _ => 0) x.phasesLost rail.val n, lastRail := rail.val }
    let s := event 0x0206 0 pwrPage rail.val true (cause pwrPage 16 s)
    .next (s.when (n = 3) (railLost rail.val))

/-- THERMAL_PARK (R453): DX at 100 °C sets PARK for its channel, cleared at 95 °C. -/
def execThermalPark (c : Fin 9) (hot : Bool) (s : State) : Host.Outcome State Fault Refusal :=
  if !s.powered c || (s.chan c).thermalPark = hot then .next s
  else
    let s := s.modChan c fun ch => { ch with thermalPark := hot }
    let s := setPark c (hot || s.pwr.power = .idle) s
    .next (event 0x0208 0 pwrPage 0 false (cause pwrPage 17 s))

/-- The die number of an event's instance (R421). -/
def dieInst : Die → Nat
  | .dx _ => 0 | .gx _ => 1 | .mx _ => 2 | .px _ => 3 | .hx => 0 | .hp => 1 | .sxA => 2 | .sxB => 3

def dieChan : Die → Option (Fin 9)
  | .dx c | .gx c | .mx c | .px c => some c
  | _ => none

/-- The supervisor removes VDX, VGX and VPX of a channel (R453): the blocks behind them are powered down; its ports were reset by the fence. Only
a recovery brings the rails back (DEDUCED, log 78). -/
def removeCoreRails (c : Fin 9) (s : State) : State :=
  let off : List (Fin 6) := [0, 1, 5]
  let s := s.each (off.flatMap (domainPages c)) fun p s => if p.blk = .trav then s else powerDownBlock p s
  s.modChan c fun ch => { ch with lasting := true, domRun := off.foldl (fun v d => v.set d.val false) ch.domRun }

/-- THERMAL_TRIP (R453): a channel die at 110 °C fences its channel and takes its cores' rails; HX, HP or an SX puts the module into
Standby. -/
def execThermalTrip (d : Die) (s : State) : Host.Outcome State Fault Refusal :=
  if !s.on then .next s
  else
    let s := event 0x0209 (if (dieChan d).isSome then 2 else 3) pwrPage (dieInst d) true (cause pwrPage 17 s)
    match dieChan d with
    | some c => .next (if s.powered c then removeCoreRails c (if s.chanFenced c then s else fenceChannel c .fenced true none s) else s)
    | none => .next (lossDown 0x0209 s)

/-- OP_HOURS (R449): an hour in Active, Idle or Dormant. -/
def execOpHours (s : State) : Host.Outcome State Fault Refusal :=
  if s.on then .next (s.modPwr fun x => { x with opHours := x.opHours + 1 }) else .next s

/-- ALWAYS_ON_POWER_LOSS (R442, R483): below 36 V everything but flash is off; the dynamic address is lost. -/
def execAlwaysOnPowerLoss (s : State) : Host.Outcome State Fault Refusal :=
  let s := if s.pwr.power = .standby || s.pwr.power = .unpowered then s else lossDown 0x0202 s
  .next (s.modPwr fun x =>
    { x with power := .unpowered, changing := false, wakePending := none, dynAddr := none, coreRunning := false, sbResp := none,
             uv := false, ov := false, coolant := false })

/-- SX_CORE_STOP (R450): in Standby the core stops 1 s after the last sideband access. -/
def execSxCoreStop (s : State) : Host.Outcome State Fault Refusal :=
  if s.pwr.power = .standby then .next (s.modPwr fun x => { x with coreRunning := false, sbResp := none }) else .next s

/-- HEARTBEAT_TIMEOUT (R466): the standby SX takes over. -/
def execHeartbeatTimeout (s : State) : Host.Outcome State Fault Refusal :=
  if s.on then .next (takeover false s) else .next s

/-- LOAD_TIMEOUT (R463): a component does not report ready within its load time. The retry from the same slot succeeds, or the
slot falls back to the other, or the component has no image: a channel image on one channel fails that channel, on all of them
every channel; HX puts the module into Standby; SX firmware leaves it there. An injection armed on SEC fires here, and in mode 0b10 fails the
retry too (R90). -/
def execLoadTimeout (comp : BitVec 3) (ch : Option (Fin 9)) (retryOk otherOk : Bool) (s : State) :
    Host.Outcome State Fault Refusal :=
  if h : comp.toNat < 6 then
    if !s.on then .next s
    else
     let (inj, s) := takeInjection (gpage .sec) commonCover s
     if retryOk && inj ≠ some 2 then .next (injectedIf inj.isSome (gpage .sec) (transientEvent (gpage .sec) inj.isSome s))
     else
      let i : Fin 6 := ⟨comp.toNat, h⟩
      let other := loadable s i (!s.sec.preferred.getLsbD i.val)
      let s := injectedIf inj.isSome (gpage .sec) (slotFallback i inj.isSome s)
      if otherOk && other then
        .next (s.modSec fun x => { x with active := (x.active &&& ~~~(BitVec.ofNat 6 (2 ^ i.val))) ||| (x.preferred &&& BitVec.ofNat 6 (2 ^ i.val)) })
      else
        let s := event 0x0307 (if 2 ≤ i.val then 2 else 3) (gpage .sec) i.val true s
        let failChan := fun (c : Fin 9) (s : State) =>
          if s.powered c then s.modChan c (fun x => { x with lasting := true }) |> fenceChannel c .failed true none else setRole c .failed true s
        if i.val = 0 then .next ((orderlyDown s).modPwr fun x => { x with alert := true })
        else if i.val = 1 then .next (orderlyDown s)
        else match ch with
          | some c => .next (failChan c s)
          | none => .next (s.each allChans failChan)
  else .next s

end Sys2Proof.Machine
end

