-- ==== Sys2Proof/Machine/Ageing.lean ====
section
/-! DEFINITION. Clock domains (R395 to R411), benchmarks, the datum and the re-survey (R424 to R428), the field book's periodic
records and gauges (R429, R430), and POWER_ON, which meets failed data (R425). -/
namespace Sys2Proof.Machine

/-! ## Domains -/

/-- A channel domain's channel and index, or a module domain's index (R412): HMAC, HUB, HCTL, SCORE_A, SCORE_B, SRTC. -/
def Domain.place : Domain → (Fin 9 × Fin 6) ⊕ Fin 6
  | .arith c => .inl (c, 0) | .gather c => .inl (c, 1) | .mside c => .inl (c, 2)
  | .hbma c => .inl (c, 3) | .hbmb c => .inl (c, 4) | .phot c => .inl (c, 5)
  | .hmac => .inr 0 | .hub => .inr 1 | .hctl => .inr 2 | .scoreA => .inr 3 | .scoreB => .inr 4 | .srtc => .inr 5

/-- The nominal frequency of a channel domain in units of 125 kHz (R91). -/
def chanFreq0 (d : Fin 6) : Nat := ([21600, 16800, 14400, 10000, 10000, 12500] : List Nat).getD d.val 0

/-- The frequency in force of a channel domain; zero while stopped (R91, R397). An entry is 100 MHz, 800 units. -/
def chanFreq (s : State) (c : Fin 9) (d : Fin 6) : Nat :=
  let ch := s.chan c
  if !ch.domRun[d.val] then 0
  else chanFreq0 d - 800 * (if h : d.val < 3 then ch.entryNow[d.val] else 0)

/-- The frequency in force of a module domain (R91). -/
def modFreq (s : State) (i : Fin 6) : Nat :=
  if !s.supv.hmacRun[i.val] then 0
  else ([10625, 16000, 8000, 3200, 3200, 0] : List Nat).getD i.val 0 - (if i = 1 then 800 * s.supv.hubNow else 0)

def modDomCode (i : Fin 6) : Nat := ([0x11, 0x12, 0x13, 0x21, 0x22, 0x23] : List Nat).getD i.val 0

/-- A module domain is the core of the active SX. -/
def activeCore (s : State) (i : Fin 6) : Bool := i.val = (if s.sec.sxActive then 4 else 3)

/-- The pages whose block a module domain clocks (R96): the global blocks run on the core of the active SX. -/
def modDomPages (s : State) (i : Fin 6) : List Page :=
  if i = 0 then [gpage .hmac] else if i = 1 then [gpage .hub] else if i = 2 then [gpage .icp]
  else if activeCore s i then globalBlks.map gpage else []

/-- A domain of a channel may be stopped (R408, R411). -/
def mayStop (s : State) (c : Fin 9) (d : Fin 6) : Bool :=
  (domainPages c d).all fun p => s.fenced p && isDrained s p && !(s.hdr p).resetting

/-- Stops a channel domain (R408): the power-down of every block in it. -/
def stopDomain (c : Fin 9) (d : Fin 6) (v : W32) (s : State) : State :=
  let s := s.each (domainPages c d) powerDownBlock
  control 5 (cpage c .cclk) 0 v (s.modChan c fun ch => { ch with domRun := ch.domRun.set d.val false })

/-- Starts a channel domain (R408): its blocks come up at reset values, fenced and stopped. -/
def startDomain (c : Fin 9) (d : Fin 6) (v : W32) (s : State) : State :=
  let s := s.modChan c fun ch => { ch with domRun := ch.domRun.set d.val true }
  let s := s.each (domainPages c d) fun p s => initBlock p s
  control 6 (cpage c .cclk) 0 v s

/-- A write of `CCLK.DOMAIN_EN` (R408, R411, R413): refused as a whole if any bit may not be cleared; MSIDE is never stopped. -/
def domainEnWrite (c : Fin 9) (v : W32) (s : State) : State :=
  let ds : List (Fin 6) := [0, 1, 3, 4, 5]
  let en := s.reg (cpage c .cclk) 0x104
  let stops := ds.filter fun d => en.getLsbD d.val && !v.getLsbD d.val
  let starts := ds.filter fun d => !en.getLsbD d.val && v.getLsbD d.val
  if stops.all (mayStop s c) then
    let s := s.setReg (cpage c .cclk) 0x104 ((v &&& 0x3B) ||| 4)
    s.each stops (fun d => stopDomain c d v) |>.each starts fun d => startDomain c d v
  else cfgRefused (cpage c .cclk) s

/-- The host path is lost (R17, R410): nothing is received or sent over it any more, and with its domain stopped for good no link comes up. -/
def hostPathLost (s : State) : State := s.modIcp fun i => { i with linkUp := false }

/-- LOCK_LOSS (R410): the domain's blocks are treated as powered down; a relock is a transient, a second loss or a failed relock
lasting: the channel fenced, or the host path lost; SRTC has no loop. An injection armed on CCLK or CLOCKS fires here, and in mode 0b10 fails
the relock too (R90). Where the standby SX takes over from a core that is lost, it serves the global pages as they stand (R466). -/
def execLockLoss (d : Domain) (relocks : Bool) (s : State) : Host.Outcome State Fault Refusal :=
  if !s.on then .next s
  else match Domain.place d with
    | .inl (c, i) =>
      if !s.powered c || !(s.chan c).domRun[i.val] then .next s
      else
        let once := (s.chan c).domOnce[i.val]
        let p := cpage c .cclk
        let (inj, s) := takeInjection p commonCover s
        let relocks := relocks && inj ≠ some 2
        let s := s.each (domainPages c i) powerDownBlock
        let s := s.modChan c fun ch => { ch with domLost := ch.domLost.set i.val true, domOnce := ch.domOnce.set i.val true }
        if relocks && !once then .next (injectedIf inj.isSome p (transientEvent p inj.isSome s))
        else
          let s := injectedIf inj.isSome p (lastingEvent p false inj.isSome noDetail s)
          let s := s.modChan c fun ch => { ch with domRun := ch.domRun.set i.val relocks }
          .next (if s.chanFenced c then s else fenceChannel c .fenced true none s)
    | .inr i =>
      if i = 5 || !s.supv.hmacRun[i.val] then .next s
      else
        let once := s.supv.hmacOnce[i.val]
        let p := gpage .clocks
        let (inj, s) := takeInjection p commonCover s
        let relocks := relocks && inj ≠ some 2
        let lost := once || !relocks
        let s := if lost && activeCore s i && s.sec.standbyOk then s else s.each (modDomPages s i) powerDownBlock
        let s := s.modSupv fun v => { v with hmacLost := v.hmacLost.set i.val true, hmacOnce := v.hmacOnce.set i.val true }
        if !lost then .next (injectedIf inj.isSome p (transientEvent p inj.isSome s))
        else
          let s := injectedIf inj.isSome p (lastingEvent p false inj.isSome noDetail s)
          let s := s.modSupv fun v => { v with hmacRun := v.hmacRun.set i.val (relocks && decide (3 ≤ i.val)) }
          if i.val < 3 then .next (hostPathLost s)
          else if activeCore s i then .next (takeover false s)
          else .next (loseStandby s)

/-- A channel in whose work a frequency may change (R35, R397): paused for a plat, in Idle, or SPARE, with nothing issued. -/
def windowOpen (s : State) (c : Fin 9) : Bool :=
  (s.chan c).fly.isEmpty && ((s.chan c).platPause || s.pwr.power = .idle || (s.chan c).role = .spare || (s.chan c).surveyHold)

/-- The entry a channel domain should run at: the larger of the surveyed entry and the driver's cap (R397). -/
def wantedEntry (s : State) (c : Fin 9) (i : Fin 3) : Nat :=
  let b := (s.chan c).bench
  let surveyed := if i = 0 then b.entryDx else if i = 1 then b.entryGx else b.entryMx
  max surveyed (s.field (cpage c .cclk) 0x100 (18 + 4 * i.val) (16 + 4 * i.val))

/-- The supervisor changes a channel domain's entry (R397): PARK for ARITH, every block of the domain drained, the domain stopped, relocked
and started again, the fences and PARK as they were. The drained blocks have nothing outstanding, so that nothing completes. -/
def changeEntry (c : Fin 9) (i : Fin 6) (h : i.val < 3) (entry : Nat) (s : State) : State :=
  if (s.chan c).entryNow[i.val] = entry then s
  else
    let s := s.when (i = 0) (setPark c true)
    let s := s.each (domainPages c i) fun p s => control 4 p 3 4 s
    let s := control 5 (cpage c .cclk) 3 0 s
    let s := s.modChan c fun ch => { ch with entryNow := ch.entryNow.set i.val entry }
    (control 6 (cpage c .cclk) 3 0 s).when (i = 0) (unPark c)

/-- FREQ_CHANGE (R397): in its window the supervisor brings the domain to the entry wanted. EPOCH does not change and nothing completes
RESET. -/
def execFreqChange (d : Domain) (s : State) : Host.Outcome State Fault Refusal :=
  match Domain.place d with
  | .inl (c, i) =>
    if h : i.val < 3 then
      if s.powered c && (s.chan c).domRun[i.val] && windowOpen s c && (domainPages c i).all (quiet s) then
        .next ((changeEntry c i h (wantedEntry s c ⟨i.val, h⟩) s).modSupv fun v => { v with freqWait := v.freqWait.filter fun x => x ≠ d })
      else .next s
    else .next s
  | .inr i =>
    if i = 1 && s.supv.hmacRun[1] && quiet s (gpage .hub) &&
        (allChans.all fun c => (s.chan c).role ≠ .serving || (s.chan c).platPause || s.pwr.power = .idle) then
      .next (s.modSupv fun v => { v with hubNow := v.hubEntry, freqWait := v.freqWait.filter fun x => x ≠ d })
    else .next s

/-- FREQ_DRAIN_TIMEOUT (R397): the change is abandoned and deferred. -/
def execFreqDrainTimeout (d : Domain) (s : State) : Host.Outcome State Fault Refusal :=
  let later := fun (s : State) => s.modSupv fun v => { v with freqWait := if v.freqWait.contains d then v.freqWait else v.freqWait ++ [d] }
  match Domain.place d with
  | .inl (c, i) => if s.powered c && i.val < 3 then .next (later (event 0x0131 0 (cpage c .cclk) 0 false s)) else .next s
  | .inr i => if s.on && i = 1 then .next (later (event 0x0131 0 (gpage .hub) 0 false s)) else .next s

/-! ## Benchmarks (R424, R425) -/

/-- A die's benchmark place: its channel and die number, or its number among HX, SX A and SX B. HP has none (R424). -/
def benchPlace : Die → Option ((Fin 9 × Fin 4) ⊕ Fin 3)
  | .dx c => some (.inl (c, 0)) | .gx c => some (.inl (c, 1)) | .mx c => some (.inl (c, 2)) | .px c => some (.inl (c, 3))
  | .hx => some (.inr 0) | .sxA => some (.inr 1) | .sxB => some (.inr 2) | .hp => none

/-- Adds readings of one die to the samples kept for its datum. -/
def addReadings (base : Nat) (l : List H16) (m : List (Nat × List H16)) : List (Nat × List H16) :=
  (l.take 24).zipIdx.foldl (fun m e => spSet (fun _ => []) m (base + e.2) (spGet (fun _ => []) m (base + e.2) ++ [e.1])) m

/-- BENCHMARK_READ (R424, R430): every 15 minutes of operating time the supervisor reads every benchmark and samples the die
supplies and drifts; readings of the first 24 operating hours are kept for the datum (R425). -/
def execBenchmarkRead (readings : List (Die × List H16)) (samples : List GaugeSample) (s : State) :
    Host.Outcome State Fault Refusal :=
  if !s.on then .next s
  else
    let early := s.pwr.opHours.toNat < 24
    let s := s.each readings fun r s =>
      match benchPlace r.1 with
      | some (.inl (c, d)) =>
        if !s.powered c then s
        else s.modChan c fun ch =>
          let b := ch.bench
          let latest := (r.2.take 24).zipIdx.foldl (fun m e => spSet (fun _ => (0, 0)) m (24 * d.val + e.2) (e.1, b.offset[d.val])) b.latest
          let keep := early && !b.done.getLsbD d.val
          { ch with bench := { b with
              latest := latest
              samples := if keep then addReadings (24 * d.val) r.2 b.samples else b.samples
              hours := if keep then min 24 (s.pwr.opHours.toNat + 1) else b.hours } }
      | some (.inr d) =>
        s.modSupv fun v =>
          { v with modSamples := if early && !v.modDatumDone then addReadings (24 * d.val) r.2 v.modSamples else v.modSamples }
      | none => s
    .next (s.each (samples.filter fun g => g.quantity = 3 || g.quantity = 4) addSample)

/-- The median of R425: the 48th of the readings in ascending order. -/
def median48 (l : List H16) : H16 := (sortBy (fun a b => a ≤ b) l).getD 47 0

/-- DATUM_WRITE (R425): at operating hour 24, once, the datum of each benchmark. -/
def execDatumWrite (s : State) : Host.Outcome State Fault Refusal :=
  if !s.on || s.pwr.opHours.toNat < 24 then .next s
  else
    let s := s.each allChans fun c s =>
      s.each (List.finRange 4) fun d s =>
        let b := (s.chan c).bench
        let mine := b.samples.filter fun e => e.1 / 24 = d.val
        if b.done.getLsbD d.val || mine.isEmpty then s
        else
          let s := s.modChan c fun ch =>
            { ch with bench := { b with
                datum := mine.foldl (fun m e => spSet (fun _ => 0) m e.1 (median48 e.2)) b.datum
                done := b.done ||| BitVec.ofNat 4 (2 ^ d.val), hours := 24 } }
          event 0x0143 0 (cpage c .cbench) d.val true s
    if s.supv.modDatumDone || s.supv.modSamples.isEmpty then .next s
    else
      let s := s.modSupv fun v =>
        { v with modDatum := v.modSamples.foldl (fun m e => spSet (fun _ => 0) m e.1 (median48 e.2)) v.modDatum, modDatumDone := true }
      .next (s.each [0, 2, 3] fun d => event 0x0143 0 (gpage .bench) d true)

/-! ## The re-survey (R426 to R428) -/

/-- The nominal frequency and the last entry of a die's derateable domain, in MHz (R395). -/
def dieFreq : Die → Option (Nat × Nat)
  | .dx _ => some (2700, 7) | .gx _ => some (2100, 6) | .mx _ => some (1800, 4) | .hx => some (2000, 4) | _ => none

/-- The search of R426: the least offset at which every path-delay replica is no slower than its datum plus ALLOW, scaled to the
cycle in force. -/
def searchOffset (datum : Nat → Nat) (allow f0 fe : Nat) : List (List H16) → Nat → Option Nat
  | [], _ => none
  | rs :: more, k =>
    if (rs.take 16).zipIdx.all fun e => e.1.toNat * 1000 * fe ≤ datum e.2 * (1000 + allow) * f0 then some k
    else searchOffset datum allow f0 fe more (k + 1)

/-- Requests for surveys, by interval or by the driver (R427, R438). -/
def surveyWanted (s : State) (i : Nat) : Bool := s.supv.surveyPending.getLsbD i || s.supv.surveyAsked.getLsbD i

/-- A die of a channel that the survey under way has still to visit: it has a datum and a rating table. -/
def toSurvey (s : State) (c : Fin 9) (d : Fin 4) : Bool :=
  let b := (s.chan c).bench
  b.done.getLsbD d.val && !b.bad.getLsbD d.val && (ratingOf s (chanDie c d)).isSome && !(s.chan c).surveyed.getLsbD d.val

/-- A serving channel whose survey is due is held for it once its PLAT_WRITE has completed (R34, R427). -/
def holdForSurvey (c : Fin 9) (s : State) : State :=
  if (s.chan c).role = .serving && surveyWanted s c.val && (List.finRange 4).any (toSurvey s c) then
    s.modChan c fun ch => { ch with surveyHold := true } else s

/-- A survey's outcome recorded (R426, R431): offset and entry kept, DERATED, AGED and SURVEY_DONE raised. -/
def surveyEvents (p : Page) (inst : Nat) (derated aged : Bool) (k entry worst : Nat) (s : State) : State :=
  let det : List Byte := [BitVec.ofNat 8 k, BitVec.ofNat 8 entry] ++ toLE 2 worst
  let s := s.when derated fun s => note 0x0141 p.zone inst p.blk.num det (eventNoNote 0x0141 0 p.zone p.blk.num inst false s)
  let s := s.when aged (event 0x0142 0 p inst true)
  note 0x0140 p.zone inst p.blk.num det (eventNoNote 0x0140 0 p.zone p.blk.num inst false s)

/-- RESURVEY of one die with the readings at each offset, at its present entry and, if it steps down, at the next (R426). `fault`:
a lasting fault in the channel stops the survey, which stays pending (R428). -/
def execResurvey (die : Die) (atEntry atNext : List (List H16)) (fault : Bool) (s : State) : Host.Outcome State Fault Refusal :=
  if fault then .next (match dieChan die with | some c => stopSurvey c s | none => s)
  else if !s.on || (ratingOf s die).isNone then .next s
  else
    let kmax := (kmaxOf s die).toNat
    let allow := match ratingOf s die with | some r => Config.ratingAllow r.target r.gen | none => 0
    let decide' := fun (datum : Nat → Nat) (e0 : Nat) =>
      let (f0, last) := (dieFreq die).getD (1, 0)
      let fr := fun (e : Nat) => if (dieFreq die).isSome then f0 - 100 * e else f0
      match searchOffset datum allow f0 (fr e0) (atEntry.take (kmax + 1)) 0 with
      | some k => (k, e0, false, false)
      | none =>
        if (dieFreq die).isSome && e0 < last then
          match searchOffset datum allow f0 (fr (e0 + 1)) (atNext.take (kmax + 1)) 0 with
          | some k => (k, e0 + 1, true, false)
          | none => (kmax, e0 + 1, true, true)
        else (kmax, e0, false, true)
    let worst := fun (k : Nat) (der : Bool) => (((if der then atNext else atEntry).getD k []).take 16).foldl (fun m x => max m x.toNat) 0
    match benchPlace die with
    | some (.inl (c, d)) =>
      let b := (s.chan c).bench
      let role := (s.chan c).role
      let window := (s.chan c).fly.isEmpty && ((role = .serving && ((s.chan c).surveyHold || s.pwr.power = .idle)) || role = .spare)
      if !surveyWanted s c.val || !window || !toSurvey s c d then .next s
      else
        let e0 := if d = 0 then b.entryDx else if d = 1 then b.entryGx else if d = 2 then b.entryMx else 0
        let (k, e, der, aged) := decide' (fun i => (spGet (fun _ => 0) b.datum (24 * d.val + i)).toNat) e0
        let bit := BitVec.ofNat 10 (2 ^ c.val)
        let s := (s.when (d = 0) (setPark c true)).modChan c fun ch =>
          { ch with
            surveyHold := true
            surveyFrom := ch.surveyFrom.or (some ⟨b.offset, b.entryDx, b.entryGx, b.entryMx⟩)
            surveyed := ch.surveyed ||| BitVec.ofNat 4 (2 ^ d.val)
            bench := { b with
              offset := b.offset.set d.val (BitVec.ofNat 4 k)
              entryDx := if d = 0 then e else b.entryDx
              entryGx := if d = 1 then e else b.entryGx
              entryMx := if d = 2 then e else b.entryMx
              aged := b.aged || aged } }
        let s := if h : d.val < 3 then changeEntry c ⟨d.val, by omega⟩ h (wantedEntry s c ⟨d.val, h⟩) s else s
        let s := s.when (d = 0) (unPark c)
        let s := s.modSupv fun v => { v with surveyRunning := v.surveyRunning ||| bit, lastSurvey := s.pwr.opHours }
        let s := surveyEvents (cpage c .cbench) d.val der aged k e (worst k der) s
        if (List.finRange 4).all fun i => !toSurvey s c i then
          let s := s.modSupv fun v =>
            { v with surveyPending := v.surveyPending &&& ~~~bit, surveyAsked := v.surveyAsked &&& ~~~bit,
                     surveyRunning := v.surveyRunning &&& ~~~bit }
          .next (s.modChan c fun ch => { ch with surveyed := 0, surveyFrom := none, surveyHold := false })
        else .next s
    | some (.inr d) =>
      if !surveyWanted s 9 || s.pwr.power ≠ .idle || !s.supv.modDatumDone || s.supv.modBad.getLsbD d.val then .next s
      else
        let e0 := if d = 0 then s.supv.hubEntry else 0
        let (k, e, der, aged) := decide' (fun i => (spGet (fun _ => 0) s.supv.modDatum (24 * d.val + i)).toNat) e0
        let s := s.modSupv fun v =>
          { v with modOffset := v.modOffset.set d.val (BitVec.ofNat 4 k), hubEntry := if d = 0 then e else v.hubEntry,
                   hubNow := if d = 0 then e else v.hubNow, modAged := v.modAged || aged, lastSurvey := s.pwr.opHours,
                   surveyPending := if d = 2 then v.surveyPending &&& ~~~512 else v.surveyPending,
                   surveyAsked := if d = 2 then v.surveyAsked &&& ~~~512 else v.surveyAsked }
        .next (surveyEvents (gpage .bench) (dieInst die) der aged k e (worst k der) s)
    | none => .next s

/-- SURVEY_DUE (R427): INTERVAL units of ten operating hours after the last one, a survey falls due for every die. -/
def execSurveyDue (s : State) : Host.Outcome State Fault Refusal :=
  let interval := 10 * s.field (gpage .bench) 0x100 25 16
  if s.on && s.supv.lastSurveyAll + interval ≤ s.pwr.opHours.toNat then
    .next (s.modSupv fun v => { v with surveyPending := 0x3FF, lastSurveyAll := s.pwr.opHours.toNat })
  else .next s

/-- EPOCH_RECORD (R429): an epoch of 24 operating hours closes and its record is appended. -/
def execEpochRecord (s : State) : Host.Outcome State Fault Refusal :=
  if s.on && 24 ≤ s.pwr.opHours.toNat && s.pwr.opHours.toNat % 24 = 0 then
    .next (writeEpoch (openEpoch s - 1) false s)
  else .next s

/-- What the second has corrected without a retry enters its counters (R79, R313, R338): codewords of the host link, reads of the stacks.
No command of the table stands for one such correction, so they come with the supervisor's second (DESIGN CHOICE, log 72). -/
def countCorrected (r : SecondReading) (s : State) : State :=
  (s.bump (gpage .hmac) 0x110 r.fec).each r.ecc fun e s => if s.powered e.1 then s.bump (hbmPage e.1 e.2.1) 0x100 e.2.2 else s

/-- GAUGE_SAMPLE (R430, R456): every second the supervisor samples temperatures, link margins and input power; the input's voltage
and current are read with their extremes. A port whose link is not ACTIVE takes no margin sample. -/
def execGaugeSample (r : SecondReading) (mv ma : H16) (s : State) : Host.Outcome State Fault Refusal :=
  if !s.on then .next s
  else
    let usable := r.gauges.filter fun g =>
      match g.quantity.toNat with
      | 1 | 2 | 7 => true
      | 6 => if h : g.chan.toNat < 9 ∧ g.inst.toNat < 6 then (s.port ⟨g.chan.toNat, h.1⟩ ⟨g.inst.toNat, h.2⟩).state = .active else false
      | _ => false
    let s := countCorrected r (s.each usable addSample)
    .next (s.modPwr fun x =>
      { x with inputMv := mv, inputMin := if mv < x.inputMin then mv else x.inputMin, inputMa := ma,
               inputPeak := if x.inputPeak < ma then ma else x.inputPeak })

/-! ## Power-up -/

/-- A die whose two datum copies fail is set to the last offset of its rating table and never surveyed again; DATUM_BAD (R425). -/
def datumBad (die : Die) (s : State) : State :=
  match benchPlace die with
  | some (.inl (c, d)) =>
    if !(s.chan c).bench.done.getLsbD d.val then s
    else
      let k := kmaxOf s die
      let s := s.modChan c fun ch =>
        { ch with bench := { ch.bench with bad := ch.bench.bad ||| BitVec.ofNat 4 (2 ^ d.val), offset := ch.bench.offset.set d.val k } }
      event 0x0144 2 (cpage c .cbench) d.val true s
  | some (.inr d) =>
    if !s.supv.modDatumDone then s
    else
      event 0x0144 2 (gpage .bench) (dieInst die) true
        (s.modSupv fun v => { v with modBad := v.modBad ||| BitVec.ofNat 3 (2 ^ d.val), modOffset := v.modOffset.set d.val (kmaxOf s die) })
  | none => s

/-- POWER_ON (R446): valid input, or a wake taken in Standby, starts the power-up sequence. -/
def execPowerOn (identOk : Bool) (bad : List Die) (s : State) : Host.Outcome State Fault Refusal :=
  let start := s.pwr.power = .unpowered || (s.pwr.power = .standby && s.pwr.wakePending.isSome)
  if start && !s.pwr.uv && !s.pwr.ov && !s.pwr.coolant && !s.pwr.leak then
    let s := if s.pwr.power = .unpowered then s.modPwr fun x => { x with wakeSrc := 0, power := .standby } else s
    .next ((powerUp identOk s).each bad datumBad)
  else .next s

end Sys2Proof.Machine
end

