-- ==== Sys2Proof/Machine/Seq.lean ====
section
/-! DEFINITION. The sequencer's own descriptors (R103, R104, R111, R112, R121), aborts (R118), resumes and flushes (R119). -/
namespace Sys2Proof.Machine

abbrev Out := Host.Outcome State Fault Refusal

/-! ## STAKE_WAIT and STAKE_SIGNAL (R112) -/

/-- The entries of a stake descriptor's body hold no reserved bit: `mask` is what the second byte of an entry may hold. -/
def stakeFmt (d : List Byte) (mask : Nat) : Chk :=
  fmtChk [reservedBad d ((List.range 8).map fun i => (17 + 6 * i, mask))]

/-- The outcome of a sequencer opcode at its issue: refused, or its effect and COMPLETED. -/
def seqDone (c : Fin 9) (f : Fly) (chk : Chk) (k : State → State) (s : State) : State :=
  match chk with
  | some (st, detail) => refuseAt c f st 0 detail s
  | none => finishDesc c f.desc f.stream f.fetched f.no stCompleted 0 0 (k s)

/-- STAKE_WAIT: it commits and completes at once. -/
def stakeWaitIssue (c : Fin 9) (f : Fly) (s : State) : State := seqDone c f (stakeFmt f.desc 0x83) id s

/-- One enabled entry of a STAKE_SIGNAL. -/
def signalEntry (c : Fin 9) (d : List Byte) (i : Nat) (s : State) : State :=
  let e := fld d (16 + 6 * i) 2
  let v := fld d (18 + 6 * i) 4
  let k := bitsOf e 9 0
  if !bitAt e 15 then s else if bitAt e 14 then s.setStake c k (w32 v) else s.addStake c k v

/-- STAKE_SIGNAL: its entries in order; its header signal follows with its completion. -/
def stakeSignalIssue (c : Fin 9) (f : Fly) (s : State) : State :=
  seqDone c f (stakeFmt f.desc 0xC3) (fun s => s.each (List.range 8) (signalEntry c f.desc)) s

/-! ## SEQ_TABLE (R121) -/

def SeqEntry.bytes (e : SeqEntry) : List Byte :=
  toLE 4 e.tokenStart.toNat ++ toLE 4 e.tokenCount.toNat ++ toLE 4 e.posBase.toNat ++ toLE 4 e.seqTag.toNat ++
    toLE 1 (boolBit e.valid 0 + boolBit e.causal 1 + boolBit e.continues 2) ++ List.replicate 15 0

/-- An entry of an image. -/
def seqEntryOf (b : List Byte) : SeqEntry :=
  ⟨w32 (fld b 0 4), w32 (fld b 4 4), w32 (fld b 8 4), w32 (fld b 12 4), bitAt (fld b 16 1) 0, bitAt (fld b 16 1) 1, bitAt (fld b 16 1) 2⟩

def seqTableImage (t : Vector SeqEntry 16) : List Byte := t.toList.flatMap SeqEntry.bytes

/-- Entry `i` of an image offends (R121): a reserved bit; valid behind an invalid one; out of range; or it ends beyond the start of
the next. -/
def seqEntryBad (img : List Byte) (i : Nat) : Bool :=
  let at_ := fun (k : Nat) => seqEntryOf ((img.drop (32 * k)).take 32)
  let raw := (img.drop (32 * i)).take 32
  let e := at_ i
  let stop := e.tokenStart.toNat + e.tokenCount.toNat
  (reservedBad raw ((16, 7) :: zeroBytes 17 32)).isSome ||
    (e.valid && ((List.range i).any (fun k => !(at_ k).valid) || e.tokenCount.toNat < 1 || 16777216 < e.tokenCount.toNat ||
      2 ^ 32 < stop || (i < 15 && (at_ (i + 1)).valid && (at_ (i + 1)).tokenStart.toNat < stop)))

def seqTableFmt (d : List Byte) : Chk :=
  firstChk [fmtChk [badIf (fld d 16 5 % 64 ≠ 0) 16, reservedBad d (addr40 16), reservedBad d ((24, 1) :: zeroBytes 25 64)],
    opChk (!inMap (fld d 16 5) 512) 0x0402]

/-- The sequencer's port has nothing outstanding. -/
def seqDrain (c : Fin 9) (s : State) : State := deliverReplies c (drainPort c 15 s)

/-- SEQ_TABLE: a load swaps the table, a store writes the image; one that meets a fenced stack completes RESET (R317). -/
def seqTableIssue (c : Fin 9) (f : Fly) (s : State) : State :=
  let a := fld f.desc 16 5
  let load := !bitAt (fld f.desc 24 1) 0
  match seqTableFmt f.desc with
  | some (st, detail) => refuseAt c f st 0 detail s
  | none =>
    if accessBlocked s c (!load) [(a, 512)] then refuseAt c f stReset 0 0 s
    else if load then
      let img := memRds (s.chan c).mem a 512
      seqDone c f (((List.range 16).find? (seqEntryBad img)).map fun i => (stOperand, i))
        (fun s => s.modChan c fun ch => { ch with seqTable := .ofFn fun i => seqEntryOf ((img.drop (32 * i.val)).take 32) })
        (seqDrain c (readSpans c (seqReq c (some f.no)) maxTransaction [(a, 512)] s))
    else seqDone c f none (fun s => seqDrain c (writeMem c (seqReq c (some f.no)) a (seqTableImage (s.chan c).seqTable) s)) s

/-! ## BATCH_FETCH (R103, R104) -/

def bfAddr (d : List Byte) : Nat := fld d 16 5
def bfCount (d : List Byte) : Nat := fld d 24 4 % 2 ^ 21

def fetchChk (d : List Byte) : Chk :=
  firstChk [fmtChk [badIf (bfAddr d % 64 ≠ 0) 16, reservedBad d (addr40 16), badIf (bfCount d < 1 || 1048576 < bfCount d) 24,
      reservedBad d ((26, 31) :: zeroBytes 27 64)],
    opChk (!inMap (bfAddr d) (64 * bfCount d)) 0x0401]

/-- BATCH_FETCH: its list takes its place in the stream. -/
def batchFetchIssue (c : Fin 9) (f : Fly) (s : State) : State :=
  match fetchChk f.desc with
  | some (st, detail) => refuseAt c f st 0 detail s
  | none =>
    s.modStream c f.stream fun x =>
      { x with fetch := some ⟨f.desc, f.fetched, bfAddr f.desc, bfCount f.desc, 0, [], false, false, f.no, false⟩ }

/-- The next burst of up to 64 descriptors enters the fetch buffer (R103). A burst that misses on a fenced stack completes the
BATCH_FETCH with RESET (R104, R317). -/
def fetchBurst (c : Fin 9) (st : Fin 4) (s : State) : State :=
  match ((s.chan c).stream st).fetch with
  | none => s
  | some f =>
    let n := min 64 f.remaining
    let list : List Span := [(f.next, 64 * n)]
    if n = 0 || 64 < f.buf.length || !(s.hdr (cpage c .seq)).enable then s
    else if accessBlocked s c false list then settle c (failFetch c st stReset s)
    else
      let s := seqDrain c (readSpans c (seqReq c (some f.no)) maxTransaction list s)
      let ds := (List.range n).map fun i => (⟨memRds (s.chan c).mem (f.next + 64 * i) 64, false⟩ : QDesc)
      settle c (s.modStream c st fun x =>
        { x with fetch := some { f with next := f.next + 64 * n, remaining := f.remaining - n, buf := f.buf ++ ds } })

/-! ## Aborts (R118) -/

/-- The passes of a list that continue one set in turn, up to one that drains it. -/
def continuing : List Fly → List Fly
  | [] => []
  | f :: l => if !isContinue f.desc then [] else f :: (if mDrain f.desc then [] else continuing l)

/-- Passes that had begun to continue a set that is discarded end with ACC_STATE (R176, R179). -/
def endContinues (c : Fin 9) (a : Fin 2) (no : Nat) (s : State) : State :=
  s.each (continuing ((s.chan c).fly.filter fun f => f.unit = arrUnit a && no < f.no && f.begun && !f.committed))
    fun f s => endFly c f stOperand 0 (w32 0x0703) s

/-- An issued descriptor that is not committed is discarded: ABORTED, its unit moves on (R118, R176). -/
def abortFly (c : Fin 9) (f : Fly) (s : State) : State :=
  withGaps c (fun s =>
    let s := match unitArr f.unit with
      | some a => if f.begun && !mDrain f.desc then endContinues c a f.no s else s
      | none => s
    goOn c f.unit (sweep (endFly c f stAborted 0 0 s))) s

/-- Discards the fetch of a stream: its BATCH_FETCH completes with a status, unless it has failed before, then its buffered descriptors
FLUSHED (R118, R119). -/
def dropFetch (c : Fin 9) (st : Fin 4) (f : Fetch) (status : H16) (detail : W32) (s : State) : State :=
  let s := s.modStream c st fun x => { x with fetch := none }
  let s := s.when (!f.failed) (finishDesc c f.desc st f.fetched f.no status (flagIf f.abortLate flAbortLate) detail)
  s.each f.buf fun q => finishQueued c q.bytes st true stFlushed 0

/-- One abort (R118). -/
def abortId (c : Fin 9) (id : W32) (s : State) : State :=
  let hit := fun (d : List Byte) => decide (dId d = id)
  let mark := fun (q : QDesc) => if hit q.bytes then { q with aborted := true } else q
  let ch := s.chan c
  let matched := (ch.fly.any fun f => hit f.desc) || allStreams.any fun st =>
    let x := ch.stream st
    x.queue.any (fun q => hit q.bytes) || (match x.fetch with
      | some f => (hit f.desc && !f.failed) || f.buf.any fun q => hit q.bytes
      | none => false)
  if !matched then cause (cpage c .seq) 16 s
  else
    let s := s.each allStreams fun st s =>
      let s := s.modStream c st fun x =>
        { x with queue := x.queue.map mark, fetch := x.fetch.map fun f => { f with buf := f.buf.map mark } }
      match ((s.chan c).stream st).fetch with
      | some f =>
        if !hit f.desc || f.failed then s
        else if f.committed then s.modStream c st fun x => { x with fetch := some { f with abortLate := true } }
        else dropFetch c st f stAborted 0 s
      | none => s
    let s := s.modChan c fun ch => { ch with fly := ch.fly.map fun f => if hit f.desc && f.committed then { f with abortLate := true } else f }
    let s := s.each (ch.fly.filter fun f => hit f.desc && !f.committed) fun f s =>
      if alive s c f.no then abortFly c f s else s
    settle c s

/-! ## RESUME and FLUSH (R119) -/

def flushStream (c : Fin 9) (st : Fin 4) (s : State) : State :=
  let x := (s.chan c).stream st
  let s := s.modStream c st fun _ => .reset
  let s := match x.fetch with
    | some f => dropFetch c st f stFlushed (w32 f.issued) s
    | none => s
  s.each x.queue fun q => finishQueued c q.bytes st false stFlushed 0

/-- A write of STREAM_STAT: a flush prevails over a resume of the same stream. -/
def streamCtl (c : Fin 9) (resume flush : Nat) (s : State) : State :=
  let s := s.each allStreams fun st s =>
    if bitAt flush st.val then flushStream c st s
    else if bitAt resume st.val then s.modStream c st fun x => { x with halted := false } else s
  settle c s

/-! ## Meanings -/

def opIs (n : Nat) (d : List Byte) : Bool := dOpcode d = n

/-- STAKE_WAIT at the head of a stream issues. -/
def execStakeWait (c : Fin 9) (st : Fin 4) (s : State) : Out := .next (issueHead c st (opIs 0x60) (stakeWaitIssue c) s)

/-- STAKE_SIGNAL at the head of a stream issues. -/
def execStakeSignal (c : Fin 9) (st : Fin 4) (s : State) : Out := .next (issueHead c st (opIs 0x61) (stakeSignalIssue c) s)

/-- SEQ_TABLE at the head of a stream issues. -/
def execSeqTable (c : Fin 9) (st : Fin 4) (s : State) : Out := .next (issueHead c st (opIs 0x08) (seqTableIssue c) s)

/-- BATCH_FETCH at the head of a stream issues. -/
def execBatchFetch (c : Fin 9) (st : Fin 4) (s : State) : Out := .next (issueHead c st (opIs 0x68) (batchFetchIssue c) s)

/-- FETCH_BURST: 64 entries of the buffer are free and the list goes on. -/
def execFetchBurst (c : Fin 9) (st : Fin 4) (s : State) : Out := .next (fetchBurst c st s)

end Sys2Proof.Machine
end

