-- ==== Sys2Proof/Machine/Issue.lean ====
section
/-! DEFINITION. The issue of the descriptors that a unit computes from memory: each is checked, copies what it uses, and enters its
unit (R99, R105, R121, R196). -/
namespace Sys2Proof.Machine

/-- A descriptor issued to its unit: refused by a check, or entered with the copies it takes. -/
def issueUnit (c : Fin 9) (chk : Chan → Env → List Byte → Chk) (copies : State → Fly → Env) (f : Fly) (s : State) : State :=
  let f := { f with env := copies s f }
  match chk (s.chan c) f.env f.desc with
  | some (st, detail) => refuseAt c f st 0 detail s
  | none => enter c f s

def plainEnv (_ : State) (f : Fly) : Env := f.env

/-- Copies with the history records of the destinations at the given offsets (R282). -/
def histEnv (c : Fin 9) (offs : List Nat) (s : State) (f : Fly) : Env := withHist s c f.env (offs.map (imgOf f.env f.desc))

/-- A MATMUL_PASS's destination counts only if it drains. -/
def passEnv (c : Fin 9) (s : State) (f : Fly) : Env := if mDrain f.desc then histEnv c [22] s f else f.env

/-- A GATHER reads its count at issue (R225). -/
def gatherEnv (c : Fin 9) (s : State) (f : Fly) : Env :=
  { histEnv c [16] s f with live := gatherLive (s.chan c).mem f.env f.desc }

/-- A DESC_CREATE is checked for its body's format here; its image is checked when it is read (R197, R198). -/
def createIssue (c : Fin 9) (f : Fly) (s : State) : State :=
  match createFmt f.desc with
  | some (st, detail) => refuseAt c f st 0 detail s
  | none => enter c f s

/-! ## Meanings -/

/-- DESC_CREATE (R197). -/
def execDescCreate (c : Fin 9) (st : Fin 4) (s : State) : Out := .next (issueHead c st (opIs 0x01) (createIssue c) s)

/-- LAYOUT_COPY (R214). -/
def execLayoutCopy (c : Fin 9) (st : Fin 4) (s : State) : Out :=
  .next (issueHead c st (opIs 0x02) (issueUnit c (fun _ => copyChk) (histEnv c [18])) s)

/-- MATMUL_PASS (R173 to R177). -/
def execMatmulPass (c : Fin 9) (st : Fin 4) (s : State) : Out :=
  .next (issueHead c st (opIs 0x10) (issueUnit c (fun _ => passChk) (passEnv c)) s)

/-- VECTOR (R183 to R186). -/
def execVector (c : Fin 9) (st : Fin 4) (s : State) : Out :=
  .next (issueHead c st (opIs 0x11) (issueUnit c (fun _ => vectorChk) (histEnv c [18])) s)

/-- GATHER (R225, R226). -/
def execGather (c : Fin 9) (st : Fin 4) (s : State) : Out :=
  .next (issueHead c st (opIs 0x20) (issueUnit c (fun ch => gatherChk ch.mem) (gatherEnv c)) s)

/-- MERGE (R227 to R229). -/
def execMerge (c : Fin 9) (st : Fin 4) (s : State) : Out :=
  .next (issueHead c st (opIs 0x21) (issueUnit c (fun _ => mergeChk) (histEnv c [16])) s)

/-- COMPACT in ROWS mode (R238); a body whose mode is not allowed is refused here too. -/
def execCompact (c : Fin 9) (st : Fin 4) (s : State) : Out :=
  .next (issueHead c st (fun d => opIs 0x22 d && !kPredict d) (issueUnit c (fun _ => compactChk) (histEnv c [22])) s)

/-- COMPACT in PREDICT mode (R239, R242). -/
def execPredict (c : Fin 9) (st : Fin 4) (s : State) : Out :=
  .next (issueHead c st (fun d => opIs 0x22 d && kPredict d) (issueUnit c (fun _ => compactChk) plainEnv) s)

/-- BIN (R237). -/
def execBin (c : Fin 9) (st : Fin 4) (s : State) : Out :=
  .next (issueHead c st (opIs 0x23) (issueUnit c (fun _ => binChk) plainEnv) s)

/-- UPDATE (R270 to R280). -/
def execUpdate (c : Fin 9) (st : Fin 4) (s : State) : Out :=
  .next (issueHead c st (opIs 0x48) (issueUnit c (fun _ => updateChk) plainEnv) s)

/-- ROUTE_SCORE (R248 to R251). -/
def execRouteScore (c : Fin 9) (st : Fin 4) (s : State) : Out :=
  .next (issueHead c st (opIs 0x30) (issueUnit c scoreChk plainEnv) s)

def applyIssue (c : Fin 9) (f : Fly) (s : State) : State :=
  issueUnit c (fun ch env d => applyChk ch env (ownStation s c) d) plainEnv f s

/-- ROUTE_APPLY in DISPATCH mode (R255); a body whose mode is not allowed is refused here too. -/
def execDispatch (c : Fin 9) (st : Fin 4) (s : State) : Out :=
  .next (issueHead c st (fun d => opIs 0x31 d && (apMode d = 0 || apMode d = 3)) (applyIssue c) s)

/-- ROUTE_APPLY in COLLECT mode (R261). -/
def execCollect (c : Fin 9) (st : Fin 4) (s : State) : Out :=
  .next (issueHead c st (fun d => opIs 0x31 d && apMode d = 1) (applyIssue c) s)

/-- ROUTE_APPLY in CLOSE mode (R267). -/
def execClose (c : Fin 9) (st : Fin 4) (s : State) : Out :=
  .next (issueHead c st (fun d => opIs 0x31 d && apMode d = 2) (applyIssue c) s)

end Sys2Proof.Machine
end

