-- ==== Sys2Proof/Machine/Hub.lean ====
section
/-! DEFINITION. The hub's work (R28 to R31, R299 to R309): reductions, loans of the spare channel's memory, offload to the host. -/
namespace Sys2Proof.Machine

/-- A descriptor of a unit ends, and its unit moves on. -/
def endMove (c : Fin 9) (f : Fly) (status flags : H16) (detail : Nat) (s : State) : State :=
  settle c (goOn c f.unit (sweep (endFly c f status flags (w32 detail) s)))

/-- A transfer that may not cross a disabled port completes RESET and is counted (R308, R309). -/
def portReset (c : Fin 9) (f : Fly) (s : State) : State := endMove c f stReset 0 0 (s.bump (gpage .hub) 0x10C 1)

/-- The oldest descriptor of a unit that has the feed and is not committed. -/
def uncommitted (s : State) (c : Fin 9) (u : UnitId) : Option Fly := oldest s c u fun f => f.begun && !f.committed

/-- The oldest descriptor of a unit that is committed and granted. -/
def granted (s : State) (c : Fin 9) (u : UnitId) : Option Fly := oldest s c u fun f => f.committed && f.granted && !f.done

/-! ## REDUCE (R299 to R302) -/

def rdGather (d : List Byte) : Bool := bitAt (fld d 20 1) 0
def rdPlanes (d : List Byte) : Byte := BitVec.ofNat 8 (fld d 21 1)
def rdId (d : List Byte) : W32 := w32 (fld d 24 4)
def rdLength (d : List Byte) : Nat := fld d 28 4 % 2 ^ 31

/-- A tensor that a REDUCE may name. -/
def rdTensor (t : List Byte) : Bool :=
  !iBlocked t && iRank t = 1 && !iScaled t && (iType t = tFP32 || iType t = tBF16 || iType t = tFP16)

/-- The checks at issue (R299). -/
def reduceChk (s : State) (c : Fin 9) (env : Env) (d : List Byte) : Chk :=
  let t := imgOf env d
  firstChk [fmtChk [handleBad d 16, handleBad d 18, reservedBad d ((20, 1) :: zeroBytes 22 24), badIf (rdLength d < 1) 28,
      reservedBad d ((31, 127) :: zeroBytes 32 64)],
    noHandle env d [16, 18],
    opChk (!rdTensor (t 16) || !rdTensor (t 18) || (rdGather d && iType (t 16) ≠ iType (t 18))) 0x0C01,
    aliasedChk env d [18],
    opChk (((s.planeOf c).map fun k => !(rdPlanes d).getLsbD k.val).getD true) 0x0C02]

/-- The participant that an issued REDUCE is. -/
def partOf (s : State) (c : Fin 9) (f : Fly) : RedPart :=
  ⟨(s.planeOf c).getD 0, c, f.no, rdGather f.desc, rdPlanes f.desc, rdLength f.desc, false⟩

/-- Ends every participant of a reduction, each with its own detail, and the reduction. -/
def failReduction (r : Reduction) (detail : RedPart → Nat) (s : State) : State :=
  let s := s.modHub fun h => { h with reductions := h.reductions.filter fun x => x.id ≠ r.id }
  s.each r.parts fun p s =>
    match s.findFly p.chan p.no with
    | some f => endMove p.chan f stOperand 0 (detail p) s
    | none => s

/-- The rendezvous in use: reductions and triangulations share eight (R300, R386). -/
def rendezvousUsed (s : State) : Nat := s.hub.reductions.length + (s.hub.tris.map TriWait.id).eraseDups.length

/-- A participant registers (R300): with the reduction of its REDUCE_ID, or as the first of a new one while fewer than eight are in
flight. One whose plane has registered already, and one whose reduction is past its rendezvous, waits. Participants that differ
fail (R299). `none`: it waits. -/
def register (id : W32) (p : RedPart) (s : State) : Option State :=
  match s.hub.reductions.find? fun r => r.id = id with
  | some r =>
    if r.met || r.parts.any (fun q => q.plane = p.plane) then none
    else
      let r' : Reduction := { r with parts := r.parts ++ [p] }
      if r.parts.any fun q => q.gather ≠ p.gather || q.planes ≠ p.planes || q.length ≠ p.length then
        some (failReduction r' (fun _ => 0x0C02) s)
      else some (s.modHub fun h => { h with reductions := h.reductions.map fun x => if x.id = id then r' else x })
  | none =>
    if 8 ≤ rendezvousUsed s then none
    else some (s.modHub fun h => { h with reductions := h.reductions ++ [⟨id, [p], false⟩] })

/-- A REDUCE issues: it enters its unit and registers, or waits for a place (R300). -/
def reduceIssue (c : Fin 9) (f : Fly) (s : State) : State :=
  match reduceChk s c f.env f.desc with
  | some (st, detail) => refuseAt c f st 0 detail s
  | none =>
    let s := enter c f s
    let p := partOf s c f
    if !alive s c f.no then s
    else match register (rdId f.desc) p s with
    | some s => s
    | none => s.modHub fun h => { h with waiting := h.waiting ++ [(rdId f.desc, p)] }

/-- The oldest waiting REDUCE of a channel that can register now does. -/
def registerWaiting (c : Fin 9) (s : State) : State :=
  match s.hub.waiting.find? fun w => w.2.chan = c && (register w.1 w.2 s).isSome with
  | some w =>
    let s := s.modHub fun h => { h with waiting := h.waiting.filter fun x => !(x.2.chan = c && x.2.no = w.2.no) }
    (register w.1 w.2 s).getD s
  | none => s

/-- A participant's plane is present: its channel is the plane's and SERVING (R300, R308). -/
def present (s : State) (p : RedPart) : Bool := s.planeOf p.chan = some p.plane && (s.chan p.chan).role = .serving

/-- The live planes' participants, in ascending plane order. -/
def liveParts (r : Reduction) : List RedPart :=
  (List.finRange 8).filterMap fun k => r.parts.find? fun p => p.plane = k

/-- Slice `j` of `n` of `len` elements: its first element and the next slice's. -/
def sliceOf (len n j : Nat) : Nat × Nat := (j * len / n, (j + 1) * len / n)

/-- The planes named by PLANES that have not registered. -/
def missingPlanes (r : Reduction) : List (Fin 8) :=
  match r.parts with
  | [] => []
  | p :: _ => (List.finRange 8).filter fun k => p.planes.getLsbD k.val && !(r.parts.any fun q => q.plane = k)

/-- A participant's tensors are too small for the live set (R300). -/
def tooSmall (s : State) (n j : Nat) (p : RedPart) : Bool :=
  match s.findFly p.chan p.no with
  | none => true
  | some f =>
    let (lo, hi) := sliceOf p.length n j
    let src := iSize (imgOf f.env f.desc 16) 0
    let dst := iSize (imgOf f.env f.desc 18) 0
    if p.gather then src < hi - lo || dst < p.length else src < p.length || dst < hi - lo

/-- The rendezvous (R300, R301): reached when every plane named has registered or its channel is not SERVING. A registered REDUCE whose
channel is not SERVING then is no participant: it waits for another reduction of its REDUCE_ID (DESIGN CHOICE, log 73). -/
def rendezvous (id : W32) (s : State) : State :=
  match s.hub.reductions.find? fun r => r.id = id with
  | none => s
  | some r0 =>
    let r := { r0 with parts := r0.parts.filter (present s) }
    let missing := missingPlanes r
    if r0.met || r.parts.isEmpty || missing.any (fun k => (s.chan (s.planeChan k)).role = .serving) then s
    else
      let s := s.modHub fun h =>
        { h with waiting := h.waiting ++ (r0.parts.filter fun p => !present s p).map (fun p => (id, p)),
                 reductions := h.reductions.map fun x => if x.id = id then r else x }
      if !missing.isEmpty && s.field (gpage .hub) 0x108 0 0 = 1 then failReduction r (fun _ => 0x0C04) s
      else
        let live := liveParts r
        let small := live.zipIdx.filter fun e => tooSmall s live.length e.2 e.1
        if !small.isEmpty then failReduction r (fun p => if small.any (fun e => e.1.no = p.no && e.1.chan = p.chan) then 0x0C01 else 0x0C02) s
        else
          let s := s.when (!missing.isEmpty) (cause (gpage .hub) 16)
          s.modHub fun h => { h with reductions := h.reductions.map fun x => if x.id = id then { x with met := true } else x }

/-- What the `j`-th live participant writes (R301). -/
def reduceResult (s : State) (live : List RedPart) (j : Nat) (omitted : Nat) (me : RedPart) (f : Fly) : Result :=
  let n := live.length
  let src := fun (p : RedPart) => match s.findFly p.chan p.no with
    | some g => ((s.chan p.chan).mem, imgOf g.env g.desc 16)
    | none => ([], [])
  let rd := fun (p : RedPart) (i : Nat) => let (m, t) := src p; readElem m t [i]
  let (lo, hi) := sliceOf me.length n j
  let dst := imgOf f.env f.desc 18
  let detail := live.foldl (fun a p => a + 2 ^ p.plane.val) 0 + omitted * 2 ^ 8 + j * 2 ^ 16
  let (out, tally) := (do
    let els ← if me.gather then
        pure (live.zipIdx.flatMap fun e =>
          let (l, h) := sliceOf me.length n e.2
          (List.range (h - l)).map fun i => ([l + i], rd e.1 i))
      else
        (List.range (hi - lo)).mapM fun i => do
          let v ← match live with
            | [] => pure Val.zero
            | p :: ps => ps.foldlM (fun a q => add32 a (rd q (lo + i))) (rd p (lo + i))
          if v.isNan then noteNan
          return ([i], v)
    storeElems dst [] false none els : NumM Stored) Tally.none
  resultOf tally false 0 detail (unitsEff [out])

/-- What a participant reads of its source: all of it in RS mode, its own slice in AG mode (R301). -/
def partReads (s : State) (p : RedPart) : List Span :=
  match s.findFly p.chan p.no with
  | some f => tensorSpans (imgOf f.env f.desc 16)
  | none => []

/-- The contributions cross the hub once every participant is committed: each participant's outcome is fixed and counted. One whose source
meets a fenced stack completes RESET, and with it every other (R302, R317). -/
def transferAll (r : Reduction) (s : State) : State :=
  let live := liveParts r
  match live.find? fun p => accessBlocked s p.chan false (partReads s p) with
  | some p =>
    match s.findFly p.chan p.no with
    | some f => endMove p.chan f stReset 0 0 s
    | none => s
  | none =>
    let omitted := (missingPlanes r).foldl (fun a k => a + 2 ^ k.val) 0
    let outs := live.zipIdx.filterMap fun e => (s.findFly e.1.chan e.1.no).map fun f => (e.1, f, reduceResult s live e.2 omitted e.1 f)
    s.each outs fun o s =>
      let (p, f, res) := o
      let s := readSpans p.chan (readReq p.chan .reduce p.no) maxTransaction (partReads s p) s
      let s := s.each res.effs (countEff p.chan)
      s.modFly p.chan p.no fun g => { g with effs := res.effs, flags := res.flags, detail := w32 res.detail, granted := true }

/-- The commit of a REDUCE (R301): its first contribution leaves after the rendezvous. A reduction that needs a disabled port
completes RESET for all. -/
def commitReduce (c : Fin 9) (s : State) : State :=
  let metBy := fun (f : Fly) => s.hub.reductions.find? fun r => r.met && r.parts.any fun p => p.chan = c && p.no = f.no
  match oldest s c .reduce (fun f => !f.committed && (metBy f).isSome) with
  | none => s
  | some f =>
    match metBy f with
    | none => s
    | some r =>
      if 1 < r.parts.length && r.parts.any (fun p => !portOn s p.chan) then
        let s := s.modHub fun h => { h with reductions := h.reductions.filter fun x => x.id ≠ r.id }
        s.each r.parts fun p s =>
          match s.findFly p.chan p.no with
          | some g => if g.committed then endMove p.chan g stReset 0 0 s else portReset p.chan g s
          | none => s
      else
        let s := goOn c .reduce (s.modFly c f.no fun g => { g with committed := true, begun := true, phase := .fed })
        if r.parts.all fun p => ((s.findFly p.chan p.no).map Fly.committed).getD false then transferAll r s else s

/-- A participant has completed; the reduction ends with the last (R300). -/
def partDone (c : Fin 9) (no : Nat) (s : State) : State :=
  let mark := fun (r : Reduction) =>
    { r with parts := r.parts.map fun p => if p.chan = c && p.no = no then { p with finished := true } else p }
  s.modHub fun h => { h with reductions := (h.reductions.map mark).filter fun r => !(r.parts.all RedPart.finished) }

/-- A participant completes. One whose writes meet a fenced stack completes RESET, and so does every other that has not completed (R302). -/
def completeReduce (c : Fin 9) (f : Fly) (s : State) : State :=
  if accessBlocked s c true (f.effs.flatMap Eff.spans) then endMove c f stReset 0 0 s else completeFly c f (partDone c f.no s)

/-- A rendezvous not reached within WAIT_MS (R299): the REDUCE of a channel completes, and its registration ends. -/
def reduceTimeout (c : Fin 9) (id : W32) (s : State) : State :=
  let waits := fun (no : Nat) =>
    s.hub.waiting.any (fun w => w.1 = id && w.2.chan = c && w.2.no = no) ||
      s.hub.reductions.any fun r => r.id = id && !r.met && r.parts.any fun p => p.chan = c && p.no = no
  if s.field (gpage .hub) 0x108 15 8 = 0 then s
  else match oldest s c .reduce fun f => waits f.no with
    | some f => endMove c f stOperand 0 0x0C03 s
    | none => s

/-! ## Loans (R306, R307) -/

def lnPut (d : List Byte) : Bool := dOpcode d = 0x58
def lnLocal (d : List Byte) : Nat := fld d 16 5
def lnLend (d : List Byte) : Nat := fld d 24 5
def lnLength (d : List Byte) : Nat := fld d 32 4 % 2 ^ 31
def lnId (d : List Byte) : Nat := fld d 36 1
def lnNew (d : List Byte) : Bool := lnPut d && bitAt (fld d 37 1) 0
def lnRelease (d : List Byte) : Bool := !lnPut d && bitAt (fld d 37 1) 1

/-- The channel that lends: the one in state SPARE or LENDING. -/
def lenderOf (s : State) : Option (Fin 9) := allChans.find? fun c => (s.chan c).role = .spare || (s.chan c).role = .lending

def loanFmt (d : List Byte) : Chk :=
  fmtChk [badIf (lnLocal d % 64 ≠ 0) 16, reservedBad d (addr40 16), badIf (lnLend d % 64 ≠ 0) 24, reservedBad d (addr40 24),
    badIf (lnLength d < 64 || lnLength d % 64 ≠ 0 || 1073741824 < lnLength d) 32, reservedBad d [(35, 127)],
    reservedBad d ((37, if lnPut d then 1 else 2) :: zeroBytes 38 64)]

/-- The hub's checks in the order of the table (R306). -/
def loanChk (s : State) (c : Fin 9) (d : List Byte) : Chk :=
  let entry := (s.hub.loans.find? fun l => l.1 = lnId d).map Prod.snd
  let active := (entry.map fun l => !l.recalled).getD false
  let mine := (entry.map fun l => decide (s.planeOf c = some l.plane)).getD false
  let stop := lnLend d + lnLength d
  let meets := fun (l : Nat × Loan) => !l.2.recalled && decide (l.2.base < stop) && decide (lnLend d < l.2.base + l.2.length)
  let within := (entry.map fun l => decide (l.base ≤ lnLend d) && decide (stop ≤ l.base + l.length)).getD false
  firstChk [loanFmt d, opChk (lenderOf s).isNone 0x0C21, opChk (!lnNew d && (entry.map Loan.recalled).getD false) 0x0C25,
    opChk (if lnNew d then active || (s.planeOf c).isNone else !active || !mine) 0x0C23,
    opChk (lnNew d && s.hub.loans.any meets) 0x0C24,
    opChk (!inMap (lnLend d) (lnLength d) || (!lnNew d && !within)) 0x0C22]

def loanIssue (c : Fin 9) (f : Fly) (s : State) : State :=
  match loanChk s c f.desc with
  | some (st, detail) => refuseAt c f st (if detail = 0x0C25 && st = stOperand then flLoanRecalled else 0) detail s
  | none => enter c f s

/-- The commit of a loan descriptor: its first beat over the hub. A NEW PUT creates the loan, and the lender lends (R306). -/
def commitLoan (c : Fin 9) (s : State) : State :=
  match uncommitted s c .loan with
  | none => s
  | some f =>
    let d := f.desc
    match lenderOf s with
    | none => endMove c f stReset 0 0 s
    | some l =>
      if !portOn s c || !portOn s l then portReset c f s
      else
        let s := s.when (lnNew d) fun s =>
          let loan : Loan := ⟨(s.planeOf c).getD 0, lnLend d, lnLength d, false⟩
          let s := s.modHub fun h => { h with loans := (h.loans.filter fun x => x.1 ≠ lnId d) ++ [(lnId d, loan)] }
          setRole l .lending false s
        let q := readReq c .loan f.no
        let (at_, from_, eff) : Nat × Fin 9 × Eff :=
          if lnPut d then (lnLocal d, c, .remote l (lnLend d) (memRds (s.chan c).mem (lnLocal d) (lnLength d)))
          else (lnLend d, l, .store (lnLocal d) (memRds (s.chan l).mem (lnLend d) (lnLength d)))
        let f := { f with committed := true, granted := true }
        let s := s.modFly c f.no fun g => { g with committed := true, granted := true, effs := [eff] }
        if accessBlocked s from_ false [(at_, lnLength d)] then endMove c f stReset 0 0 s
        else readSpans from_ (if from_ = c then q else hubReq) maxTransaction [(at_, lnLength d)] s

/-- A GET with RELEASE ends its loan; the lender is SPARE again with its last (R306). -/
def releaseLoan (d : List Byte) (s : State) : State :=
  if !lnRelease d then s
  else
    let s := s.modHub fun h => { h with loans := h.loans.filter fun x => x.1 ≠ lnId d || x.2.recalled }
    if s.hub.loans.all fun x => x.2.recalled then
      s.each (allChans.filter fun c => (s.chan c).role = .lending) fun c => setRole c .spare false
    else s

/-- A loan descriptor completes. One whose write in the lender meets a fenced stack completes RESET (R317). -/
def completeLoan (c : Fin 9) (f : Fly) (s : State) : State :=
  let stops := f.effs.any fun e => match e with | .remote d a bs => accessBlocked s d true [(a, bs.length)] | _ => false
  if stops then endMove c f stReset 0 0 s else releaseLoan f.desc (completeFly c f s)

/-! ## Offload (R304, R305) -/

def ofPut (d : List Byte) : Bool := dOpcode d = 0x5A
def ofAddr (d : List Byte) : Nat := fld d 16 5
def ofLength (d : List Byte) : Nat := fld d 24 4 % 2 ^ 31
def ofTag (d : List Byte) : W64 := BitVec.ofNat 64 (fld d 32 8)

def offloadChk (s : State) (d : List Byte) : Chk :=
  firstChk [fmtChk [badIf (ofAddr d % 64 ≠ 0) 16, reservedBad d (addr40 16),
      badIf (ofLength d < 64 || ofLength d % 64 ≠ 0 || 1073741824 < ofLength d) 24, reservedBad d ((27, 127) :: zeroBytes 28 32),
      badIf (ofTag d = 0) 32, reservedBad d (zeroBytes 40 64)],
    opChk (ofPut d && !s.hostKnown) 0x0C11,
    opChk (!ofPut d && s.hub.gets.any fun g => g.tag = ofTag d) 0x0C12]

def offloadIssue (c : Fin 9) (f : Fly) (s : State) : State :=
  match offloadChk s f.desc with
  | some (st, detail) => refuseAt c f st 0 detail s
  | none => enter c f s

/-- A MEM_DATA frame that the module originates for an offload: class 1, the device memory address, the descriptor's tag. -/
def offloadFrame (s : State) (c : Fin 9) (addr : Nat) (tag : W64) (first last : Bool) (payload : List Byte) : TxFrame :=
  { originated s 0x6 (2 + c.val) ((2 + c.val) * 2 ^ 60 + addr) first last payload with cls := 1, tag }

/-- The frames of the OFFLOAD_PUTs enter the out-queue while it has room, oldest first. -/
def pumpPuts : Nat → State → State
  | 0, s => s
  | fuel + 1, s =>
    match s.hub.puts.find? fun p => p.framed < p.length with
    | none => s
    | some p =>
      if s.outqFull then s
      else
        let n := min 8192 (p.length - p.framed)
        let a := p.addr + p.framed
        let seq := s.icp.txSeq
        let f := offloadFrame s p.chan a p.tag (p.framed = 0) (p.framed + n = p.length) (memRds (s.chan p.chan).mem a n)
        let s := readSpans p.chan (readReq p.chan .offload p.no) maxTransaction [(a, n)] (enqueueTx f (some (p.chan, a, n)) s)
        pumpPuts fuel (s.modHub fun h =>
          { h with puts := h.puts.map fun q => if q.chan = p.chan && q.no = p.no then { q with framed := p.framed + n, last := seq } else q })

/-- As many frames as the out-queue can hold. -/
def pump (s : State) : State := pumpPuts outqMax s

/-- The commit of an offload descriptor (R304, R305). A GET waits for one of the 16 places, for room in the out-queue, and for the
host's address. -/
def commitOffload (c : Fin 9) (s : State) : State :=
  match uncommitted s c .offload with
  | none => s
  | some f =>
    let d := f.desc
    if !portOn s c || !hostPortOn s then portReset c f s
    else if ofPut d then
      if accessBlocked s c false [(ofAddr d, ofLength d)] then endMove c f stReset 0 0 s else
      let s := s.modFly c f.no fun g => { g with committed := true, granted := true }
      pump (s.modHub fun h => { h with puts := h.puts ++ [⟨c, f.no, ofAddr d, ofLength d, ofTag d, 0, 0⟩] })
    else if s.hub.gets.any fun g => g.tag = ofTag d then endMove c f stOperand 0 0x0C12 s
    else if 16 ≤ s.hub.gets.length || s.outqFull || !s.hostKnown then s
    else
      let req := { offloadFrame s c (ofAddr d) (ofTag d) true true [] with ack := w32 (ofLength d / 64) }
      let s := enqueueTx req none s
      let s := s.modHub fun h => { h with gets := h.gets ++ [⟨c, f.no, ofAddr d, ofLength d, ofTag d, 0⟩] }
      goOn c .offload (s.modFly c f.no fun g => { g with committed := true, granted := true, phase := .fed })

/-- A sequence number is at or before another (R50's serial order). -/
def seqLe (a b : W32) : Bool := (b - a).toNat < 2 ^ 31

/-- An offload descriptor has all it waits for: its last frame acknowledged, or its data counted. -/
def offloadDone (s : State) (f : Fly) (c : Fin 9) : Bool :=
  (s.hub.puts.any fun p => p.chan = c && p.no = f.no && p.framed = p.length && seqLe p.last s.icp.txAcked) ||
    s.hub.gets.any fun g => g.chan = c && g.no = f.no && g.length ≤ g.count

/-- Counts a tagged MEM_WRITE toward the OFFLOAD_GET it answers (R305): the bytes within the range. -/
def countGet (c : Fin 9) (tag : W64) (addr n : Nat) (s : State) : State :=
  s.modHub fun h =>
    { h with gets := h.gets.map fun g =>
        if g.chan = c && g.tag = tag then { g with count := g.count + (min (addr + n) (g.addr + g.length) - max addr g.addr) } else g }

/-! ## Disabled ports (R308) -/

/-- A descriptor whose committed transfer crosses a port that is disabled: of a loan the lender's port too, of an offload the host's, of a
reduction every participant's, of a read from another channel's store that channel's. -/
def crosses (s : State) (off : Fin 9 → Bool) (hostOff : Bool) (c : Fin 9) (f : Fly) : Bool :=
  f.committed && match f.unit with
  | .loan => off c || (lenderOf s).any off
  | .offload => off c || hostOff
  | .reduce => s.hub.reductions.any fun r => r.met && 1 < r.parts.length && r.parts.any (fun q => q.chan = c && q.no = f.no) &&
      r.parts.any fun q => off q.chan
  | .plat => dOpcode f.desc = 0x51 && fld f.desc 16 1 % 4 = 1 &&
      (off c || allChans.any fun d => d.val = fld f.desc 17 1 % 16 && off d)
  | _ => false

/-- A write of HUB.PORT_EN: transfers to and from a port that it disables complete RESET and are counted. -/
def portEnWrite (v : W32) (s : State) : State :=
  let s := s.setReg (gpage .hub) 0x100 (v &&& 0x3FF)
  let off := fun (c : Fin 9) => !bitAt v.toNat c.val
  s.each allChans fun c s => s.each ((s.chan c).fly.filter (crosses s off (!bitAt v.toNat 9) c)) fun f s =>
    if !alive s c f.no then s else if f.unit = .plat then portReset c f s else endMove c f stReset 0 0 s

/-! ## Meanings -/

/-- REDUCE (R299 to R302). -/
def execReduce (c : Fin 9) (st : Fin 4) (s : State) : Out := .next (issueHead c st (opIs 0x40) (reduceIssue c) s)

/-- REDUCE_REGISTER (R300). -/
def execReduceRegister (c : Fin 9) (s : State) : Out := .next (registerWaiting c s)

/-- REDUCE_RENDEZVOUS (R300). -/
def execReduceRendezvous (id : W32) (s : State) : Out := .next (rendezvous id s)

/-- REDUCE_TIMEOUT (R299). -/
def execReduceTimeout (c : Fin 9) (id : W32) (s : State) : Out := .next (reduceTimeout c id s)

/-- LOAN_PUT (R306). -/
def execLoanPut (c : Fin 9) (st : Fin 4) (s : State) : Out :=
  .next (issueHead c st (opIs 0x58) (loanIssue c) s)

/-- LOAN_GET (R306). -/
def execLoanGet (c : Fin 9) (st : Fin 4) (s : State) : Out :=
  .next (issueHead c st (opIs 0x59) (loanIssue c) s)

/-- OFFLOAD_PUT (R304). -/
def execOffloadPut (c : Fin 9) (st : Fin 4) (s : State) : Out :=
  .next (issueHead c st (opIs 0x5A) (offloadIssue c) s)

/-- OFFLOAD_GET (R305). -/
def execOffloadGet (c : Fin 9) (st : Fin 4) (s : State) : Out :=
  .next (issueHead c st (opIs 0x5B) (offloadIssue c) s)

end Sys2Proof.Machine
end

