-- ==== Sys2Proof/Machine/Flits.lean ====
section
/-! DEFINITION. Flits on their way out of a station (R342, R352 to R355): routing, arbitration, credits, the line. -/
namespace Sys2Proof.Machine

/-- A port's receive buffer, flits per lane and class (R354). -/
def bufferShare : List Nat := [512, 512, 256, 256, 128, 128, 128, 128]

/-- Counts flits discarded at a port (R342, R358, R361). -/
def discardCount (c : Fin 9) (p : Fin 6) (n : Nat) (s : State) : State := s.bumpField (travPage c p) 0x100 31 16 n

/-! ## Routing (R342) -/

/-- What a bearing entry says: the output port, and the class of the flit as it leaves. -/
def entryPort (e : Nat) : Option (Fin 6) := if h : e % 8 < 6 then some ⟨e % 8, h⟩ else none

def entryClass (e : Nat) (cls : Fin 2) : Fin 2 :=
  match e / 8 % 4 with
  | 1 => 0
  | 2 => 1
  | _ => cls

/-- A flit of this station enters the port that its destination's entry names, or the local path; one that meets an unreachable
entry goes nowhere (log 15). -/
def routeOwn (c : Fin 9) (owner : Option Nat) (f : Flit) (s : State) : State :=
  match bearingFor s c f.dest.toNat with
  | none => s.modChan c fun ch => { ch with localHeld := ch.localHeld ++ [⟨f, owner, none, f.cls⟩] }
  | some e =>
    match entryPort e with
    | some p => s.modPort c p fun q => { q with txq := q.txq ++ [⟨{ f with cls := entryClass e f.cls }, owner, none, f.cls⟩] }
    | none => s

/-! ## The output side of a port (R352 to R355) -/

/-- A queued flit may leave now. -/
def flitReady (q : Port) (t : TxFlit) : Bool := 0 < q.credits.getD (slotIx t.flit.lane t.flit.cls) 0

/-- The inputs of a port in their round-robin order within a lane: the sending engine, then the arrival ports. -/
def inputNo (t : TxFlit) : Nat := match t.src with | none => 0 | some p => p.val + 1

/-- The next flit of a lane: the inputs take turns (R355). -/
def laneNext (q : Port) (lane : Fin 4) : Option TxFlit :=
  ((List.range 7).map fun k => (q.turns.getD lane.val 0 + k) % 7).findSome? fun i =>
    q.txq.find? fun t => t.flit.lane = lane && inputNo t = i && flitReady q t

/-- The next flit of a port (R355): control; exchange and reduction in turn; plat in the slots left, and at least once in 16. -/
def nextFlit (q : Port) : Option TxFlit :=
  let plat := laneNext q 2
  let rest := match laneNext q 3 with
    | some t => some t
    | none =>
      let x := laneNext q 0
      let r := laneNext q 1
      if q.redTurn then (if r.isSome then r else x) else (if x.isSome then x else r)
  if plat.isSome && (rest.isNone || 15 ≤ q.platWait) then plat else rest

/-- A flit leaves a port: it takes the next link sequence, a credit, and a place in the replay buffer; its envelope acknowledges
and returns credits of its lane and class (R352 to R354, log 15). -/
def sendFlit (c : Fin 9) (p : Fin 6) (t : TxFlit) (s : State) : State :=
  let q := s.port c p
  let platWaits := (laneNext q 2).isSome
  let i := slotIx t.flit.lane t.flit.cls
  let f := { t.flit with seq := q.nextSeq }
  let back := min 63 (q.creditRet.getD i 0 - q.creditTold.getD i 0).toNat
  let s := s.modPort c p fun q =>
    { q with
      txq := q.txq.erase t
      replay := q.replay ++ [{ t with flit := f }]
      nextSeq := q.nextSeq + 1
      credits := q.credits.set i (q.credits.getD i 0 - 1)
      creditTold := addAt16 q.creditTold i back
      turns := q.turns.set t.flit.lane.val ((inputNo t + 1) % 7)
      redTurn := if t.flit.lane = 0 then true else if t.flit.lane = 1 then false else q.redTurn
      platWait := if t.flit.lane = 2 || !platWaits then 0 else q.platWait + 1
      ackTold := q.rxSeq
      line := q.line ++ [flitBytes f q.rxSeq t.flit.lane.val back] }
  leaveBuffer c t s

/-- An IDLE flit with the acknowledgement, and credit returns of a lane and class (R352). -/
def idleFlit (i n : Nat) (q : Port) : Port :=
  let f : Flit := ⟨0, 0, 0, 3, 0, ⟨i % 2, by omega⟩, 0, 256, 0, []⟩
  { q with line := q.line ++ [flitBytes f q.rxSeq (i / 2) n], creditTold := addAt16 q.creditTold i n, ackTold := q.rxSeq }

/-- IDLE flits fill a line on which no other flit is ready (R352); of them those are put on it that tell the peer something new: credits
returned, or else an acknowledgement alone (log 74). -/
def sendIdle (c : Fin 9) (p : Fin 6) (s : State) : State :=
  if (s.port c p).state ≠ .active then s
  else s.modPort c p fun q =>
    let q := (List.range 8).foldl (fun q i =>
      let n := min 63 (q.creditRet.getD i 0 - q.creditTold.getD i 0).toNat
      if n = 0 then q else idleFlit i n q) q
    if q.ackTold = q.rxSeq then q else idleFlit 0 0 q

/-- Flits leave a port while it may send: its link ACTIVE, no lost lock, room in the replay buffer of 2,048. -/
def pumpPort (c : Fin 9) (p : Fin 6) : Nat → State → State
  | 0, s => s
  | fuel + 1, s =>
    let q := s.port c p
    if q.state ≠ .active || q.lockLost || 2048 ≤ q.replay.length then s
    else match nextFlit q with
      | some t => pumpPort c p fuel (sendFlit c p t s)
      | none => s

/-- Every port of a station sends what it may. -/
def pumpAll (c : Fin 9) (s : State) : State := s.each allPorts fun p s => pumpPort c p (s.port c p).txq.length s

/-! ## Messages in flits (R352, R358) -/

/-- The flits of a message: 256 bytes each, the last of 64, 128, 192 or 256, with consecutive offsets. -/
def msgFlits (own dest : Nat) (lane : Fin 4) (window off : Nat) (bytes : List Byte) : List Flit :=
  let n := (bytes.length + 255) / 256
  (List.range n).map fun k =>
    let part := (bytes.drop (256 * k)).take 256
    ⟨BitVec.ofNat 14 dest, BitVec.ofNat 14 own, lane, if k + 1 = n then 1 else 0, window, 0, (off + k) % 2 ^ 22, part.length, 0, part⟩

/-! ## Stations (R340, R341) -/

/-- The channel is a station: it serves a plane and its address is assigned. -/
def isStation (s : State) (c : Fin 9) : Bool := (s.planeOf c).isSome && s.field (cpage c .bearing) 0x100 14 14 = 1

/-- A port's links may come up (R341). -/
def portWanted (s : State) (c : Fin 9) (p : Fin 6) : Bool :=
  s.powered c && isStation s c && !s.fenced (travPage c p) && s.domOn (travPage c p)

/-- Ports whose conditions hold start training; ports in training whose conditions fail stop, and hold on to what they hold of a link that was
lost (R341, R349, R363). -/
def linkCheck (c : Fin 9) (s : State) : State :=
  s.each allPorts fun p s =>
    let st := (s.port c p).state
    if st = .off && portWanted s c p then s.modPort c p fun q => { q with state := .training }
    else if st = .training && !portWanted s c p then s.modPort c p fun q => { q with state := if q.peer.isSome then .hold else .off, identOk := false, msgs := [] }
    else s

end Sys2Proof.Machine
end

