-- ==== Sys2Proof/Machine/Plat.lean ====
section
/-! DEFINITION. Plats (R367 to R388): the store, PLAT_WRITE and PLAT_READ, partner copies, triangulation, NAND errors. -/
namespace Sys2Proof.Machine

def platPage (c : Fin 9) : Page := cpage c .plat

/-- Segments of an image: address, length, shard, and whether every replica holds it. -/
abbrev Seg := Nat × Nat × Nat × Bool

/-! ## Images (R371, R375) -/

def imageBytes (segs : List Seg) : Nat := (segs.map fun g => g.2.1).sum

def segEntry (g : Seg) : List Byte := toLE 8 g.1 ++ toLE 8 (g.2.1 + g.2.2.1 * 2 ^ 40 + boolBit g.2.2.2 44)

/-- The 32 KiB generation header (R375). -/
def PlatImage.header (i : PlatImage) : List Byte :=
  let head := toLE 4 i.gen.toNat ++ toLE 1 (boolBit i.complete 0) ++ toLE 1 (i.plane.val + i.chan.val * 16) ++ toLE 2 i.station.toNat ++
    toLE 2 i.segs.length ++ List.replicate 6 0 ++ toLE 8 i.time ++ toLE 8 i.step.toNat ++ toLE 8 i.seed.toNat ++
    toLE 8 (imageBytes i.segs) ++ List.replicate 16 0 ++ i.hashes.flatten ++ List.replicate 192 0 ++ i.segs.flatMap segEntry
  let body := (head ++ List.replicate 32764 0).take 32764
  body ++ toLE 4 (crc32c body).toNat

/-- A segment list entry as read from bytes. -/
def segOf (b : List Byte) : Seg := (fld b 0 5, fld b 8 5, bitsOf (fld b 8 8) 43 40, bitAt (fld b 8 8) 44)

/-- An image from its header and data: what a store writes for a copy it has received. `none`: its CHECK fails. -/
def imageOf (bytes : List Byte) : Option PlatImage :=
  let h := bytes.take 32768
  if fld h 32764 4 ≠ (crc32c (h.take 32764)).toNat then none
  else
    let segs := (List.range (min 1024 (fld h 8 2))).map fun i => segOf ((h.drop (1024 + 16 * i)).take 16)
    let cut := segs.foldl (fun (a : List (List Byte) × List Byte) g => (a.1 ++ [a.2.take g.2.1], a.2.drop g.2.1)) ([], bytes.drop 32768)
    some ⟨w32 (fld h 0 4), bitAt (fld h 4 1) 0, ⟨fld h 5 1 % 8, by omega⟩, ⟨fld h 5 1 / 16 % 9, by omega⟩, BitVec.ofNat 14 (fld h 6 2), fld h 16 8,
      BitVec.ofNat 64 (fld h 24 8), BitVec.ofNat 64 (fld h 32 8), segs, cut.1,
      (List.range 16).map (fun s => (h.drop (64 + 48 * s)).take 48), true⟩

def PlatImage.bytes (i : PlatImage) : List Byte := i.header ++ i.data.flatten

/-- The shard hashes of segments and their data (R371). -/
def shardHashes (segs : List Seg) (data : List (List Byte)) : List (List Byte) :=
  (List.range 16).map fun s =>
    let mine := (segs.zip data).filter fun g => g.1.2.2.2 && g.1.2.2.1 = s
    if mine.isEmpty then List.replicate 48 0 else sha384 (mine.flatMap Prod.snd)

/-- The segment list of a descriptor. -/
def segList (m : List Host.Cell) (a n : Nat) : List (List Byte) := (List.range n).map fun i => memRds m (a + 16 * i) 16

/-- An entry of a segment list offends: reserved bits, alignment, a length of zero, or a range outside the map. -/
def segBad (b : List Byte) : Bool :=
  fld b 5 3 ≠ 0 || fld b 8 8 / 2 ^ 45 ≠ 0 || fld b 0 5 % 64 ≠ 0 || fld b 8 5 % 64 ≠ 0 || fld b 8 5 = 0 || !inMap (fld b 0 5) (fld b 8 5)

/-- Two segments of a list overlap. -/
def segsOverlap : List Seg → Bool
  | [] => false
  | g :: gs => gs.any (fun h => decide (g.1 < h.1 + h.2.1) && decide (h.1 < g.1 + g.2.1)) || segsOverlap gs

/-- A segment list may be used (R370, R383). -/
def segListOk (m : List Host.Cell) (a n : Nat) : Bool :=
  inMap a (16 * n) && (let l := segList m a n
    !(l.any segBad) && !segsOverlap (l.map segOf) && imageBytes (l.map segOf) ≤ 2 ^ 37)

/-! ## The store (R367, R382, R393) -/

/-- The complete generations of a plane in a channel's own area, newest first. -/
def ownGens (s : State) (c : Fin 9) (k : Fin 8) : List PlatImage :=
  (((s.chan c).plat.own.toList.filterMap id).filter fun i => i.complete && i.readable && i.plane = k) |> sortBy fun a b => b.gen.toNat ≤ a.gen.toNat

/-- `PLAT.GENERATION` (R393). -/
def newestGen (s : State) (c : Fin 9) : W32 :=
  match s.planeOf c with
  | some k => (((ownGens s c k).head?).map PlatImage.gen).getD 0
  | none => 0

/-- The generation that GEN_SEL names (R382): 0 NEWEST, 1 PREVIOUS, 2 NUMBER. -/
def pickGen (l : List PlatImage) (sel : Nat) (gen : W32) : Option PlatImage :=
  match sel with
  | 0 => l[0]?
  | 1 => l[1]?
  | _ => l.find? fun i => i.gen = gen

/-- The free own slot (R371): one without a complete generation, or the oldest. -/
def freeSlot (own : Vector (Option PlatImage) 3) : Fin 3 :=
  let full := fun (i : Fin 3) => ((own[i.val]).map fun x => x.complete && x.readable).getD false
  let gen := fun (i : Fin 3) => ((own[i.val]).map fun x => x.gen.toNat).getD 0
  match (List.finRange 3).find? fun i => !full i with
  | some i => i
  | none => (List.finRange 3).foldl (fun a i => if gen i < gen a then i else a) 0

/-- After a generation is written, the oldest complete generation beyond two is freed (log 16). -/
def freeOldest (slot : Fin 3) (plane : Fin 8) (own : Vector (Option PlatImage) 3) : Vector (Option PlatImage) 3 :=
  let rank := fun (i : Fin 3) => match own[i.val] with
    | some x => if x.complete then (if x.plane = plane then 2 ^ 32 else 0) + x.gen.toNat + 1 else 0
    | none => 0
  let others := (List.finRange 3).filter fun i => i ≠ slot && 0 < rank i
  match others with
  | [a, b] => own.set (if rank a < rank b then a else b).val none
  | _ => own

/-! ## Messages to partners (R376, R377) -/

/-- A message of the plat controller to another station on the control lane (log 16). -/
def platMsg (c : Fin 9) (dest : BitVec 14) (code : Nat) (arg : Nat) (s : State) : State :=
  let pay := toLE 1 code ++ toLE 7 0 ++ toLE 4 arg ++ List.replicate 52 0
  pumpAll c (s.each (msgFlits (ownStation s c) dest.toNat 3 0 0 pay) (routeOwn c none))

/-- An image on the plat lane (log 16): window 0 a copy, window 1 an image asked for. -/
def platData (c : Fin 9) (dest : BitVec 14) (window : Nat) (bytes : List Byte) (s : State) : State :=
  pumpAll c (s.each (msgFlits (ownStation s c) dest.toNat 2 window 0 bytes) (routeOwn c none))

/-- A station can be reached by the bearing tables. -/
def reachable (s : State) (c : Fin 9) (dest : BitVec 14) : Bool :=
  isStation s c && ((bearingFor s c dest.toNat).map fun e => (entryPort e).isSome).getD false

def partnerOff (second : Bool) : Nat := if second then 0x10C else 0x108
def partnerStation (s : State) (c : Fin 9) (second : Bool) : BitVec 14 := BitVec.ofNat 14 (s.field (platPage c) (partnerOff second) 13 0)
def partnerOn (s : State) (c : Fin 9) (second : Bool) : Bool := s.field (platPage c) (partnerOff second) 14 14 = 1

/-- The next copy in turn opens its session (R376); a partner that cannot be reached fails its copy (R380). -/
def startCopy (c : Fin 9) : Nat → State → State
  | 0, s => s
  | fuel + 1, s =>
    let x := (s.chan c).plat
    match x.copyOut, x.copyQueue with
    | none, second :: rest =>
      let s := s.modPlat c fun x => { x with copyQueue := rest }
      let st := partnerStation s c second
      if !partnerOn s c second || newestGen s c = 0 then startCopy c fuel s
      else
        let s := s.modPlat c fun x => { x with copyOut := some ⟨second, st, newestGen s c, false⟩ }
        if reachable s c st then platMsg c st 1 (newestGen s c).toNat s
        else startCopy c fuel (copyFail c s)
    | _, _ => s

/-- Copies wanted for the newest generation. -/
def queueCopies (c : Fin 9) (s : State) : State := startCopy c 3 (s.modPlat c fun x => { x with copyQueue := [false, true] })

/-- The flits of a copy that are not yet sent are dropped. -/
def abandonFlits (c : Fin 9) (s : State) : State :=
  s.modChan c fun ch => { ch with ports := ch.ports.map fun q => { q with txq := q.txq.filter fun t => !copyFlit ch.plat t } }

/-- A copy in progress is abandoned (R380). -/
def abandonCopy (c : Fin 9) (s : State) : State :=
  if (s.chan c).plat.copyOut.isNone then s else (abandonFlits c s).modPlat c fun x => { x with copyOut := none }

/-- A partner's answer to this channel's session (R376 to R378). A refusal while the copy goes out says that the partner's store has
failed (R380). -/
def sessionAnswer (c : Fin 9) (station : BitVec 14) (accepted : Bool) (tag : W32) (s : State) : State :=
  match (s.chan c).plat.copyOut with
  | none => s
  | some o =>
    if o.station ≠ station then s
    else if !accepted then startCopy c 3 (copyFail c (abandonFlits c s))
    else if o.sending then s
    else
      let own := s.supv.feedTag
      let same := own.getLsbD 31 && tag.getLsbD 31 && own.setWidth 16 = tag.setWidth 16
      let i := if o.second then 1 else 0
      let s := s.setField (platPage c) (partnerOff o.second) 31 16 (tag.toNat % 65536)
      let s := s.modPlat c fun x =>
        { x with cofed := x.cofed.set! i same, copyOut := some { o with sending := true } }
      let s := s.when same (cause (platPage c) 16)
      match (s.planeOf c).bind fun k => (ownGens s c k).find? fun g => g.gen = o.gen with
      | some g => platData c station 0 g.bytes s
      | none => startCopy c 3 (copyFail c s)

/-- Another station opens a copy session (R377). -/
def sessionRequest (c : Fin 9) (station : BitVec 14) (s : State) : State :=
  let areas := (s.chan c).plat.inbound
  let pick := match (List.finRange 2).find? fun i => areas[i.val].bound = some station with
    | some i => some i
    | none => (List.finRange 2).find? fun i => areas[i.val].bound.isNone
  match pick with
  | some i =>
    let s := s.modPlat c fun x =>
      { x with inbound := x.inbound.set i.val { x.inbound[i.val] with bound := some station, plane := (s.planeOf c).getD 0, receiving := some [] } }
    platMsg c station 2 s.supv.feedTag.toNat s
  | none => platMsg c station 3 0 (cause (platPage c) 20 s)

/-- Another station asks for the copy that this store holds for it (R382). -/
def sessionFetch (c : Fin 9) (station : BitVec 14) (gen : Option W32) (s : State) : State :=
  let hit := ((s.chan c).plat.inbound.toList.filter fun a => a.bound = some station).filterMap Inbound.copy
  match hit.find? fun i => i.readable && (gen.map fun g => decide (g = i.gen)).getD true with
  | some i => platData c station 1 i.bytes s
  | none => platMsg c station 6 0 s

/-- The bytes of an image being received are all there. -/
def imageWhole (bytes : List Byte) : Bool := 32768 ≤ bytes.length && 32768 + fld bytes 40 8 ≤ bytes.length

/-- A plat-lane flit that has reached this station: part of a copy, or of an image asked for. `none`: it belongs to neither. A copy that
arrives damaged is refused, and fails at its sender (R380). -/
def platFlit (c : Fin 9) (f : Flit) (s : State) : Option State :=
  let x := (s.chan c).plat
  if f.window = 1 then
    match x.fetched with
    | some (st, bytes) => if st = f.src then some (s.modPlat c fun x => { x with fetched := some (st, bytes ++ f.payload) }) else none
    | none => none
  else
    match (List.finRange 2).find? fun i => x.inbound[i.val].bound = some f.src && x.inbound[i.val].receiving.isSome with
    | none => none
    | some i =>
      let bytes := (x.inbound[i.val].receiving.getD []) ++ f.payload
      if !imageWhole bytes then some (s.modPlat c fun x => { x with inbound := x.inbound.set i.val { x.inbound[i.val] with receiving := some bytes } })
      else
        let a := x.inbound[i.val]
        match imageOf bytes with
        | some img =>
          some (platMsg c f.src 4 0 (s.modPlat c fun x => { x with inbound := x.inbound.set i.val { a with copy := some img, receiving := none } }))
        | none => some (platMsg c f.src 3 0 (s.modPlat c fun x => { x with inbound := x.inbound.set i.val { a with receiving := none } }))

/-! ## PLAT_WRITE (R370 to R374) -/

def pwList (d : List Byte) : Nat := fld d 16 5
def pwCount (d : List Byte) : Nat := fld d 24 2 % 2048
def pwGen (d : List Byte) : W32 := w32 (fld d 28 4)
def pwNoCopy (d : List Byte) : Bool := bitAt (fld d 32 1) 0

def platWriteChk (s : State) (c : Fin 9) (d : List Byte) : Chk :=
  firstChk [fmtChk [badIf (pwList d % 64 ≠ 0) 16, reservedBad d (addr40 16), badIf (pwCount d < 1 || 1024 < pwCount d) 24,
      reservedBad d ((25, 7) :: zeroBytes 26 28), badIf (pwGen d = 0) 28, reservedBad d ((32, 1) :: zeroBytes 33 64)],
    opChk ((s.chan c).role ≠ .serving) 0x0F03, opChk (!segListOk (s.chan c).mem (pwList d) (pwCount d)) 0x0F01,
    opChk (pwGen d ≤ newestGen s c) 0x0F02]

def platWriteIssue (c : Fin 9) (f : Fly) (s : State) : State :=
  match platWriteChk s c f.desc with
  | some (st, detail) => refuseAt c f st 0 detail s
  | none => enter c f s

/-- The header of an image made now from a segment list: the state of its commit point. -/
def imageNow (s : State) (c : Fin 9) (gen : W32) (segs : List Seg) : PlatImage :=
  let u := cpage c .update
  ⟨gen, false, (s.planeOf c).getD 0, c, BitVec.ofNat 14 (ownStation s c), s.now, s.reg u 0x10C ++ s.reg u 0x108, s.reg u 0x104 ++ s.reg u 0x100,
    segs, [], List.replicate 16 (List.replicate 48 0), true⟩

/-- The commit of a PLAT_WRITE: the free slot takes the generation header, copies in progress are abandoned, and no copy is valid any
longer (R371, R376, R380). -/
def commitPlatWrite (c : Fin 9) (f : Fly) (s : State) : State :=
  let segs := (segList (s.chan c).mem (pwList f.desc) (pwCount f.desc)).map segOf
  let slot := freeSlot (s.chan c).plat.own
  let s := abandonCopy c s
  let s := s.modPlat c fun x =>
    { x with own := x.own.set slot.val (some (imageNow s c (pwGen f.desc) segs)), writing := some slot, copyQueue := [],
             copyValid := .replicate 2 false }
  s.modFly c f.no fun g => { g with committed := true, granted := true, detail := w32 (imageBytes segs / 2 ^ 20) }

/-- The memory of an image's segments. -/
def segSpans (l : List Seg) : List Span := l.map fun g => (g.1, g.2.1)

/-- The end of a PLAT_WRITE: data, hashes and completion mark are written; the copies follow (R371, R376), and a survey that is due holds the
channel (R35, R427). One whose segments meet a fenced stack completes RESET (R317). -/
def completePlatWrite (c : Fin 9) (f : Fly) (s : State) : State :=
  match (s.chan c).plat.writing with
  | none => s
  | some slot =>
    let m := (s.chan c).mem
    let spans := segSpans (((s.chan c).plat.own[slot.val]).map PlatImage.segs |>.getD [])
    if accessBlocked s c false spans then endMove c f stReset 0 0 s else
    let s := readSpans c (readReq c .plat f.no) maxTransaction spans s
    let s := s.modPlat c fun x =>
      let own := x.own.set slot.val ((x.own[slot.val]).map fun i =>
        let data := i.segs.map fun g => memRds m g.1 g.2.1
        { i with complete := true, data, hashes := shardHashes i.segs data })
      { x with own := freeOldest slot ((s.planeOf c).getD 0) own, writing := none }
    let s := completeFly c f s
    let s := holdForSurvey c (s.modChan c fun ch => { ch with platPause := true })
    if pwNoCopy f.desc then s else queueCopies c s

/-! ## PLAT_READ (R382 to R387) -/

def prSource (d : List Byte) : Nat := fld d 16 1 % 4
def prVouch (d : List Byte) : Bool := bitsOf (fld d 16 1) 3 2 = 1
def prSel (d : List Byte) : Nat := bitsOf (fld d 16 1) 5 4
def prTri (d : List Byte) : Bool := bitAt (fld d 16 1) 6
def prChan (d : List Byte) : Fin 9 := ⟨fld d 17 1 % 16 % 9, by omega⟩
def prStation (d : List Byte) : BitVec 14 := BitVec.ofNat 14 (fld d 18 2)
def prGen (d : List Byte) : W32 := w32 (fld d 20 4)
def prHdr (d : List Byte) : Nat := fld d 24 5
def prList (d : List Byte) : Nat := fld d 32 5
def prCount (d : List Byte) : Nat := fld d 40 2 % 2048
def prPlanes (d : List Byte) : Byte := BitVec.ofNat 8 (fld d 42 1)
def prTriId (d : List Byte) : W32 := w32 (fld d 44 4)

/-- A channel's store serves a read over the hub (R382, R388): a fenced channel's does, and so does that of one in service, but not that of
one in FAILED or OFF (DEDUCED, log 16). -/
def servesChan (s : State) (c : Fin 9) : Bool :=
  (s.chan c).role ≠ .failed && (s.chan c).role ≠ .off && (s.chan c).answers && !(s.hdr (platPage c)).faulted

/-- The image that a read finds in this module (R382): of its own area, or of another channel's; of the station's own inbound area
where PARTNER names this station. -/
def sourceImage (s : State) (c : Fin 9) (d : List Byte) : Option PlatImage :=
  (s.planeOf c).bind fun k =>
    match prSource d with
    | 0 => pickGen (ownGens s c k) (prSel d) (prGen d)
    | 1 => if servesChan s (prChan d) then pickGen (ownGens s (prChan d) k) (prSel d) (prGen d) else none
    | 2 =>
      let mine := ((s.chan c).plat.inbound.toList.filter fun a => a.bound = some (prStation d)).filterMap Inbound.copy
      if (prStation d).toNat = ownStation s c then pickGen (mine.filter fun i => i.readable && i.plane = k) (prSel d) (prGen d) else none
    | _ => none

def platReadFmt (d : List Byte) : Chk :=
  fmtChk [badIf (1 < bitsOf (fld d 16 1) 3 2 || prSel d = 3 || bitAt (fld d 16 1) 7 || (prVouch d && (prSource d ≠ 0 || !prTri d))) 16,
    badIf (fld d 17 1 / 16 ≠ 0 || (prSource d = 1 && 8 < fld d 17 1 % 16)) 17, reservedBad d [(19, 63)], badIf (prHdr d % 64 ≠ 0) 24,
    reservedBad d (addr40 24), reservedBad d (addr40 32), badIf (prSource d = 3 && (prCount d < 1 || 1024 < prCount d)) 40,
    reservedBad d ((41, 7) :: (43, 0) :: zeroBytes 48 64)]

def platReadChk (s : State) (c : Fin 9) (d : List Byte) : Chk :=
  let own := (prStation d).toNat = ownStation s c
  firstChk [platReadFmt d,
    opChk (!inMap (prHdr d) 32768 || (prSource d = 3 && !segListOk (s.chan c).mem (prList d) (prCount d))) 0x0F01,
    opChk ((s.planeOf c).isNone || (prSource d = 2 && (!isStation s c || (!own && !reachable s c (prStation d))))) 0x0F05,
    opChk (if prSource d = 3 then false else if prSource d = 2 && !own then prSel d = 1 else (sourceImage s c d).isNone) 0x0F04]

def platReadIssue (c : Fin 9) (f : Fly) (s : State) : State :=
  match platReadChk s c f.desc with
  | some (st, detail) => refuseAt c f st 0 detail s
  | none => enter c f s

/-- The segments that a RESTORE writes back; a VOUCH writes none. -/
def restoreEffs (d : List Byte) (i : PlatImage) : List Eff :=
  if prVouch d || prSource d = 3 then [] else (i.segs.zip i.data).map fun g => .store g.1.1 g.2

/-- A read commits with the image found: its header is written (R384). One that meets a fenced stack completes RESET (R317). -/
def commitRead (c : Fin 9) (f : Fly) (i : PlatImage) (s : State) : State :=
  if accessBlocked s c true [(prHdr f.desc, 32768)] then endMove c f stReset 0 0 s
  else
    let s := writeMem c (readReq c .plat f.no) (prHdr f.desc) i.header (s.modPlat c fun x => { x with fetched := none })
    s.modFly c f.no fun g => { g with committed := true, granted := true, effs := restoreEffs f.desc i, detail := i.gen }

/-- The commit of a PLAT_READ (R384, R385): an image of this module is read at once, over the hub if it is another channel's (R308); a
partner's is asked for, and read when it has arrived; the header of HBM data is built from the segments as they stand. -/
def commitPlatRead (c : Fin 9) (f : Fly) (s : State) : State :=
  let d := f.desc
  let own := (prStation d).toNat = ownStation s c
  if prSource d = 3 then
    let segs := (segList (s.chan c).mem (prList d) (prCount d)).map segOf
    if accessBlocked s c false (segSpans segs) then endMove c f stReset 0 0 s
    else
      let data := segs.map fun g => memRds (s.chan c).mem g.1 g.2.1
      let i := { imageNow s c (prGen d) segs with complete := true, data, hashes := shardHashes segs data }
      commitRead c f i (readSpans c (readReq c .plat f.no) maxTransaction (segSpans segs) s)
  else if prSource d = 2 && !own then
    match (s.chan c).plat.fetched with
    | none => platMsg c (prStation d) 5 (if prSel d = 2 then (prGen d).toNat else 0) (s.modPlat c fun x => { x with fetched := some (prStation d, []) })
    | some (_, bytes) =>
      if !imageWhole bytes then s
      else match imageOf bytes with
        | some i =>
          if some i.plane = s.planeOf c && i.complete then commitRead c f i s
          else endMove c f stOperand 0 0x0F04 (s.modPlat c fun x => { x with fetched := none })
        | none => endMove c f stFault 0 0x0F06 (s.modPlat c fun x => { x with fetched := none })
  else if prSource d = 1 && (!portOn s c || !portOn s (prChan d)) then portReset c f s
  else
    match sourceImage s c d with
    | some i => commitRead c f i s
    | none => endMove c f stFault 0 0x0F06 s

/-- A station answers that it holds no image for this channel: NO_GENERATION (R383). -/
def noImage (c : Fin 9) (station : BitVec 14) (s : State) : State :=
  match (s.chan c).plat.fetched, oldest s c .plat (fun f => f.begun && !f.committed && dOpcode f.desc = 0x51) with
  | some (st, _), some f =>
    if st = station then endMove c f stOperand 0 0x0F04 (s.modPlat c fun x => { x with fetched := none }) else s
  | _, _ => s

/-! ## Triangulation (R386, R387) -/

/-- What a read contributes: the hashes compared, and those recorded in its image's header. -/
def triHashes (s : State) (c : Fin 9) (f : Fly) : List (List Byte) × List (List Byte) :=
  let m := (s.chan c).mem
  let h := memRds m (prHdr f.desc) 32768
  let recorded := (List.range 16).map fun k => (h.drop (64 + 48 * k)).take 48
  if prVouch f.desc then (recorded, recorded)
  else
    let segs := (List.range (fld h 8 2)).map fun i => segOf ((h.drop (1024 + 16 * i)).take 16)
    (shardHashes segs (segs.map fun g => memRds m g.1 g.2.1), recorded)

/-- The participants of a triangulation that has not reached its rendezvous. -/
def triParts (s : State) (id : W32) : List TriWait := s.hub.tris.filter fun t => t.id = id && !t.met

/-- Every participant of a triangulation that waits for its rendezvous ends with OPERAND TRI (R386). -/
def failTri (id : W32) (s : State) : State :=
  let l := triParts s id
  let s := s.modHub fun h => { h with tris := h.tris.filter fun t => t.id ≠ id || t.met }
  s.each l fun t s =>
    match s.findFly t.chan t.no with
    | some f => endMove t.chan f stOperand 0 0x0F08 s
    | none => s

/-- A read whose hashes are ready registers (R386). One that finds no free rendezvous, or whose plane has registered, waits. -/
def registerTri (c : Fin 9) (f : Fly) (s : State) : State :=
  let d := f.desc
  let plane := (s.planeOf c).getD 0
  let others := s.hub.tris.filter fun t => t.id = prTriId d
  if others.any (fun t => t.plane = plane || t.met) || (others.isEmpty && 8 ≤ rendezvousUsed s) then s
  else
    let (hs, rec) := triHashes s c f
    let t : TriWait := ⟨prTriId d, prPlanes d, plane, f.detail, hs, rec, prVouch d, c, f.no, false⟩
    let s := s.modHub fun h => { h with tris := h.tris ++ [t] }
    if others.any fun o => o.planes ≠ t.planes || o.gen ≠ t.gen then failTri t.id s else s

/-- The outcome of a shard for one participant (R386, R387): 0 AGREE, 1 MINORITY, 2 REVERT, 3 not a copy. -/
def triOutcome (l : List TriWait) (t : TriWait) (k : Nat) : Nat :=
  let zero := List.replicate 48 (0 : Byte)
  let h := fun (x : TriWait) => x.hashes.getD k zero
  let copies := l.filter fun x => h x ≠ zero
  let votes := fun (v : List Byte) => (copies.filter fun x => h x = v).length
  if h t = zero then 3
  else if copies.length = 1 then (if t.vouch || h t = t.recorded.getD k zero then 0 else 2)
  else if copies.any fun x => copies.length < 2 * votes (h x) then (if copies.length < 2 * votes (h t) then 0 else 1)
  else 2

/-- DETAIL of a participant's outcomes (R387). -/
def triDetail (l : List TriWait) (t : TriWait) : Nat :=
  ((List.range 16).map (triOutcome l t)).zipIdx.foldl (fun a e => a + e.1 * 4 ^ e.2) 0

/-- The outcomes that a DETAIL holds. -/
def triOutcomes (detail : W32) : List Nat := (List.range 16).map fun k => bitsOf detail.toNat (2 * k + 1) (2 * k)

/-- A channel that takes part in triangulations (R386). -/
def takesPart (s : State) (c : Fin 9) : Bool := (s.chan c).role = .serving || (s.chan c).role = .filling

/-- The participants of a triangulation meet: each knows what its own comparison found (R387). -/
def meetTris (l : List TriWait) (s : State) : State :=
  (s.modHub fun h => { h with tris := h.tris.map fun x => if l.contains x then { x with met := true } else x }).each l fun x s =>
    s.modFly x.chan x.no fun f => { f with detail := w32 (triDetail l x) }

/-- The rendezvous of a triangulation (R386): every plane named has registered, or its channel is neither SERVING nor FILLING. Each
participant learns its outcomes. Over a port that is disabled none crosses, and all complete RESET (R308). -/
def triRendezvous (id : W32) (s : State) : State :=
  let l := (triParts s id).filter fun t => takesPart s t.chan
  match l with
  | [] => s
  | t :: _ =>
    let missing := (List.finRange 8).filter fun k => t.planes.getLsbD k.val && !(l.any fun x => x.plane = k)
    if missing.any fun k => takesPart s (s.planeChan k) then s
    else if 1 < l.length && l.any (fun x => !portOn s x.chan) then
      s.each l fun x s => match s.findFly x.chan x.no with
        | some f => portReset x.chan f s
        | none => s
    else meetTris l s

/-- A participant of a triangulation that has met completes (R387): a disagreement is a cause, and a filling channel that agrees everywhere
serves. -/
def finishTri (c : Fin 9) (f : Fly) (s : State) : State :=
  let outs := triOutcomes f.detail
  let s := s.modHub fun h => { h with tris := h.tris.filter fun t => !(t.chan = c && t.no = f.no) }
  let s := s.when (outs.any fun o => o = 1 || o = 2) (cause (platPage c) 18)
  let s := completeFly c f s
  if (s.chan c).role = .filling && !prVouch f.desc && outs.all (fun o => o = 0 || o = 3) then setRole c .serving false s else s

/-- The sequence table is invalid after a restore (R121). -/
def restored (c : Fin 9) (d : List Byte) (s : State) : State :=
  if prVouch d then s else s.modChan c fun ch => { ch with seqTable := .replicate 16 .invalid }

/-- The end of a PLAT_READ: a triangulating one writes its data, registers, and completes once it has met the others at the rendezvous. -/
def completePlatRead (c : Fin 9) (f : Fly) (s : State) : State :=
  let mine := s.hub.tris.find? fun t => t.chan = c && t.no = f.no
  if !f.done && accessBlocked s c true (f.effs.flatMap Eff.spans) then endMove c f stReset 0 0 s
  else if prTri f.desc then
    match mine with
    | some t => if t.met then finishTri c f s else s
    | none => registerTri c f (if f.done then s else restored c f.desc (finishWork c f s))
  else completeFly c f (restored c f.desc s)

/-! ## The plat unit -/

def commitPlat (c : Fin 9) (s : State) : State :=
  match uncommitted s c .plat with
  | none => s
  | some f => if dOpcode f.desc = 0x50 then commitPlatWrite c f s else commitPlatRead c f s

def completePlat (c : Fin 9) (s : State) : State :=
  match oldest s c .plat fun f => f.committed && f.granted with
  | none => s
  | some f => if dOpcode f.desc = 0x50 then completePlatWrite c f s else completePlatRead c f s

/-! ## NAND errors (R369, R385) -/

/-- A lasting page failure: counted, and the block fenced only when the reserve is exhausted. -/
def pageLost (c : Fin 9) (reserveGone : Bool) (failed : Option Nat) (s : State) : State :=
  if reserveGone then lastingFence (platPage c) false failed noDetail s
  else
    let was := (s.chan c).lasting
    (lastingEvent (platPage c) false false noDetail s).modChan c fun ch => { ch with lasting := was }

/-- The image that a slot of a store holds: 0 to 2 its own area, 3 and 4 its inbound areas. -/
def slotImage (x : PlatS) (slot : Nat) : Option PlatImage :=
  if h : slot < 3 then x.own[slot] else if h : slot - 3 < 2 then x.inbound[slot - 3].copy else none

/-- A committed read takes its image from a slot of a channel's store. -/
def readsSlot (s : State) (c : Fin 9) (slot : Nat) (d : Fin 9) (f : Fly) : Bool :=
  let src := prSource f.desc
  dOpcode f.desc = 0x51 && f.committed && !f.done && (slotImage (s.chan c).plat slot).any (fun i => i.gen = f.detail) &&
    ((slot < 3 && ((d = c && src = 0) || (src = 1 && prChan f.desc = c))) ||
      (3 ≤ slot && d = c && src = 2 && (prStation f.desc).toNat = ownStation s c))

/-- A page that fails its read twice makes its generation or copy unreadable; reads of it end with SOURCE_LOST (R369, R385). -/
def readLost (c : Fin 9) (slot : Nat) (reserveGone : Bool) (s : State) : State :=
  let bad := fun (i : PlatImage) => { i with readable := false }
  let lost := allChans.flatMap fun d => ((s.chan d).fly.filter (readsSlot s c slot d)).map fun f => (d, f)
  let s := s.modPlat c fun x =>
    if h : slot < 3 then { x with own := x.own.set slot ((x.own[slot]).map bad) }
    else if h : slot - 3 < 2 then { x with inbound := x.inbound.set (slot - 3) { x.inbound[slot - 3] with copy := x.inbound[slot - 3].copy.map bad } }
    else x
  let s := s.each lost fun e s => endMove e.1 e.2 stFault 0 0x0F06 s
  pageLost c reserveGone none s

/-- A copy being received into an inbound area ends: its sender is told, and its copy fails (R380, R392). -/
def stopReceiving (c : Fin 9) (i : Fin 2) (s : State) : State :=
  let a := (s.chan c).plat.inbound[i.val]
  match a.bound, a.receiving with
  | some st, some _ => platMsg c st 3 0 (s.modPlat c fun x => { x with inbound := x.inbound.set i.val { a with receiving := none } })
  | _, _ => s

/-- A page that fails its program twice: the descriptor completes FAULT, and the generation stays incomplete; a copy being received is
dropped. -/
def programLost (c : Fin 9) (slot : Nat) (reserveGone : Bool) (s : State) : State :=
  match (s.chan c).plat.writing, oldest s c .plat (fun f => f.committed && dOpcode f.desc = 0x50) with
  | some w, some f =>
    if w.val = slot then
      let s := endMove c f stFault 0 0 (s.modPlat c fun x => { x with writing := none })
      pageLost c reserveGone none (cause (platPage c) 19 s)
    else pageLost c reserveGone none (if h : slot - 3 < 2 ∧ 3 ≤ slot then stopReceiving c ⟨slot - 3, h.1⟩ s else s)
  | _, _ =>
    pageLost c reserveGone none (if h : slot - 3 < 2 ∧ 3 ≤ slot then stopReceiving c ⟨slot - 3, h.1⟩ s else s)

/-! ## Meanings -/

/-- PLAT_WRITE (R370, R371). -/
def execPlatWrite (c : Fin 9) (st : Fin 4) (s : State) : Out := .next (issueHead c st (opIs 0x50) (platWriteIssue c) s)

/-- PLAT_READ (R382 to R384). -/
def execPlatRead (c : Fin 9) (st : Fin 4) (s : State) : Out := .next (issueHead c st (opIs 0x51) (platReadIssue c) s)

/-- TRI_RENDEZVOUS (R386). -/
def execTriRendezvous (id : W32) (s : State) : Out := .next (triRendezvous id s)

/-- TRI_TIMEOUT (R386): the limit of HUB.REDUCE_CTRL.WAIT_MS; 0 sets none. -/
def execTriTimeout (id : W32) (s : State) : Out :=
  if s.field (gpage .hub) 0x108 15 8 = 0 then .next s else .next (failTri id s)

/-- PLAT_SESSION (R376, R377, R382). -/
def execPlatSession (c : Fin 9) (m : SessionMsg) (s : State) : Out :=
  if !isStation s c || s.chanFenced c || (s.hdr (platPage c)).faulted then .next s
  else .next (match m with
    | .request st => sessionRequest c st s
    | .answer st ok tag => sessionAnswer c st ok tag s
    | .fetch st gen => sessionFetch c st gen s
    | .noImage st => noImage c st s)

/-- COPY_COMPLETE (R376): the partner has written the copy complete; the next copy in turn starts. -/
def execCopyComplete (c : Fin 9) (second : Bool) (s : State) : Out :=
  match (s.chan c).plat.copyOut with
  | some o =>
    if o.second = second && o.sending then
      .next (startCopy c 3 (s.modPlat c fun x =>
        { x with copyOut := none, copyValid := x.copyValid.set! (if second then 1 else 0) (o.gen = newestGen s c) }))
    else .next s
  | none => .next s

/-- Inbound areas are released: their copies are discarded, and one being received is aborted (R377). -/
def releaseIn (c : Fin 9) (areas : Nat) (s : State) : State :=
  let s := s.each ((List.finRange 2).filter fun i => bitAt areas i.val) fun i s => stopReceiving c i s
  s.modPlat c fun x => { x with inbound := .ofFn fun i => if bitAt areas i.val then .empty else x.inbound[i.val] }

/-- NAND_PAGE_ERROR (R369). An injection armed on the block fires here, and in mode 0b10 fails the retry too (R90). -/
def execNandPageError (c : Fin 9) (program retryOk : Bool) (slot : Nat) (reserveGone : Bool) (s : State) : Out :=
  if !s.powered c then .next s
  else
    let (inj, s) := takeInjection (platPage c) commonCover s
    let told := fun (s : State) => Host.Outcome.next (injectedIf inj.isSome (platPage c) s)
    if retryOk && inj ≠ some 2 then told (transientEvent (platPage c) inj.isSome s)
    else if program then told (programLost c slot reserveGone s)
    else told (readLost c slot reserveGone s)

end Sys2Proof.Machine
end

