-- ==== Sys2Proof/Machine/Sec.lean ====
section
/-! DEFINITION. Signed containers and their installation (R457 to R462, R467), attestation reports (R471). -/
namespace Sys2Proof.Machine

def secPage : Page := gpage .sec

/-! ## Verification (R458) -/

/-- A TYPE of the table, and whether a TARGET is defined for it (R458). -/
def targetOk (typ tgt : Nat) : Bool :=
  let ch := tgt % 16
  let inst := tgt / 16 % 16
  tgt < 256 &&
    (if 1 ≤ typ && typ ≤ 6 then tgt = 15
     else if typ = 0x100 || typ = 0x105 then tgt = 15
     else if typ = 0x101 || typ = 0x103 then ch ≤ 8 && inst ≤ 1
     else if typ = 0x102 then ch ≤ 8 && inst = 0
     else if typ = 0x104 then (ch ≤ 8 && inst ≤ 3) || (ch = 15 && (inst = 0 || inst = 2 || inst = 3))
     else false)

/-- The component a TYPE belongs to (R458). -/
def typeComp (typ : Nat) : Nat := if typ ≤ 6 then typ - 1 else 6

/-- Format checks on a header and its signature block (order 1 of R458; R457 for the fields). -/
def formatOk (h sig : List Byte) : Bool :=
  let typ := fld h 0 2
  let len := fld h 16 8
  fld h 3 1 = 1 && fld h 14 2 = 0 && fld h 24 8 = 0 && targetOk typ (fld h 12 2) && len % 64 = 0 && 64 ≤ len && len ≤ 67108864 &&
    (if typ ≤ 6 then fld h 4 4 ≤ 31 else fld h 4 4 = 0) && (sig.drop 16608).all fun b => b = 0

/-- The generation floor of a record's type and target (R460, R462). -/
def floorOf (s : State) (typ tgt : Nat) : Nat := spGet (fun _ => 0) s.sec.floors (typ * 65536 + tgt)

/-- Result codes of an INSTALL (R474). -/
def resOk : Nat := 1
def resSignature : Nat := 2
def resRollback : Nat := 3
def resFormat : Nat := 4
def resSource : Nat := 5

/-- The outcome of verifying a container, in the order of R458, with the COMP check of R467 and the revocation rule of R459. -/
def verify (s : State) (comp : Nat) (h body sig : List Byte) : Nat :=
  let typ := fld h 0 2
  let key := fld h 2 1
  if !formatOk h sig || typeComp typ ≠ comp then resFormat
  else if 4 ≤ key || s.sec.revoked.getLsbD key || sha384 (h.drop 80) ≠ Config.keySetHash key then resSignature
  else if sha384 body ≠ (h.drop 32).take 48 then resSignature
  else if !Config.rsaVerify ((h.drop 80).take 384) h (sig.take 384) then resSignature
  else if !Config.slhVerify (h.drop 464) h ((sig.drop 384).take 16224) then resSignature
  else if typ ≤ 6 && fld h 4 4 < (if hc : comp < 6 then s.sec.rollback[comp] else 0) then resRollback
  else if 6 < typ && fld h 8 4 ≤ floorOf s typ (fld h 12 2) then resRollback
  else if typ = 0x105 && (bitAt (fld body 0 1) key || (s.sec.revoked ||| BitVec.ofNat 4 (fld body 0 1)) = 15) then resFormat
  else resOk

/-! ## Installing (R467) -/

/-- A record replaces the older copy of its type and target, and raises the floor (R462, R467); a revocation's mask joins the
revoked set (R459). -/
def putRecord (k : Container) (s : State) : State :=
  let mine := fun (r : Container × Container) => (r.1.typ = k.typ && r.1.target = k.target) || (r.2.typ = k.typ && r.2.target = k.target)
  let put := fun (r : Container × Container) =>
    if olderFirst r then (k, r.2) else (r.1, k)
  s.modSec fun x =>
    { x with
      records := if x.records.any mine then x.records.map fun r => if mine r then put r else r else x.records ++ [(k, .none)]
      floors := spSet (fun _ => 0) x.floors (k.typ.toNat * 65536 + k.target.toNat) k.gen
      revoked := if k.typ = 0x105 then x.revoked ||| BitVec.ofNat 4 (fld k.body 0 1) else x.revoked }

/-- An image replaces the non-active slot of its component (R467). -/
def putImage (i : Fin 6) (k : Container) (s : State) : State :=
  s.modSec fun x =>
    if x.active.getLsbD i.val then { x with slotA := x.slotA.set i.val k } else { x with slotB := x.slotB.set i.val k }

/-- A channel from which a container may be staged (R467). -/
def mayStage (s : State) (c : Fin 9) : Bool :=
  match (s.chan c).role with
  | .serving | .spare | .lending | .filling => true
  | _ => false

/-- INSTALL_COMPLETE (R467, R476): the staged container is read, verified and written; RESULT reports it. `readOk`: the read of
the container completed without RESET or FAULT. -/
def execInstallComplete (readOk : Bool) (s : State) : Host.Outcome State Fault Refusal :=
  match s.sec.installing with
  | none => .next s
  | some (ch, area, comp) =>
    let base := area.toNat * 2 ^ 28
    let res : Nat × (State → State) :=
      if h : ch.toNat < 9 then
        let c : Fin 9 := ⟨ch.toNat, h⟩
        let mem := (s.chan c).mem
        if !readOk || !mayStage s c || !portOn s c || !inMap base 512 then (resSource, id)
        else
          let hd := memRds mem base 512
          let len := fld hd 16 8
          if !(len % 64 = 0 && 64 ≤ len && len ≤ 67108864) then (resFormat, id)
          else if !inMap base (512 + len + 16640) || accessBlocked s c false [(base, 512 + len + 16640)] then (resSource, id)
          else
            let body := memRds mem (base + 512) len
            let r := verify s comp.toNat hd body (memRds mem (base + 512 + len) 16640)
            let k : Container := ⟨BitVec.ofNat 16 (fld hd 0 2), BitVec.ofNat 16 (fld hd 12 2), fld hd 4 4, fld hd 8 4, fld hd 2 1, memRds mem base (512 + len + 16640), true⟩
            (r, if r ≠ resOk then id else if hc : comp.toNat < 6 then putImage ⟨comp.toNat, hc⟩ k else putRecord k)
      else (resSource, id)
    let s := res.2 s
    let s := s.modSec fun x => { x with installing := none, result := BitVec.ofNat 3 res.1 }
    if res.1 = resOk then .next (event 0x0302 0 secPage 0 true s)
    else .next (event 0x0303 0 secPage 0 false (cause secPage 16 s))

/-- `SEC.BLK_STAT.OTHER_VALID` of a component (R461, R474). -/
def otherValid (s : State) (i : Fin 6) : Bool := loadable s i (!s.sec.active.getLsbD i.val)

/-- A write of `SEC.SLOT_STAT` (R467): INSTALL, SWITCH or COMMIT; refused while an INSTALL runs or when its condition fails. -/
def slotCommand (v : W32) (s : State) : State :=
  let n := v.toNat
  let cmd := bitsOf n 17 16
  let comp := bitsOf n 15 13
  let refuse := cfgRefused secPage s
  if cmd = 0 then s
  else if s.sec.installing.isSome then refuse
  else if cmd = 1 then
    if h : bitsOf n 3 0 < 9 then
      if mayStage s ⟨bitsOf n 3 0, h⟩ && comp ≤ 6 then
        s.modSec fun x => { x with installing := some (BitVec.ofNat 4 n, BitVec.ofNat 9 (n / 16), BitVec.ofNat 3 comp) }
      else refuse
    else refuse
  else if h : comp < 6 then
    let i : Fin 6 := ⟨comp, h⟩
    let bit := BitVec.ofNat 6 (2 ^ comp)
    if cmd = 2 then
      if otherValid s i then s.modSec fun x => { x with preferred := (x.preferred &&& ~~~bit) ||| (~~~x.active &&& bit) } else refuse
    else
      if s.sec.active.getLsbD comp = s.sec.preferred.getLsbD comp then
        let svn := (slotImg s i (s.sec.active.getLsbD comp)).svn
        if s.sec.rollback[comp] < svn then
          event 0x0304 0 secPage 0 true (s.modSec fun x => { x with rollback := x.rollback.set comp svn })
        else s
      else refuse
  else refuse

/-! ## Attestation (R471, R472) -/

/-- `SEC.ROLLBACK_CNT` (R474). -/
def rollbackReg (s : State) : Nat := s.sec.rollback.toList.zipIdx.foldl (fun a e => a + e.1 % 32 * 2 ^ (5 * e.2)) 0

/-- `SUPV.CHAN_STATE` (R25). -/
def chanStateReg (s : State) : Nat := allChans.foldl (fun a c => a + (s.chan c).role.code * 8 ^ c.val) 0

/-- An entry of the report, 64 bytes. -/
def reportEntry (slot : Nat) (k : Container) : List Byte :=
  toLE 2 k.typ.toNat ++ toLE 2 k.target.toNat ++ toLE 1 slot ++ [0, 0, 0] ++ toLE 4 k.svn ++ toLE 4 k.gen ++ sha384 k.body

/-- The entries in TYPE and then TARGET order (R471). -/
def reportEntries (s : State) : List (List Byte) :=
  (List.finRange 6).map (fun i => let b := s.sec.active.getLsbD i.val; reportEntry (if b then 1 else 0) (slotImg s i b)) ++
    ((sortBy (fun a b => a.typ.toNat * 65536 + a.target.toNat ≤ b.typ.toNat * 65536 + b.target.toNat) s.sec.inForce).map (reportEntry 0xFF))

/-- A byte string cut or padded to a length. -/
def fit (n : Nat) (l : List Byte) : List Byte := (l ++ List.replicate n 0).take n

/-- The attestation report (R471), signed by the active SX's identity keys. -/
def reportBytes (s : State) (nonce : List Byte) : List Byte :=
  let es := reportEntries s
  let ident := match s.sec.inForce.find? fun r => r.typ = 0x0100 with | some r => sha384 r.file | none => List.replicate 48 0
  let body := toLE 2 1 ++ toLE 2 es.length ++ toLE 4 (256 + 64 * es.length + 16640) ++ fit 32 nonce ++ toLE 8 s.moduleSn.toNat ++
    toLE 4 s.partId.toNat ++ toLE 1 (if s.sec.keySx then 1 else 0) ++ [0, 0, 0] ++ toLE 8 s.now ++ toLE 4 s.pwr.opHours.toNat ++
    toLE 4 s.pwr.powerCycles.toNat ++ toLE 4 (rollbackReg s) ++ toLE 4 s.sec.revoked.toNat ++ toLE 4 s.supv.planeMap.toNat ++
    toLE 4 (chanStateReg s) ++ ident ++ List.replicate 120 0 ++ es.flatten
  body ++ fit 384 (Config.rsaSign s.sec.keySx body) ++ fit 16224 (Config.slhSign s.sec.keySx body) ++ List.replicate 32 0

end Sys2Proof.Machine
end

