-- ==== Sys2Proof/Machine/Traverse.lean ====
section
/-! DEFINITION. The traverse (R339 to R366): EXCHANGE_SEND and EXCHANGE_RECV, received flits, link bring-up, link messages,
switch-over of wavelengths, link loss. -/
namespace Sys2Proof.Machine

/-! ## EXCHANGE_SEND: fields and checks (R357, R359, R362) -/

def sdMode (d : List Byte) : Nat := fld d 16 1 % 4
def sdLane (d : List Byte) : Fin 4 := ⟨bitsOf (fld d 16 1) 3 2 % 4, by omega⟩
def sdHalf (d : List Byte) : Nat := bitsOf (fld d 16 1) 4 4
def sdWindow (d : List Byte) : Nat := fld d 17 1 % 128
def sdDest (d : List Byte) : Nat := fld d 18 2 % 2 ^ 14
def sdLength (d : List Byte) : Nat := fld d 20 4 % 2 ^ 31
def sdSrc (d : List Byte) : Nat := fld d 24 5
def sdOffset (d : List Byte) : Nat := fld d 32 4 % 2 ^ 22
def sdRow (d : List Byte) : Nat := fld d 36 4 % 2 ^ 17
def sdTable (d : List Byte) : Nat := fld d 40 5

def sendFmtChk (d : List Byte) : Chk :=
  let direct := sdMode d = 0
  fmtChk [badIf (sdMode d = 3 || sdLane d = 2 || fld d 16 1 / 32 ≠ 0 || (direct && sdHalf d = 1)) 16, reservedBad d [(17, 127)],
    badIf (!direct && sdDest d ≠ 0) 18, reservedBad d [(19, 63)],
    badIf (if direct then sdLength d < 64 || sdLength d % 64 ≠ 0 || 1073741824 < sdLength d else sdLength d ≠ 0) 20,
    reservedBad d [(23, 127)], reservedBad d (addr40 24), reservedBad d [(34, 63), (35, 0)],
    badIf (!direct && (sdRow d < 64 || sdRow d % 64 ≠ 0 || 65536 < sdRow d)) 36, reservedBad d [(38, 1), (39, 0)],
    reservedBad d (addr40 40), reservedBad d (zeroBytes 48 64)]

/-- The entries of the round that a table send transmits: member's station, rows, first row and expert numbers (R359). Past its own
NEED a member has no rows. -/
def roundEntries (m : List Host.Cell) (t : List Byte) (d : List Byte) : List (Nat × Nat × Nat × List Byte) :=
  let g := tbG t
  if sdMode d = 1 then
    let h := sdHalf d
    let k := tbCursor t h
    let cells := g * (tbNeed t 0 + tbNeed t 1)
    let base := if h = 0 then k * g else (tbNeed t 0 + k) * g
    (List.range g).map fun i =>
      let station := (tbEntry t i).1
      if tbNeed t h ≤ k then (station, 0, 0, [])
      else
        let (_, rows, first, expl) := tbEntry t (base + i)
        (station, rows, first, (t.drop (256 + 16 * cells + expl)).take (2 * rows))
  else
    (List.range g).map fun i =>
      let (station, rows, first, _) := tbEntry t i
      (station, rows, first, memRds m (fld t 36 8 + i * up64 (64 + 2 * tbSlotRows t) + 64) (2 * rows))

/-- The checks at issue (R362); a channel that is no station fails before its tables are asked. -/
def sendChk (s : State) (c : Fin 9) (d : List Byte) : Chk :=
  let m := (s.chan c).mem
  let direct := sdMode d = 0
  let t := readTable m (sdTable d)
  let ok := tableOk t (sdMode d) && (sdMode d = 1 || fld t 1 1 = sdHalf d)
  let top := (roundEntries m t d).foldl (fun a e => max a (e.2.2.1 + e.2.1)) 0
  firstChk [sendFmtChk d,
    opChk (sdSrc d % 64 ≠ 0 || (if direct then !inMap (sdSrc d) (sdLength d) else
      sdTable d % 64 ≠ 0 || !inMap (sdTable d) 256 || (ok && (!inMap (sdTable d) (tbBytes t) || !inMap (sdSrc d) (top * sdRow d))))) 0x0E01,
    opChk (!isStation s c) 0x0E04,
    opChk (direct && ((bearingFor s c (sdDest d)).map fun e => (entryPort e).isNone).getD false) 0x0E03,
    opChk (!direct && !ok) 0x0E05]

def sendIssue (c : Fin 9) (f : Fly) (s : State) : State :=
  match sendChk s c f.desc with
  | some (st, detail) => refuseAt c f st 0 detail s
  | none => enter c f s

/-! ## What a send transmits (R259, R357 to R359) -/

/-- The routing header of a segment (R259). -/
def segHeader (s : State) (c : Fin 9) (t d : List Byte) (rows : Nat) : List Byte :=
  let (round, need) := if sdMode d = 1 then (tbCursor t (sdHalf d), tbNeed t (sdHalf d)) else (fld t 32 4, fld t 8 4)
  toLE 2 (tbOwn t) ++ toLE 2 (ownStation s c) ++ toLE 1 (sdHalf d) ++ [0] ++ toLE 2 (fld t 24 2) ++ toLE 4 round ++ toLE 4 rows ++
    toLE 4 need ++ toLE 4 (fld t 28 4) ++ List.replicate 40 0

/-- A segment's bytes: header, expert numbers up to a multiple of 64, rows (log 15). -/
def segmentBytes (s : State) (c : Fin 9) (t d : List Byte) (rows first : Nat) (experts : List Byte) : List Byte :=
  fit (up64 (64 + 2 * rows)) (segHeader s c t d rows ++ experts) ++ memRds (s.chan c).mem (sdSrc d + first * sdRow d) (rows * sdRow d)

/-- The order of destinations within a round (R259): racks ascending after the own rack, slots ascending after the own slot. -/
def sendKey (own dest : Nat) : Nat := (dest / 64 + 256 - own / 64 - 1) % 256 * 64 + (dest % 64 + 64 - own % 64 - 1) % 64

/-- The flits of a send, in order. -/
def sendFlits (s : State) (c : Fin 9) (d : List Byte) : List Flit :=
  let own := ownStation s c
  if sdMode d = 0 then msgFlits own (sdDest d) (sdLane d) (sdWindow d) (sdOffset d) (memRds (s.chan c).mem (sdSrc d) (sdLength d))
  else
    let t := readTable (s.chan c).mem (sdTable d)
    let es := sortBy (fun a b => sendKey own a.1 ≤ sendKey own b.1) (roundEntries (s.chan c).mem t d)
    es.flatMap fun e => msgFlits own e.1 (sdLane d) (sdWindow d) 0 (segmentBytes s c t d e.2.1 e.2.2.1 e.2.2.2)

/-- What a send reads: its source, and in the table modes its exchange table. -/
def sendSpans (s : State) (c : Fin 9) (d : List Byte) : List Span :=
  if sdMode d = 0 then [(sdSrc d, sdLength d)]
  else
    let t := readTable (s.chan c).mem (sdTable d)
    (sdTable d, tbBytes t) :: (roundEntries (s.chan c).mem t d).map fun e => (sdSrc d + e.2.2.1 * sdRow d, e.2.1 * sdRow d)

/-- Flits of a send that have not been acknowledged on their first hop, or written here. -/
def flitsLeft (s : State) (c : Fin 9) (no : Nat) : Nat :=
  let n := fun (l : List TxFlit) => (l.filter fun t => t.owner = some no).length
  n (s.chan c).localHeld + (allPorts.map fun p => n (s.port c p).txq + n (s.port c p).replay).sum

/-- Flits of a send that have not left. -/
def flitsQueued (s : State) (c : Fin 9) (no : Nat) : Nat :=
  let n := fun (l : List TxFlit) => (l.filter fun t => t.owner = some no).length
  n (s.chan c).localHeld + (allPorts.map fun p => n (s.port c p).txq).sum

/-! ## Windows (R358 to R361) -/

def windowAt (s : State) (c : Fin 9) (w : Nat) : Option Window := ((s.chan c).windows.find? fun x => x.1 = w).map Prod.snd

def modWindow (c : Fin 9) (w : Nat) (g : Window → Window) (s : State) : State :=
  s.modChan c fun ch => { ch with windows := ch.windows.map fun x => if x.1 = w then (w, g x.2) else x }

/-- The routing header of the segment that a flit belongs to: its own, or the one its source sent first. -/
def headFor (w : Window) (f : Flit) : List Byte :=
  if f.offset = 0 then f.payload.take 64 else ((w.heads.find? fun h => h.1 = f.src.toNat).map Prod.snd).getD []

def headSender (h : List Byte) : Nat := fld h 0 2 % 2048

/-- A flit that must wait for its window (R361): not posted, or a segment of a member whose segment of the window's round is complete
(log 15). -/
def mustHold (s : State) (c : Fin 9) (f : Flit) : Bool :=
  match windowAt s c f.window with
  | none => true
  | some w => w.mode ≠ 0 && f.offset = 0 && w.segs.contains (headSender (headFor w f))

/-- The bytes of a flit at positions [lo, hi) of its message. -/
def flitPart (f : Flit) (lo hi : Nat) : List Byte :=
  let pos := 256 * f.offset
  let a := max lo pos
  ((f.payload.take f.len).drop (a - pos)).take (min hi (pos + f.len) - a)

/-- Where a flit's bytes go in its window: `none` when it falls outside (R358, R359). -/
def landing (m : List Host.Cell) (w : Window) (f : Flit) : Option (List (Nat × List Byte)) :=
  let pos := 256 * f.offset
  if w.mode = 0 then if w.length < pos + f.len then none else some [(w.base + pos, f.payload.take f.len)]
  else
    let h := headFor w f
    let i := headSender h
    let rows := hdrRows h
    let exEnd := 64 + 2 * rows
    let rowLo := up64 exEnd
    let rowAt := max pos rowLo
    if h.length < 64 || w.g ≤ i then none
    else if w.mode = 1 then
      let hdrSize := up64 (64 + 2 * w.slotRows)
      let headTop := if w.slotRows < rows then 64 else exEnd
      if w.slotRows < rows && 64 ≤ pos then none
      else some ([(w.hdrTable + i * hdrSize + pos, flitPart f 0 headTop)] ++
        (if w.slotRows < rows then [] else [(w.base + i * w.slotRows * w.length + (rowAt - rowLo), flitPart f rowLo (rowLo + rows * w.length))]))
    else
      let t := readTable m w.hdrTable
      let half := fld h 4 1 % 2
      let round := fld h 8 4
      let (_, mine, first, _) := tbEntry t ((if half = 0 then round else tbNeed t 0 + round) * tbG t + i)
      if tbNeed t half ≤ round || mine < rows then (if rows = 0 then some [] else none)
      else some [(w.base + first * w.length + (rowAt - rowLo), flitPart f rowLo (rowLo + rows * w.length))]

/-- A window's descriptor completes once it has all it awaits (R358, R359). -/
def finishWindow (c : Fin 9) (n : Nat) (s : State) : State :=
  match windowAt s c n with
  | none => s
  | some w =>
    let full := if w.mode = 0 then w.expect ≤ w.count else w.segs.length = w.g
    match s.findFly c w.no with
    | some f => if full then completeFly c { f with detail := w32 (if w.mode = 0 then w.count else w.round) } s else s
    | none => s

/-- The receive side's requests: through the DMA engine of the arrival port; what never crossed a port uses the first engine's (log 70). -/
def recvReq (c : Fin 9) (p : Option (Fin 6)) (no : Nat) : Requester := readReq c (.trav (p.getD 0)) no

/-- The window's descriptor takes a data flit's part: bytes counted, a segment begun or complete (R358, R359). -/
def Window.take (f : Flit) (x : Window) : Window :=
  let h := headFor x f
  let i := headSender h
  if x.mode = 0 then { x with count := x.count + f.len }
  else if f.kind = 1 then { x with segs := if x.segs.contains i then x.segs else x.segs ++ [i], round := fld h 8 4,
                                   heads := x.heads.filter fun y => y.1 ≠ f.src.toNat }
  else if f.offset = 0 then { x with heads := (x.heads.filter fun y => y.1 ≠ f.src.toNat) ++ [(f.src.toNat, h)] }
  else x

/-- A flit for this station's window is written, counted and signalled (R358 to R360); `p` is its arrival port, if it has one. A flit
outside its window is discarded; one whose bytes meet a fenced stack ends the receive RESET (R317). -/
def deliver (c : Fin 9) (p : Option (Fin 6)) (f : Flit) (s : State) : State :=
  match windowAt s c f.window with
  | none => s
  | some w =>
    match landing (s.chan c).mem w f with
    | none =>
      match p with
      | some p => cause (travPage c p) 19 (discardCount c p 1 s)
      | none => s
    | some puts =>
      let q := recvReq c p w.no
      let s := s.modFly c w.no fun g => { g with committed := true, granted := true }
      if accessBlocked s c true (puts.map fun e => (e.1, e.2.length)) then
        match s.findFly c w.no with
        | some g => endMove c g stReset 0 0 s
        | none => s
      else
        let s := putAll c q puts s
        let last := f.kind = 1
        let s := s.when last fun s => deliverReplies c (drainPort c q.port s)
        let s := modWindow c f.window (Window.take f) s
        let s := match w.arrStake with
          | some (k, inc) => if last then s.addStake c k inc.toNat else s
          | none => s
        finishWindow c f.window s

/-- Local flits whose windows are posted are written, in order; those behind a waiting one of their window wait too. -/
def pumpLocal (c : Fin 9) : Nat → State → State
  | 0, s => s
  | fuel + 1, s =>
    let l := (s.chan c).localHeld
    let firsts := l.filter fun t => (l.find? fun u => u.flit.window = t.flit.window) = some t
    match firsts.find? fun t => t.flit.lane = 2 || !mustHold s c t.flit with
    | none => s
    | some t =>
      let s := s.modChan c fun ch => { ch with localHeld := ch.localHeld.erase t }
      pumpLocal c fuel (if t.flit.lane = 2 then (platFlit c t.flit s).getD s else deliver c none t.flit s)

def runLocal (c : Fin 9) (s : State) : State := pumpLocal c (s.chan c).localHeld.length s

/-! ## The commit and completion of sends (R357, R359) -/

/-- A send commits when its first flit leaves a port or its first byte is written here; until one can, nothing happens. The engines of its
ports send in issue order (R108). A table send then advances its round's cursor. One whose source meets a fenced stack completes RESET
(R317). -/
def commitSend (c : Fin 9) (u : UnitId) (s : State) : State :=
  match (s.chan c).fly.find? fun f => overlaps u f.unit && f.begun && !f.committed && dOpcode f.desc = 0x38 with
  | none => s
  | some f =>
    let q := readReq c u f.no
    let h := sdHalf f.desc
    let cursor := sdTable f.desc + 16 + 4 * h
    let spans := sendSpans s c f.desc
    if f.unit ≠ u then s
    else if accessBlocked s c false spans || (sdMode f.desc ≠ 0 && accessBlocked s c true [(cursor, 4)]) then endMove c f stReset 0 0 s
    else
      let fs := sendFlits s c f.desc
      let s1 := s.modFly c f.no fun g => { g with committed := true, granted := true, phase := .fed }
      let s1 := runLocal c (pumpAll c (s1.each fs (routeOwn c (some f.no))))
      let left := (fs.filter fun x => ((bearingFor s c x.dest.toNat).map fun e => (entryPort e).isSome).getD true).length
      if left ≠ 0 && flitsQueued s1 c f.no = left then s
      else
        let s1 := readSpans c q maxTransaction spans s1
        let k := tbCursor (readTable (s.chan c).mem (sdTable f.desc)) h
        let s1 := if sdMode f.desc = 0 then s1 else writeMem c q cursor (toLE 4 (k + 1)) s1
        settle c (goOn c u s1)

/-- A send completes when its last flit has been acknowledged on its first hop (R357). -/
def completeSend (c : Fin 9) (u : UnitId) (s : State) : State :=
  match oldest s c u fun f => f.committed && dOpcode f.desc = 0x38 && flitsLeft s c f.no = 0 with
  | some f => completeFly c f s
  | none => s

/-! ## Flits that arrive (R342, R353, R358, R361) -/

/-- A flit that has passed its hop: delivered, relayed, discarded, or held for its window. Held flits block their lane and class. -/
def arrive (c : Fin 9) (p : Fin 6) (f : Flit) (s : State) : State :=
  let hold := fun (s : State) => s.modPort c p fun q => { q with rxHeld := q.rxHeld ++ [f] }
  let done := returnCredit c p f.lane f.cls
  if (s.port c p).rxHeld.any fun g => g.lane = f.lane && g.cls = f.cls then hold s
  else match bearingFor s c f.dest.toNat with
    | none =>
      if f.lane = 2 then done ((platFlit c f s).getD (discardCount c p 1 s))
      else if mustHold s c f then hold s
      else done (deliver c (some p) f s)
    | some e =>
      match entryPort e with
      | none => done (discardCount c p 1 s)
      | some o =>
        if o = p then done (discardCount c p 1 s)
        else
          let s := s.modPort c o fun q => { q with txq := q.txq ++ [⟨{ f with cls := entryClass e f.cls }, none, some p, f.cls⟩] }
          pumpPort c o (s.port c o).txq.length s

/-- Held flits are looked at again, in order. -/
def releaseHeld (c : Fin 9) (s : State) : State :=
  s.each allPorts fun p s =>
    let l := (s.port c p).rxHeld
    (s.modPort c p fun q => { q with rxHeld := [] }).each l (arrive c p)

/-! ## EXCHANGE_RECV (R357 to R362) -/

def rvMode (d : List Byte) : Nat := fld d 16 1 % 4
def rvHalf (d : List Byte) : Fin 2 := ⟨bitsOf (fld d 16 1) 2 2 % 2, by omega⟩
def rvWindow (d : List Byte) : Nat := fld d 17 1 % 128
def rvBase (d : List Byte) : Nat := fld d 24 5
def rvLength (d : List Byte) : Nat := fld d 32 4 % 2 ^ 31
def rvExpect (d : List Byte) : Nat := fld d 36 4 % 2 ^ 31
def rvTable (d : List Byte) : Nat := fld d 40 5
def rvSlotRows (d : List Byte) : Nat := fld d 48 2 % 8192
def rvG (d : List Byte) : Nat := fld d 50 2 % 2048

def recvFmtChk (d : List Byte) : Chk :=
  let mode := rvMode d
  fmtChk [badIf (mode = 3 || fld d 16 1 / 8 ≠ 0) 16, reservedBad d [(17, 127), (19, 7)], reservedBad d (zeroBytes 22 24),
    reservedBad d (addr40 24),
    badIf (if mode = 0 then rvLength d % 256 ≠ 0 || 1073741824 < rvLength d else rvLength d < 64 || rvLength d % 64 ≠ 0 || 65536 < rvLength d) 32,
    reservedBad d [(35, 127)], badIf (if mode = 0 then rvExpect d < 64 || rvLength d < rvExpect d else rvExpect d ≠ 0) 36,
    reservedBad d [(39, 127)], reservedBad d (addr40 40), badIf (mode = 1 && (rvSlotRows d < 1 || 4096 < rvSlotRows d)) 48,
    reservedBad d [(49, 31)], badIf (mode ≠ 0 && (rvG d < 1 || 1024 < rvG d)) 50, reservedBad d ((51, 7) :: zeroBytes 52 64)]

def recvChk (s : State) (c : Fin 9) (d : List Byte) : Chk :=
  let mode := rvMode d
  let t := readTable (s.chan c).mem (rvTable d)
  let ok := tableOk t 1
  let rows := (List.range (tbG t * (tbNeed t 0 + tbNeed t 1))).foldl (fun a k => max a ((tbEntry t k).2.2.1 + (tbEntry t k).2.1)) 0
  let range :=
    if mode = 0 then !inMap (rvBase d) (rvLength d)
    else if mode = 1 then !inMap (rvBase d) (rvG d * rvSlotRows d * rvLength d) || rvTable d % 64 ≠ 0 ||
      !inMap (rvTable d) (rvG d * up64 (64 + 2 * rvSlotRows d))
    else rvTable d % 64 ≠ 0 || !inMap (rvTable d) 256 || (ok && (!inMap (rvTable d) (tbBytes t) || !inMap (rvBase d) (rows * rvLength d)))
  firstChk [recvFmtChk d, opChk (rvBase d % 64 ≠ 0 || range) 0x0E01, opChk (windowAt s c (rvWindow d)).isSome 0x0E02,
    opChk (!isStation s c) 0x0E04, opChk (mode = 2 && !ok) 0x0E05]

/-- EXCHANGE_RECV posts its window: it feeds no unit, and held flits find it (R357, R361). -/
def recvIssue (c : Fin 9) (f : Fly) (s : State) : State :=
  match recvChk s c f.desc with
  | some (st, detail) => refuseAt c f st 0 detail s
  | none =>
    let d := f.desc
    let stake := if bitAt (fld d 18 2) 10 then some (fld d 18 2 % 1024, BitVec.ofNat 16 (fld d 20 2)) else none
    let w : Window := ⟨f.no, rvMode d, rvHalf d, rvBase d, rvLength d, rvExpect d, rvTable d, rvSlotRows d, rvG d, stake, 0, [], [], 0⟩
    let s := s.modChan c fun ch => { ch with fly := ch.fly ++ [{ f with phase := .fed, begun := true }], windows := ch.windows ++ [(rvWindow d, w)] }
    pumpAll c (runLocal c (releaseHeld c s))

/-! ## Wavelengths (R346) -/

/-- The fibre and wavelength that a switch-over message names. -/
def waveBody (fibre : Fin 2) (wave : Fin 5) : List Byte := toLE 1 fibre.val ++ toLE 1 wave.val

/-- The field of WAVE_MAP for a fibre of the receiver or the transmitter. -/
def waveLo (fibre : Fin 2) (rx : Bool) : Nat := 3 * fibre.val + (if rx then 6 else 0)

def spareUsed (s : State) (c : Fin 9) (p : Fin 6) (fibre : Fin 2) (rx : Bool) : Bool :=
  s.field (travPage c p) 0x10C (waveLo fibre rx + 2) (waveLo fibre rx) ≠ 7

/-- A wavelength is retired: recorded in WAVE_MAP (R346). -/
def retire (c : Fin 9) (p : Fin 6) (fibre : Fin 2) (wave : Fin 5) (rx : Bool) (s : State) : State :=
  s.setField (travPage c p) 0x10C (waveLo fibre rx + 2) (waveLo fibre rx) wave.val

/-! ## Receiving (R352, R353) -/

/-- A flit from its 272 bytes. -/
def flitOf (b : List Byte) : Flit :=
  let len := match bitsOf (fld b 5 3) 23 22 with | 1 => 64 | 2 => 128 | 3 => 192 | _ => 256
  ⟨BitVec.ofNat 14 (fld b 0 2), BitVec.ofNat 14 (fld b 2 2), ⟨fld b 0 2 / 2 ^ 14 % 4, by omega⟩, ⟨fld b 2 2 / 2 ^ 14 % 4, by omega⟩,
    fld b 4 1 % 128, ⟨fld b 4 1 / 128 % 2, by omega⟩, fld b 5 3 % 2 ^ 22, len, BitVec.ofNat 12 (fld b 8 4), ((b.drop 16).take 256).take len⟩

/-- The flit's CRC holds (R352). -/
def flitCrcOk (b : List Byte) : Bool := b.length = 272 && fld b 12 4 = (crc32c (b.take 12 ++ (b.drop 16).take 256)).toNat

/-- A link sequence at or before another, modulo 4,096. -/
def lseqLe (a b : BitVec 12) : Bool := (b - a).toNat < 2048

/-- Credits gained for a lane and class. -/
def gainCredits (i n : Nat) (q : Port) : Port :=
  { q with credits := q.credits.set i (q.credits.getD i 0 + n), creditSeen := addAt16 q.creditSeen i n }

/-- A flit's envelope: acknowledgement frees the replay buffer, credits come back (R352 to R354, log 15). -/
def envelope (c : Fin 9) (p : Fin 6) (b : List Byte) (s : State) : State :=
  let ack : BitVec 12 := BitVec.ofNat 12 (fld b 8 4 / 2 ^ 12)
  let i := bitsOf (fld b 8 4) 25 24 * 2 + fld b 4 1 / 128
  let n := bitsOf (fld b 8 4) 31 26
  let s := s.modPort c p fun q =>
    let q := gainCredits i n q
    let moved := lseqLe q.ackedSeq ack && lseqLe ack (q.nextSeq - 1) && q.ackedSeq ≠ ack
    let acked := if moved then ack else q.ackedSeq
    { q with
      ackedSeq := acked
      replayedOnce := q.replayedOnce && !moved
      replay := q.replay.filter fun t => !lseqLe t.flit.seq acked
      msgs := q.msgs.filter fun m => m.code ≠ 0x02 && !(m.code = 0x07 && lseqLe (BitVec.ofNat 12 (fld m.body 2 2)) acked) }
  pumpPort c p (s.port c p).txq.length s

/-- The port by which the bearing tables reach a station. -/
def pathPort (s : State) (c : Fin 9) (st : BitVec 14) : Option (Fin 6) := (bearingFor s c st.toNat).bind entryPort

/-- A PARTNER read whose station is reached by a port that is lost for good ends with SOURCE_LOST (R385). -/
def partnerLost (c : Fin 9) (p : Fin 6) (s : State) : State :=
  match (s.chan c).plat.fetched, oldest s c .plat (fun f => !f.committed && dOpcode f.desc = 0x51 && prSource f.desc = 2) with
  | some (st, _), some f =>
    if pathPort s c st = some p then endMove c f stFault 0 0x0F06 (s.modPlat c fun x => { x with fetched := none }) else s
  | _, _ => s

/-- Copies being received from stations that the port reaches are discarded; the newest complete copies stay (R377, R392). -/
def dropReceiving (c : Fin 9) (p : Fin 6) (s : State) : State :=
  s.modPlat c fun x =>
    { x with inbound := x.inbound.map fun a => if a.bound.bind (pathPort s c) = some p then { a with receiving := none } else a }

/-- A port's link is lost for good, as `k` leaves it: the copy that goes out over it fails (R380), one that comes in over it is discarded
(R392), and a read from a partner behind it has lost its source (R385). -/
def endPath (c : Fin 9) (p : Fin 6) (k : State → State) (s : State) : State :=
  let out := (s.chan c).plat.copyOut
  let copying := out.any fun o => pathPort s c o.station = some p
  let s := dropReceiving c p (k s)
  let s := startCopy c 3 (if copying && (s.chan c).plat.copyOut = out then copyFail c (abandonFlits c s) else s)
  partnerLost c p s

/-- A port's lasting fault (R353, R348, R349): fenced, its sends with discarded flits FAULT (R364). -/
def portFault (c : Fin 9) (p : Fin 6) (inj : Bool) (s : State) : State :=
  injectedIf inj (travPage c p) (endPath c p (lastingFence (travPage c p) inj none noDetail) s)

/-- A data flit comes that is behind a failed one, or while a wavelength has lost its lock: it is discarded, and counts nothing but that it
will be replayed (R347, R353). -/
def flitBehind (c : Fin 9) (p : Fin 6) (s : State) : State := s.modPort c p fun q => { q with retryLeft := q.retryLeft + 1 }

/-- A flit fails its CRC (R353): the first failure asks for a replay; the failure of a flit that is replayed is lasting, and so is one that
fails again after a lost lock (R347). -/
def flitFailed (c : Fin 9) (p : Fin 6) (b : List Byte) (inj : Bool) (s : State) : State :=
  let q := s.port c p
  if q.nakking then
    if BitVec.ofNat 12 (fld b 8 4) = q.rxSeq + 1 then portFault c p inj s else flitBehind c p s
  else if 0 < q.retryLeft then portFault c p inj s
  else
    let s := s.modPort c p fun q => { q with nakking := true, nakLock := false, retryLeft := 1, retryInj := inj }
    startLinkMsg c p 0x04 (toLE 2 (q.rxSeq + 1).toNat) none s

/-- The armed injection that a data flit meets (R90): its mode. -/
def flitInjected (s : State) (c : Fin 9) (p : Fin 6) : Option Nat :=
  match armed s (travPage c p) with
  | some (n, m) => if (n = 1 || n = 2) && (m = 1 || m = 2) then some m else none
  | none => none

/-- An injected failure: mode 1 fails a flit once, mode 2 its replay too (R90). -/
def flitInject (c : Fin 9) (p : Fin 6) (b : List Byte) (m : Nat) (s : State) : State :=
  flitFailed c p b true (s.when (m = 1 || (s.port c p).nakking || 0 < (s.port c p).retryLeft) (disarm (travPage c p)))

/-- The switch-overs whose time has come, or all that SWITCH_AT has named, complete (R346): the retirement is recorded. Once none of a lost
wavelength is left, a replay is asked for, which is the one retry of each flit concerned (R347). -/
def finishSwitches (c : Fin 9) (p : Fin 6) (ready : WaveSwitch → Bool) (s : State) : State :=
  let l := (s.port c p).switching.filter fun w => w.at_.isSome && ready w
  if l.isEmpty then s
  else
    let was := (s.port c p).lockLost
    let s := s.modPort c p fun q =>
      { q with switching := q.switching.filter (fun w => !l.contains w)
               msgs := q.msgs.filter fun m => !((m.code = 0x05 || m.code = 0x06) && l.any fun w => w.rx && m.body.take 2 = waveBody w.fibre w.wave) }
    let s := s.each l fun w s => cause (travPage c p) 17 (retire c p w.fibre w.wave w.rx s)
    let s := if was && !(s.port c p).lockLost then
        startLinkMsg c p 0x04 (toLE 2 ((s.port c p).rxSeq + 1).toNat) none (s.modPort c p fun q => { q with nakking := true, nakLock := true })
      else s
    pumpPort c p (s.port c p).txq.length s

/-- The transfers on the line have reached the flit that a switch-over names: at the transmitter the next flit to send is S or later, at
the receiver the next to arrive. -/
def switchDue (q : Port) (w : WaveSwitch) : Bool := w.at_.any fun a => lseqLe a (if w.rx then q.rxSeq + 1 else q.nextSeq)

def dueSwitches (c : Fin 9) (p : Fin 6) (s : State) : State := finishSwitches c p (switchDue (s.port c p)) s

/-- A data flit in order is accepted; a replay that passes is a transient event, unless it answers a lost lock (R347, R353). -/
def flitAccept (c : Fin 9) (p : Fin 6) (f : Flit) (s : State) : State :=
  let q := s.port c p
  let s := s.modPort c p fun q =>
    stopLinkMsg 0x04 { q with rxSeq := f.seq, nakking := false, nakLock := false, retryLeft := q.retryLeft - 1, retryInj := false }
  let s := s.when (q.nakking && !q.nakLock) fun s =>
    injectedIf q.retryInj (travPage c p) (transientEvent (travPage c p) q.retryInj (s.bumpField (travPage c p) 0x110 15 0 1))
  arrive c p f (dueSwitches c p s)

/-- A data flit whose CRC holds, its envelope taken: one in order is accepted, unless an injection fails it. -/
def dataFlit (c : Fin 9) (p : Fin 6) (b : List Byte) (s : State) : State :=
  let q := s.port c p
  let f := flitOf b
  if f.seq ≠ q.rxSeq + 1 then s.when q.nakking (flitBehind c p)
  else match flitInjected s c p with
    | some m => flitInject c p b m s
    | none => flitAccept c p f s

/-- FLIT_RECEIVE on an ACTIVE port. -/
def flitReceive (c : Fin 9) (p : Fin 6) (b : List Byte) (s : State) : State :=
  let q := s.port c p
  let control := (flitOf b).kind = 2 || (flitOf b).kind = 3
  if q.state ≠ .active then s
  else if q.lockLost then (if control then s else flitBehind c p s)
  else if !flitCrcOk b then (if control then s else sendIdle c p (flitFailed c p b false s))
  else if control then envelope c p b s
  else sendIdle c p (dataFlit c p b (envelope c p b s))

/-! ## Bring-up (R341, R349, R350) -/

/-- A switch-over message is repeated no longer. -/
def stopSwitchMsg (code : Byte) (fibre : Fin 2) (wave : Fin 5) (q : Port) : Port :=
  { q with msgs := q.msgs.filter fun m => !(m.code = code && m.body.take 2 = waveBody fibre wave) }

/-- The identity that IDENT carries (R350; the body's layout is the model's, log 15). -/
def identBody (s : State) (c : Fin 9) (p : Fin 6) : List Byte :=
  toLE 2 (ownStation s c) ++ toLE 1 (((s.planeOf c).map Fin.val).getD 0) ++ toLE 1 c.val ++
    toLE 2 ((s.hdr (travPage c p)).epoch.toNat % 4096) ++ toLE 4 s.supv.feedTag.toNat

/-- Both ends are lit: training starts, and IDENT is sent until it is answered. On an ACTIVE port it is the spare wavelengths of its
switch-overs that have been locked (R346). -/
def lightDetected (c : Fin 9) (p : Fin 6) (s : State) : State :=
  let q := s.port c p
  match q.state with
  | .active =>
    s.each (q.switching.filter fun w => w.rx && w.at_.isNone) fun w s =>
      startLinkMsg c p 0x06 (waveBody w.fibre w.wave) none (s.modPort c p (stopSwitchMsg 0x05 w.fibre w.wave))
  | .fenced => s
  | _ =>
    if !portWanted s c p then s
    else
      let s := s.modPort c p fun q => { q with state := .training, light := true, identOk := false, msgs := [] }
      startLinkMsg c p 0x01 (identBody s c p) none s

/-- What a port can hold for its peer: its buffer less what waits in it (R354). -/
def freeCredits (s : State) (c : Fin 9) (p : Fin 6) : List Nat :=
  bufferShare.zipIdx.map fun e =>
    let held := ((s.port c p).rxHeld.filter fun f => slotIx f.lane f.cls = e.2).length
    let relayed := (allPorts.map fun o => ((s.port c o).txq.filter fun t => t.src = some p && slotIx t.flit.lane t.cls0 = e.2).length).sum
    e.1 - held - relayed

/-- A received IDENT (R350). -/
def identReceived (c : Fin 9) (p : Fin 6) (m : IdentMsg) (s : State) : State :=
  let pg := travPage c p
  if (s.port c p).state ≠ .training then s
  else if s.planeOf c ≠ some m.plane then cause pg 20 (s.setField pg 0x100 3 3 1)
  else if m.station.toNat = ownStation s c then s.setField pg 0x100 5 5 1
  else
    let ident := (m.station, m.chan, m.epoch)
    let s := (s.setField pg 0x100 3 3 0).setField pg 0x100 5 5 0
    let s := match (s.port c p).peer with
      | some old => if old = ident then s else startCopy c 3 (forgetPeer c p s)
      | none => s
    let s := s.setReg pg 0x104 (w32 (m.station.toNat + m.chan.toNat * 2 ^ 16 + m.epoch.toNat * 2 ^ 20))
    let s := s.setReg pg 0x108 (w32 (m.feedTag.toNat % 65536 + boolBit (m.feedTag.getLsbD 31) 16))
    let s := s.modPort c p fun q => { q with peer := some ident, identOk := true }
    startLinkMsg c p 0x02 ((freeCredits s c p).flatMap (toLE 2)) none s

/-- CREDIT_INIT (R349): the link is ACTIVE. A link that returns with its identity replays from the first unacknowledged flit, counting
nothing (R363); a bring-up that passed at its second attempt is a transient event (R414). -/
def creditInit (c : Fin 9) (p : Fin 6) (credits : List Nat) (s : State) : State :=
  let q := s.port c p
  if q.state ≠ .training || !q.identOk then s
  else
    let again := q.failures = 1
    let s := s.modPort c p fun q =>
      let zeros : List H16 := List.replicate 8 0
      let used := fun (i : Nat) => (q.replay.filter fun t => slotIx t.flit.lane t.flit.cls = i).length
      { (stopLinkMsg 0x01 q) with
        state := .active, failures := 0
        credits := (List.range 8).map fun i => credits.getD i 0 - used i
        creditSeen := zeros, creditRet := zeros, creditTold := zeros, creditSent := zeros, creditMore := false
        nakking := false, nakLock := false, replayedOnce := false, retryLeft := 0, retryInj := false
        line := q.line ++ q.replay.map fun t => flitBytes t.flit q.rxSeq 0 0 }
    let s := eventNoNote 0x0100 0 (2 + c.val) 12 p.val false s
    let s := s.when again (fun s => injectedIf q.retryInj (travPage c p) (transientEvent (travPage c p) q.retryInj s))
    pumpPort c p (s.port c p).txq.length s

/-- A bring-up step has failed with light present (R349): again after 1 ms, and lasting the second time. An injection armed on the port fires
here, and in mode 0b10 fails the second attempt too (R90). -/
def bringupFailed (c : Fin 9) (p : Fin 6) (s : State) : State :=
  let q := s.port c p
  if q.state ≠ .training || !q.light then s
  else
    let (inj, s) := takeInjection (travPage c p) commonCover s
    if 1 ≤ q.failures || inj = some 2 then portFault c p (inj.isSome || q.retryInj) s
    else
      let s := s.modPort c p fun q => { q with failures := 1, identOk := false, retryInj := inj.isSome, msgs := [] }
      startLinkMsg c p 0x01 (identBody s c p) none s

/-! ## Link messages (R351) -/

/-- CREDIT (R351): totals ahead of those counted give the difference. -/
def creditTotals (c : Fin 9) (p : Fin 6) (totals : List H16) (s : State) : State :=
  if (s.port c p).state ≠ .active then s
  else
    let s := s.modPort c p fun q => (List.range 8).foldl (fun q i =>
      let d := (totals.getD i (q.creditSeen.getD i 0) - q.creditSeen.getD i 0).toNat
      if d < 32768 then gainCredits i d q else q) (stopLinkMsg 0x02 q)
    pumpPort c p (s.port c p).txq.length s

/-- A received NAK (R353): the sender replays once from the failed flit. -/
def nakReceived (c : Fin 9) (p : Fin 6) (seq : BitVec 12) (s : State) : State :=
  let q := s.port c p
  if q.state ≠ .active || q.replayedOnce then s
  else s.modPort c p fun q =>
    let again := q.replay.filter fun t => lseqLe seq t.flit.seq
    { q with replayedOnce := !again.isEmpty, line := q.line ++ again.map fun t => flitBytes t.flit q.rxSeq 0 0 }

/-- Every 1 µs: the switch-overs that SWITCH_AT has named are done, since 64 flits of line time have passed (R345, R346); unanswered messages
are sent again; CREDIT while a total has changed since the last, and once more (R351); an acknowledgement not yet told goes in an IDLE
flit (R352). -/
def linkRepeat (c : Fin 9) (p : Fin 6) (s : State) : State :=
  let s := if (s.port c p).state = .active then finishSwitches c p (fun _ => true) s else s
  let q := s.port c p
  let s := s.each q.msgs fun m s => sendLinkMsg c p m.code m.body s
  let changed := q.creditRet ≠ q.creditSent
  let s := if q.state = .active && (changed || q.creditMore) then sendLinkMsg c p 0x03 (q.creditRet.flatMap fun t => toLE 2 t.toNat) s else s
  sendIdle c p (s.modPort c p fun q =>
    { q with
      creditSent := if q.state = .active then q.creditRet else q.creditSent
      creditTold := if q.state = .active then q.creditRet else q.creditTold
      creditMore := q.state = .active && changed
      msgs := q.msgs.filterMap fun m => match m.left with
        | none => some m
        | some n => if n ≤ 1 then none else some { m with left := some (n - 1) } })

/-! ## Switch-over (R346 to R348) -/

/-- A switch-over that runs at one end of a fibre. -/
def Port.switchOf (q : Port) (fibre : Fin 2) (rx : Bool) : Option WaveSwitch := q.switching.find? fun w => w.fibre = fibre && w.rx = rx

/-- A fibre can switch a wavelength over (R348): its spare is neither in use nor being brought in, and the wavelength is not the spare. -/
def maySwitch (s : State) (c : Fin 9) (p : Fin 6) (fibre : Fin 2) (wave : Fin 5) (rx : Bool) : Bool :=
  !spareUsed s c p fibre rx && wave ≠ 4 && ((s.port c p).switchOf fibre rx).isNone

def addSwitch (c : Fin 9) (p : Fin 6) (w : WaveSwitch) (s : State) : State := s.modPort c p fun q => { q with switching := q.switching ++ [w] }

/-- The receiver starts a switch-over (R346); `lost`: the wavelength has lost its lock (R347). A fibre whose spare is in use cannot
switch again: lasting (R348). -/
def startRxSwitch (c : Fin 9) (p : Fin 6) (fibre : Fin 2) (wave : Fin 5) (lost : Bool) (s : State) : State :=
  if (s.port c p).state ≠ .active then s
  else if ((s.port c p).switchOf fibre true).any fun w => w.wave = wave then
    s.modPort c p fun q => { q with switching := q.switching.map fun w => if w.fibre = fibre && w.rx then { w with lost := w.lost || lost } else w }
  else if maySwitch s c p fibre wave true then startLinkMsg c p 0x05 (waveBody fibre wave) none (addSwitch c p ⟨fibre, wave, true, lost, none⟩ s)
  else portFault c p false s

/-- The transmitter starts one: it lights the spare and trains it (R346). -/
def startTxSwitch (c : Fin 9) (p : Fin 6) (fibre : Fin 2) (wave : Fin 5) (s : State) : State :=
  if (s.port c p).state ≠ .active then s
  else if ((s.port c p).switchOf fibre false).any fun w => w.wave = wave then s
  else if maySwitch s c p fibre wave false then addSwitch c p ⟨fibre, wave, false, false, none⟩ s
  else portFault c p false s

/-- A switch-over has its link sequence. -/
def nameSwitch (c : Fin 9) (p : Fin 6) (fibre : Fin 2) (rx : Bool) (at_ : BitVec 12) (s : State) : State :=
  s.modPort c p fun q => { q with switching := q.switching.map fun w => if w.fibre = fibre && w.rx = rx then { w with at_ := some at_ } else w }

/-- SWITCH_READY at the transmitter: it names a link sequence 64 flits ahead, from which it sends on the spare (R346). -/
def switchReady (c : Fin 9) (p : Fin 6) (fibre : Fin 2) (wave : Fin 5) (s : State) : State :=
  if (s.port c p).state ≠ .active || !(((s.port c p).switchOf fibre false).any fun w => w.wave = wave && w.at_.isNone) then s
  else
    let at_ := (s.port c p).nextSeq + 64
    nameSwitch c p fibre false at_ (startLinkMsg c p 0x07 (waveBody fibre wave ++ toLE 2 at_.toNat) none s)

/-- SWITCH_AT at the receiver (R346): from flit S on it reads the stripe on the spare. It takes a switch-over that the peer's transmitter has
started as it takes its own. -/
def switchAt (c : Fin 9) (p : Fin 6) (fibre : Fin 2) (wave : Fin 5) (at_ : BitVec 12) (s : State) : State :=
  if (s.port c p).state ≠ .active then s
  else
    let s := if maySwitch s c p fibre wave true then addSwitch c p ⟨fibre, wave, true, false, none⟩ s else s
    if ((s.port c p).switchOf fibre true).any fun w => w.wave = wave && w.at_.isNone then dueSwitches c p (nameSwitch c p fibre true at_ s) else s

/-! ## Loss of links (R363) -/

/-- HOLD_MS expires on a link that is down (R363). -/
def holdExpiry (c : Fin 9) (p : Fin 6) (s : State) : State :=
  let q := s.port c p
  if q.state ≠ .hold && !(q.state = .training && q.peer.isSome) then s
  else
    let s := endPath c p (forgetPeer c p) s
    let s := if (s.port c p).state = .hold then s.modPort c p fun q => { q with state := .off, msgs := [] } else s
    linkCheck c s

/-- A flit held beyond WINDOW_WAIT is discarded (R361), and those behind it move on. -/
def windowWaitExpiry (c : Fin 9) (p : Fin 6) (s : State) : State :=
  match (s.port c p).rxHeld with
  | [] => s
  | f :: rest =>
    let s := s.modPort c p fun q => { q with rxHeld := rest }
    let s := returnCredit c p f.lane f.cls (cause (travPage c p) 18 (discardCount c p 1 s))
    releaseHeld c s

/-! ## Meanings -/

/-- The channel's traverse works: powered and not fenced. -/
def travLive (s : State) (c : Fin 9) : Bool := s.powered c && !s.chanFenced c

/-- A meaning that acts on a live traverse only. -/
def onTrav (c : Fin 9) (g : State → State) (s : State) : Out := if travLive s c then .next (g s) else .next s

/-- EXCHANGE_SEND (R357 to R362). -/
def execExchangeSend (c : Fin 9) (st : Fin 4) (s : State) : Out := .next (issueHead c st (opIs 0x38) (sendIssue c) s)

/-- EXCHANGE_RECV (R357 to R362). -/
def execExchangeRecv (c : Fin 9) (st : Fin 4) (s : State) : Out := .next (issueHead c st (opIs 0x39) (recvIssue c) s)

/-- FLIT_RECEIVE (R342, R352, R353). -/
def execFlitReceive (c : Fin 9) (p : Fin 6) (b : List Byte) (s : State) : Out := onTrav c (flitReceive c p b) s

/-- IDENT (R350). -/
def execIdent (c : Fin 9) (p : Fin 6) (m : IdentMsg) (s : State) : Out := onTrav c (identReceived c p m) s

/-- CREDIT_INIT (R349). -/
def execCreditInit (c : Fin 9) (p : Fin 6) (credits : List Nat) (s : State) : Out := onTrav c (creditInit c p credits) s

/-- CREDIT (R351). -/
def execCredit (c : Fin 9) (p : Fin 6) (totals : List H16) (s : State) : Out := onTrav c (creditTotals c p totals) s

/-- NAK (R353). -/
def execNak (c : Fin 9) (p : Fin 6) (seq : BitVec 12) (s : State) : Out := onTrav c (nakReceived c p seq) s

/-- SWITCH_REQ (R346). -/
def execSwitchReq (c : Fin 9) (p : Fin 6) (fibre : Fin 2) (wave : Fin 5) (s : State) : Out :=
  onTrav c (startTxSwitch c p fibre wave) s

/-- SWITCH_READY (R346). -/
def execSwitchReady (c : Fin 9) (p : Fin 6) (fibre : Fin 2) (wave : Fin 5) (s : State) : Out := onTrav c (switchReady c p fibre wave) s

/-- SWITCH_AT (R346, R347). -/
def execSwitchAt (c : Fin 9) (p : Fin 6) (fibre : Fin 2) (wave : Fin 5) (at_ : BitVec 12) (s : State) : Out :=
  onTrav c (switchAt c p fibre wave at_) s

/-- FEED_TAG (R351): PEER_FEED_TAG takes the tag, and FEED_ACK answers. -/
def execFeedTag (c : Fin 9) (p : Fin 6) (tag : W32) (s : State) : Out :=
  onTrav c (fun s =>
    if (s.port c p).state ≠ .active then s
    else sendLinkMsg c p 0x0A (toLE 4 tag.toNat)
      (s.setReg (travPage c p) 0x108 (w32 (tag.toNat % 65536 + boolBit (tag.getLsbD 31) 16)))) s

/-- FEED_ACK (R351): the repetition of that tag's FEED_TAG ends. -/
def execFeedAck (c : Fin 9) (p : Fin 6) (tag : W32) (s : State) : Out :=
  onTrav c (fun s => s.modPort c p fun q => { q with msgs := q.msgs.filter fun m => !(m.code = 0x08 && m.body = toLE 4 tag.toNat) }) s

/-- DOWN (R363). -/
def execDown (c : Fin 9) (p : Fin 6) (s : State) : Out := onTrav c (fun s => startCopy c 3 (linkDown c p s)) s

/-- LINK_MSG_REPEAT (R351). A fenced channel still finishes its DOWNs. -/
def execLinkMsgRepeat (c : Fin 9) (p : Fin 6) (s : State) : Out := if s.powered c then .next (linkRepeat c p s) else .next s

/-- LOSS_OF_SIGNAL (R363). -/
def execLossOfSignal (c : Fin 9) (p : Fin 6) (s : State) : Out :=
  onTrav c (fun s => startCopy c 3 (linkDown c p (s.modPort c p fun q => { q with light := false }))) s

/-- HOLD_EXPIRY (R363). -/
def execHoldExpiry (c : Fin 9) (p : Fin 6) (s : State) : Out := onTrav c (holdExpiry c p) s

/-- WINDOW_WAIT_EXPIRY (R361). -/
def execWindowWaitExpiry (c : Fin 9) (p : Fin 6) (s : State) : Out := onTrav c (windowWaitExpiry c p) s

/-- MARGIN_LOW (R346, R348). -/
def execMarginLow (c : Fin 9) (p : Fin 6) (fibre : Fin 2) (wave : Fin 5) (s : State) : Out := onTrav c (startRxSwitch c p fibre wave false) s

/-- LASER_LOW (R346, R348). -/
def execLaserLow (c : Fin 9) (p : Fin 6) (fibre : Fin 2) (wave : Fin 5) (s : State) : Out := onTrav c (startTxSwitch c p fibre wave) s

/-- WAVE_LOCK_LOSS (R347, R348). -/
def execWaveLockLoss (c : Fin 9) (p : Fin 6) (fibre : Fin 2) (wave : Fin 5) (s : State) : Out := onTrav c (startRxSwitch c p fibre wave true) s

/-- LIGHT_DETECTED (R349). -/
def execLightDetected (c : Fin 9) (p : Fin 6) (s : State) : Out := onTrav c (lightDetected c p) s

/-- LOCK_TIMEOUT (R349): at bring-up a wavelength that does not lock is retired for the spare; a second one fails the step. -/
def execLockTimeout (c : Fin 9) (p : Fin 6) (fibre : Fin 2) (wave : Fin 5) (s : State) : Out :=
  onTrav c (fun s =>
    if (s.port c p).state ≠ .training then s
    else if spareUsed s c p fibre true then bringupFailed c p s
    else if wave = 4 then s else retire c p fibre wave true s) s

/-- BRINGUP_RETRY (R349). -/
def execBringupRetry (c : Fin 9) (p : Fin 6) (s : State) : Out := onTrav c (bringupFailed c p) s

/-- TRAINING_RETRY (R349): no light, nothing counted; the exchange of IDENT repeats (R350). -/
def execTrainingRetry (c : Fin 9) (p : Fin 6) (s : State) : Out :=
  onTrav c (fun s => if (s.port c p).state = .training then sendLinkMsg c p 0x01 (identBody s c p) s else linkCheck c s) s

/-- A write of `TRAV.WAVE_MAP` with FORCE_RX bits (R346, R365): a gradual switch-over of receive fibres; a fibre whose spare is in use,
or a wavelength above 3, refuses the whole write. -/
def forceRx (c : Fin 9) (p : Fin 6) (fibres wave : Nat) (s : State) : State :=
  let fs := (List.finRange 2).filter fun f => bitAt fibres f.val
  if fs.isEmpty then s
  else if h : wave < 4 then
    if fs.any fun f => spareUsed s c p f true || ((s.port c p).switchOf f true).isSome then cfgRefused (travPage c p) s
    else s.each fs fun f => startRxSwitch c p f ⟨wave, by omega⟩ false
  else cfgRefused (travPage c p) s

end Sys2Proof.Machine
end

