-- ==== Sys2Proof/Machine/Engine.lean ====
section
/-! DEFINITION. The events of units at work: the end of a feed, commit requests and grants, completions (R106, R110, R117), the routing
unit's commits (R250, R254 to R262), the arrays' ramps (R187 to R191), closure work and the repeat procedure (R285 to R290, R418
to R420). -/
namespace Sys2Proof.Machine

def routePage (c : Fin 9) : Page := cpage c .route

/-! ## ROUTE_SCORE's commit (R250, R251) -/

/-- The report of a ROUTE_SCORE enters the out-queue: its context opens and the deadline starts. With the out-queue full, or the host's
address unset, it waits uncommitted (R59, R69, R250). -/
def reportCommit (c : Fin 9) (s : State) : State :=
  match uncommitted s c .score with
  | none => s
  | some f =>
    if s.outqFull || !s.hostKnown then s
    else
      let d := f.desc
      let id := (s.chan c).route.reportNo
      let wait := s.field (routePage c) 0x100 13 0
      let bytes := (f.effs.findSome? fun e => match e with | .report _ b => some b | _ => none).getD []
      let s := enqueueTx (originated s 0xA (2 + c.val) ((2 + c.val) * 2 ^ 60) true true (stampReport bytes id s.now)) none s
      let s := s.modRoute c fun r => { r with reportNo := if id = 0xFFFFFFFF then 1 else id + 1 }
      let s := s.modCtx c (scCtx d) fun _ =>
        { RouteCtx.closed with isOpen := true, layer := BitVec.ofNat 16 (fld d 24 2), experts := scE d, tokens := scT d, token0 := scToken0 d,
                               reportId := id, running := wait ≠ 0, noWait := wait = 0 }
      let f := { f with detail := id }
      commitFly c f (s.modFly c f.no fun g => { g with detail := id })

/-! ## ROUTE_APPLY's commit (R255, R256, R260 to R262, R267) -/

/-- What a DISPATCH reads: its group, selection and gates (R257, R258). -/
def dispatchSpans (f : Fly) : List Span := [18, 20, 22].flatMap fun o => tensorSpans (imgOf f.env f.desc o)

/-- What a COLLECT reads: the routing headers of its group, and the experts hosted (R260, R261). -/
def collectSpans (f : Fly) : List Span := (apStanding f.desc, apG f.desc * headerSize f.desc) :: tensorSpans (imgOf f.env f.desc 18)

/-- The adoption of a plan (R255): what the DISPATCH writes, and its DETAIL. -/
def adopt (c : Fin 9) (f : Fly) (x : Fin 4) (plan : List Byte) (received : Bool) (reason : Nat) (s : State) : State :=
  let d := f.desc
  let k := (s.chan c).route.ctxs[x.val]
  let m := (s.chan c).mem
  let (effs, n0, n1) := dispatchResult m f.env k (ownStation s c) d plan
  let late := !received && !k.noWait
  let q := readReq c f.unit f.no
  let s := readSpans c q maxTransaction (dispatchSpans f) s
  let s := if received then emptyPlan c (writeMem c q (apStanding d) plan s) else s
  let s := s.modCtx c x fun k => { k with running := false, dispatched := true, halves := .replicate 2 .reset }
  let s := s.when late fun s => bookTotal c 6 1 (cause (routePage c) 16 (s.bumpField (routePage c) 0x104 15 0 1))
  s.modFly c f.no fun g =>
    { g with committed := true, granted := true, effs,
             flags := flagIf (dispatchNan m f.env k d) flNan ||| flagIf late flPlanLate,
             detail := w32 (n0 % 2 ^ 14 + n1 % 2 ^ 14 * 2 ^ 14 + reason * 2 ^ 28) }

/-- A DISPATCH decides its context's plan (R255, R256). It waits while no plan is held and the deadline runs. One whose accesses meet a fenced
stack completes RESET (R317). -/
def commitDispatch (c : Fin 9) (f : Fly) (s : State) : State :=
  let d := f.desc
  let x := apCtx d
  let k := (s.chan c).route.ctxs[x.val]
  let ok := fun (s : State) (plan : List Byte) => planOk plan k.layer k.experts (some (groupOf (s.chan c).mem f.env d, apSlotRows d))
  let standing := fun (reason : Nat) (s : State) =>
    let plan := memRds (s.chan c).mem (apStanding d) (64 + 16 * k.experts)
    if ok s plan then adopt c f x plan false reason s else endMove c f stOperand 0 0x0A04 s
  if !k.isOpen then endMove c f stOperand 0 0x0A02 s
  else if accessBlocked s c false ((apStanding d, 64 + 16 * k.experts) :: dispatchSpans f) then endMove c f stReset 0 0 s
  else if onTimePlan (s.chan c).route x then
    let plan := (s.chan c).route.planBuf.take (fld (s.chan c).route.planBuf 12 4)
    if ok s plan then adopt c f x plan true 0 s
    else standing 2 (cause (routePage c) 18 (emptyPlan c s))
  else if k.running then s
  else standing (if k.noWait then 3 else 1) s

/-- A COLLECT commits: its lists, return entries and continuation (R260 to R262). -/
def commitCollect (c : Fin 9) (f : Fly) (s : State) : State :=
  let d := f.desc
  let x := apCtx d
  let h := apHalf d
  let k := (s.chan c).route.ctxs[x.val]
  if !k.isOpen || !k.dispatched then endMove c f stOperand 0 0x0A02 s
  else if accessBlocked s c false (collectSpans f) then endMove c f stReset 0 0 s
  else
    let half := k.halves[h.val]
    let m := (s.chan c).mem
    let rounds := if half.round = 0 then roundsOf m d else half.rounds
    let effs := collectResult m f.env d (ownStation s c) half.round rounds
    let extra := half.round = 0 && 1 < rounds
    let s := readSpans c (readReq c f.unit f.no) maxTransaction (collectSpans f) s
    let s := s.modCtx c x fun k => { k with halves := k.halves.set h.val { half with round := half.round + 1, rounds } }
    let s := s.when extra fun s => bookTotal c 5 (rounds - 1) (cause (routePage c) 19 (s.bump (routePage c) 0x108 (rounds - 1)))
    s.modFly c f.no fun g =>
      { g with committed := true, granted := true, effs, flags := flagIf (1 < rounds) flExtraRounds, detail := w32 rounds }

def commitApply (c : Fin 9) (s : State) : State :=
  match uncommitted s c .apply with
  | none => s
  | some f =>
    match apMode f.desc with
    | 0 => commitDispatch c f s
    | 1 => commitCollect c f s
    | _ => (closeCtx c (apCtx f.desc) s).modFly c f.no fun g => { g with committed := true, granted := true }

/-- A half has collected its last round. -/
def halfDone (h : RouteHalf) : Bool := 0 < h.rounds && h.rounds ≤ h.finished

/-- A ROUTE_APPLY completes; the last COLLECT of both halves closes the context (R261). -/
def completeApply (c : Fin 9) (f : Fly) (s : State) : State :=
  let s := completeFly c f s
  if apMode f.desc ≠ 1 then s
  else
    let x := apCtx f.desc
    let h := (apHalf f.desc).val
    let s := s.modCtx c x fun k =>
      { k with halves := k.halves.mapIdx fun i r => if i = h then { r with finished := r.finished + 1 } else r }
    let k := (s.chan c).route.ctxs[x.val]
    if k.isOpen && k.halves.toList.all halfDone then closeCtx c x s else s

/-! ## Commit requests, grants, completions -/

/-- A unit requests commit for its oldest uncommitted descriptor (R117). ROUTE_SCORE commits with its report; a receive with its
first data. -/
def commitRequest (c : Fin 9) (u : UnitId) (s : State) : State :=
  let s := goOn c u s
  match u with
  | .arrayA | .arrayB =>
    match uncommitted s c u with
    | some f => settle c (goOn c u (commitFly c f (if f.phase = .feeding then feedEnd c u s else s)))
    | none => s
  | .layout | .vector | .gx | .update =>
    match uncommitted s c u with
    | some f => commitFly c f s
    | none => s
  | .apply => commitApply c s
  | .trav _ | .travAll | .own => commitSend c u s
  | .reduce => commitReduce c s
  | .loan => commitLoan c s
  | .offload => commitOffload c s
  | .plat => commitPlat c s
  | .score | .recv | .seq => s

/-- A descriptor of a unit completes (R110). -/
def descComplete (c : Fin 9) (u : UnitId) (s : State) : State :=
  let next := granted s c u
  match u with
  | .arrayA | .arrayB =>
    match next with
    | some f => if underClosure s c f then finishWork c f s else completeFly c f s
    | none => s
  | .layout | .vector | .gx | .update | .score =>
    match next with
    | some f => completeFly c f s
    | none => s
  | .apply =>
    match next with
    | some f => completeApply c f s
    | none => s
  | .trav _ | .travAll | .own => completeSend c u s
  | .reduce =>
    match next with
    | some f => completeReduce c f s
    | none => s
  | .loan =>
    match next with
    | some f => completeLoan c f s
    | none => s
  | .offload =>
    match oldest s c .offload fun f => f.committed && offloadDone s f c with
    | some f => sweep (completeFly c f s)
    | none => s
  | .plat => completePlat c s
  | .recv | .seq => s

/-- The channel's units work: powered and not fenced. -/
def unitsLive (s : State) (c : Fin 9) : Bool := s.powered c && !s.chanFenced c

/-- A unit runs: its channel lives, and its block's engine is not stopped by ENABLE 0 (R84). A table-mode send spans six engines. -/
def unitRuns (s : State) (c : Fin 9) (u : UnitId) : Bool :=
  unitsLive s c && (u = .travAll || (unitPages c u).all fun p => (s.hdr p).enable)

/-! ## Closure work (R285 to R290) -/

/-- The pass under closure work on an array. -/
def closurePass (s : State) (c : Fin 9) (a : Fin 2) : Option (Fly × Closure) :=
  (s.chan c).arrays[a.val].closure.bind fun k => (s.findFly c k.no).map fun f => (f, k)

/-- The sampled pass's outcome: the closure work ends, and the pass completes if its own work is done. -/
def closeSample (c : Fin 9) (a : Fin 2) (f : Fly) (outcome : Nat) (err : Int) (s : State) : State :=
  let detail := w32 (outcome + (err % 256).toNat * 256)
  let s := s.modArray c a fun x => { x with closure := none }
  let s := s.modFly c f.no fun g => { g with detail }
  goOn c f.unit (if f.done then completeFly c { f with detail } s else s)

/-- The closure error as a gauge sample (R430): EXACT in bin 0 and INFINITE in bin 31. -/
def closureGauge (c : Fin 9) (err : Int) : GaugeSample :=
  let bin : Nat := if err = errExact then 0 else if err = errInfinite then 31 else if err ≤ -29 then 1 else if 0 ≤ err then 30 else (err + 30).toNat
  ⟨0x05, BitVec.ofNat 4 c.val, 0, bits32 (.fin err 0), ⟨bin % 32, by omega⟩⟩

/-- Closure work has time at an array (R187, R288): in a gap of mode FILL_RAMP that carries it, at full activity, or before the next pass once
MAX_WAIT has passed. PARK holds it. -/
def closureRuns (s : State) (c : Fin 9) (a : Fin 2) (k : Closure) : Bool :=
  !presenting s c a && !parkSet s c &&
    (k.presented || (closureFill s c a && rampMode s c a = 0 && (s.chan c).arrays[a.val].ramp = .full))

/-- What closure work reads of its pass's operands. -/
def closureReads (c : Fin 9) (f : Fly) : List Reads :=
  let (ta, tb) := (imgOf f.env f.desc 16, imgOf f.env f.desc 18)
  let q := readReq c f.unit f.no
  [⟨q, readUnit ta, aSpans ta f.desc⟩, ⟨q, readUnit tb, bSpans tb f.desc⟩]

/-- The comparison of a sample (R289): counted, and in excess it starts the repeat procedure. -/
def closureCompare (c : Fin 9) (a : Fin 2) (s : State) : State :=
  match closurePass s c a with
  | none => s
  | some (f, k) =>
    if k.inExcess || !f.granted || !closureRuns s c a k then s
    else if readsBlocked s c (closureReads c f) then endMove c f stReset 0 0 s
    else
      let s := doReads c (closureReads c f) s
      let bound := (BitVec.ofNat 8 (bitsOf f.env.closureRate.toNat 15 8)).toInt
      let (err, excess) := sampleErr k (wideResult (s.chan c).mem f.env f.desc) bound
      let s := bookTotal c 1 1 (addSample (closureGauge c err) (s.bumpField (numwPage c) 0x11C 31 16 1))
      if !excess then closeSample c a f 1 err s
      else
        let s := bookTotal c 2 1 (s.bumpField (numwPage c) 0x11C 15 0 1)
        let s := event 0x0120 0 (numwPage c) a.val false s
        s.modArray c a fun x => { x with closure := some { k with inExcess := true, err } }

/-- The repeat procedure's outcome (R418, R419). An injection armed on the array fires when a repeat finds another result, and in mode 0b10 fails
the second run too (R90). -/
def repeatResult (c : Fin 9) (a : Fin 2) (r1EqN r2EqR1 r2EqN : Bool) (s : State) : State :=
  match closurePass s c a with
  | none => s
  | some (f, k) =>
    if !k.inExcess || parkSet s c then s
    else if r1EqN then closeSample c a f 2 k.err (bookTotal c 3 1 (event 0x0121 0 (numwPage c) a.val false s))
    else
     let (inj, s) := takeInjection (arrPage c a) commonCover s
     if r2EqR1 && inj ≠ some 2 then
      let s := bookTotal c 4 1 (event 0x0122 1 (arrPage c a) a.val false (injectedIf inj.isSome (arrPage c a) (transientEvent (arrPage c a) inj.isSome s)))
      let q := writeReq c f.unit f.no
      let s := deliverReplies c (drainPort c q.port (s.each (f.effs.filter Eff.writes) (storeEff c q)))
      closeSample c a f 3 k.err s
     else
      let other : Fin 2 := if a = 0 then 1 else 0
      let runs := (s.hdr (arrPage c other)).enable && !s.fenced (arrPage c other)
      let faulty := if r2EqN && inj.isNone && runs then other else a
      let s := event 0x0123 2 (arrPage c faulty) faulty.val true s
      let s := s.modArray c a fun x => { x with closure := none }
      let s := injectedIf inj.isSome (arrPage c faulty) (lastingFence (arrPage c faulty) inj.isSome (some f.no) noDetail s)
      fenceChannel c .fenced true (some f.no) s

/-! ## Meanings -/

/-- STAGED_FEED_START (R106): the feeding descriptor's operands have entered, and the staged one starts. -/
def execStagedFeedStart (c : Fin 9) (u : UnitId) (s : State) : Out := if unitRuns s c u then .next (settle c (feedEnd c u s)) else .next s

/-- COMMIT_REQUEST (R117). -/
def execCommitRequest (c : Fin 9) (u : UnitId) (s : State) : Out := if unitRuns s c u then .next (commitRequest c u s) else .next s

/-- The next grant on its way to an array arrives (R117, R160, R407): the pass counts. A grant whose EPOCH is not the array's, or whose pass is
gone, is a stale reply. -/
def grantArrives (c : Fin 9) (a : Fin 2) (s : State) : State :=
  match (s.chan c).arrays[a.val].grants with
  | [] => s
  | (epoch, no) :: rest =>
    let taken := s.modArray c a fun x => { x with grants := rest }
    match s.findFly c no with
    | some f =>
      if epoch ≠ s.epochOf (arrPage c a) then staleReplies (arrPage c a) 1 taken
      else if unitRuns s c (arrUnit a) then settle c (goOn c (arrUnit a) (grantFly c f taken)) else s
    | none => staleReplies (arrPage c a) 1 taken

/-- COMMIT_GRANT (R160). -/
def execCommitGrant (c : Fin 9) (arr : Fin 2) (s : State) : Out := if s.powered c then .next (grantArrives c arr s) else .next s

/-- DESCRIPTOR_COMPLETION (R110). -/
def execDescriptorCompletion (c : Fin 9) (u : UnitId) (s : State) : Out := if unitRuns s c u then .next (idleDue (descComplete c u s)) else .next s

/-- ROUTE_REPORT_COMMIT (R250). -/
def execRouteReportCommit (c : Fin 9) (s : State) : Out := if unitRuns s c .score then .next (reportCommit c s) else .next s

/-- PLAN_DEADLINE (R254). -/
def execPlanDeadline (c : Fin 9) (ctx : Fin 4) (s : State) : Out := if unitsLive s c then .next (deadlinePassed c ctx s) else .next s

/-- FILL_MAX_REACHED (R189): the longest fill of a gap ends, and the array ramps down unless HOLD keeps it. -/
def execFillMaxReached (c : Fin 9) (arr : Fin 2) (s : State) : Out :=
  if s.powered c && rampMode s c arr = 0 && (s.chan c).arrays[arr.val].ramp = .full && !presenting s c arr && !holdSet s c then
    .next (rampDown c arr s)
  else .next s

/-- A ramp ends (R189, R191, R194): FILL_CTRL takes effect. After a ramp-up a waiting pass begins, or else a gap opens; after a ramp-down the
array rests, and HOLD brings it up again. -/
def rampEnds (c : Fin 9) (a : Fin 2) (s : State) : State :=
  let stands := fun (r : Ramp) => takeFill c a (s.modArray c a fun x => { x with ramp := r })
  match (s.chan c).arrays[a.val].ramp with
  | .rampUp =>
    let s := settle c (goOn c (arrUnit a) (stands .full))
    if presenting s c a then s else openGap c a s
  | .rampDown => holdUp c a (settle c (goOn c (arrUnit a) (stands .parked)))
  | _ => s

/-- RAMP_COMPLETE (R189). -/
def execRampComplete (c : Fin 9) (arr : Fin 2) (s : State) : Out := .next (rampEnds c arr s)

/-- CLOSURE_MAX_WAIT (R288): the remaining slices come before the next pass. -/
def execClosureMaxWait (c : Fin 9) (arr : Fin 2) (s : State) : Out :=
  .next (s.modArray c arr fun x => { x with closure := x.closure.map fun k => { k with presented := true } })

/-- CLOSURE_COMPARE (R289). -/
def execClosureCompare (c : Fin 9) (arr : Fin 2) (s : State) : Out := if unitsLive s c then .next (closureCompare c arr s) else .next s

/-- REPEAT_RESULT (R418). -/
def execRepeatResult (c : Fin 9) (arr : Fin 2) (r1EqN r2EqR1 r2EqN : Bool) (s : State) : Out :=
  if unitsLive s c then .next (repeatResult c arr r1EqN r2EqR1 r2EqN s) else .next s

end Sys2Proof.Machine
end

