-- ==== Sys2Proof/Machine/Memory.lean ====
section
/-! DEFINITION. HBM and cache events (R313 to R322), and the channel memory's faults that reach descriptors. -/
namespace Sys2Proof.Machine

/-- The descriptor that a failed memory operation served: the one feeding in its unit, or the oldest there (R313). -/
def servedBy (s : State) (c : Fin 9) : MemUser → Option Fly
  | .unit u =>
    let l := (s.chan c).fly.filter fun f => f.unit = u
    match l.find? fun f => f.phase = .feeding with
    | some f => some f
    | none => l.head?
  | _ => none

/-- A BATCH_FETCH whose burst fails lastingly completes FAULT, before the channel's fence ends the rest (R104). -/
def failBurst (c : Fin 9) (user : MemUser) (s : State) : State :=
  match user with
  | .burst st => failFetch c st stFault s
  | _ => s

/-- With nothing of the unit issued, the descriptor served is the head that would issue to it now: its first read or write fails, and
it completes FAULT (R313, log 68). A SEQ_TABLE works at its issue, so a failure of its own always comes here (R121). -/
def failIssue (c : Fin 9) (user : MemUser) (s : State) : State :=
  match user with
  | .unit u =>
    match servedBy s c user, grantOf s c with
    | none, some st =>
      issueHead c st (fun d => unitFor s c d = u && (u ≠ .seq || dOpcode d = 0x08)) (fun f s => refuseAt c f stFault 0 0 s) s
    | _, _ => s
  | _ => s

/-- The descriptor that a failed memory operation served completes FAULT (R104, R313, R321). -/
def failServed (c : Fin 9) (user : MemUser) (s : State) : State :=
  match servedBy s c user with
  | some f => sweep (endFly c f stFault 0 0 s)
  | none => failIssue c user (failBurst c user s)

/-- A lasting HBM failure (R313 to R315): the instance fenced, the descriptor served completes FAULT, a PLAT_WRITE or PLAT_READ
leaves its slot as R374 says, the channel fenced, FAILED if the stack no longer answers. -/
def hbmLasting (c : Fin 9) (st : Fin 2) (addr : Nat) (answers inj : Bool) (user : MemUser) (s : State) : State :=
  let s := lastingFence (hbmPage c st) inj none (toLE 5 addr ++ List.replicate 11 0) (failServed c user s)
  fenceChannel c (if answers then .fenced else .failed) true none s

/-- The channel's HBM and cache work: it is powered and not fenced. -/
def memLive (s : State) (c : Fin 9) : Bool := s.powered c && !s.chanFenced c

/-- HBM_UNCORRECTABLE (R313): counted; the re-read follows as HBM_REREAD. -/
def execHbmUncorrectable (c : Fin 9) (st : Fin 2) (s : State) : Host.Outcome State Fault Refusal :=
  if memLive s c then .next (s.bump (hbmPage c st) 0x104 1) else .next s

/-- HBM_REREAD (R313, R315): a transient, or a lasting failure; an injection armed on the instance's read path fires here too
(R90). -/
def execHbmReread (c : Fin 9) (st : Fin 2) (addr : BitVec 40) (ok answers : Bool) (user : MemUser) (s : State) :
    Host.Outcome State Fault Refusal :=
  if !memLive s c then .next s
  else
    let p := hbmPage c st
    let (inj, s) := takeInjection p commonCover s
    if ok && inj ≠ some 2 then .next (injectedIf inj.isSome p (transientEvent p inj.isSome s))
    else .next (injectedIf inj.isSome p (hbmLasting c st addr.toNat answers inj.isSome user s))

/-- HBM_WRITE_CRC (R314): sent once more; WRITE_CRC set for the first failure, lasting if the second fails. -/
def execHbmWriteCrc (c : Fin 9) (st : Fin 2) (ok answers : Bool) (user : MemUser) (s : State) : Host.Outcome State Fault Refusal :=
  if !memLive s c then .next s
  else
    let p := hbmPage c st
    let (inj, s) := takeInjection p (fun n => n = 17) s
    let s := causeAt p 17 inj.isSome noDetail (injectedIf inj.isSome p s)
    if ok && inj ≠ some 2 then .next (transientEvent p inj.isSome s)
    else .next (hbmLasting c st 0 answers inj.isSome user s)

/-- CACHE_ECC_ERROR (R321): a clean line is refilled and its way disabled; a dirty line is re-read once, and if its data are lost
the CACHE block and the channel are fenced. An injection armed on the block fires here, and in mode 0b10 fails the retry too (R90). -/
def execCacheEccError (c : Fin 9) (dirty ok : Bool) (user : MemUser) (s : State) : Host.Outcome State Fault Refusal :=
  if !memLive s c then .next s
  else
    let p := cpage c .cache
    let (inj, s) := takeInjection p commonCover s
    if inj ≠ some 2 && (!dirty || ok) then
      let s := injectedIf inj.isSome p (transientEvent p inj.isSome s)
      .next (if dirty then s else cause p 16 (s.bumpField p 0x110 15 8 1))
    else
      let s := injectedIf inj.isSome p (lastingFence p inj.isSome none noDetail (failServed c user s))
      .next (fenceChannel c .fenced true none s)

/-- STACK_TEMP_CHANGE (R316): TEMP and PEAK; HOT from 85 °C; THROTTLE from 95 °C, cleared below 90 °C. -/
def execStackTempChange (c : Fin 9) (st : Fin 2) (temp : Byte) (s : State) : Host.Outcome State Fault Refusal :=
  if !s.powered c then .next s
  else
    let p := hbmPage c st
    let t := temp.toNat
    let was := bitAt (s.reg p 0x10C).toNat 17
    let thr := 95 ≤ t || (was && 90 ≤ t)
    let s := s.setField p 0x10C 7 0 t
    let s := s.setField p 0x10C 15 8 (max t (s.field p 0x10C 15 8))
    let s := s.setField p 0x10C 16 16 (if 85 ≤ t then 1 else 0)
    let s := s.setField p 0x10C 17 17 (if thr then 1 else 0)
    .next (s.when (thr && !was) (cause p 16))

/-- MX_UNRESPONSIVE (R30, R120, R409): an MX stops answering; its transfers over the hub complete RESET at the other channels, the
channel is FAILED, no record of its own descriptors can leave it, and reads of its store lose their source (R36, R385). -/
def execMxUnresponsive (c : Fin 9) (s : State) : Host.Outcome State Fault Refusal :=
  if !s.powered c then .next s
  else
    let s := s.modChan c fun ch =>
      { ch with answers := false, lasting := true, fly := [], streams := .replicate 4 .reset, recs := [], recsWait := [],
                windows := [], localHeld := [], ports := ch.ports.map fun q => { Port.reset with light := q.light } }
    let wasServing := (s.chan c).role = .serving
    let wasLending := (s.chan c).role = .lending
    let s := setRole c .failed true (sourceLost c (sweep s))
    let s := s.when wasLending (recallLoans fun _ _ => true)
    .next (s.when wasServing (noSpareCheck c))

/-- LOCK_LONG (R330): a Meridian lock in force for 4,096 MSIDE cycles: the cause, the count and its owner, once per lock. -/
def execLockLong (c : Fin 9) (owner : Fin 16) (s : State) : Host.Outcome State Fault Refusal :=
  let m := (s.chan c).merid
  if !memLive s c || m.lock ≠ some owner || m.lockLong then .next s
  else
    let p := cpage c .merid
    let s := s.modMerid c fun m => { m with lockLong := true }
    let s := s.bumpField p 0x108 15 0 1
    let s := s.setField p 0x108 19 16 owner.val
    .next (cause p 16 s)

/-- No transfer is in progress, and no lock is in force (R328). -/
def MeridS.idle (m : MeridS) : Bool := m.cur.isNone && m.next.isNone && m.lock.isNone

/-- ARB_MODE_CHANGE (R328): in the first cycle with no transfer and no lock the written mode comes into force. -/
def execArbModeChange (c : Fin 9) (s : State) : Host.Outcome State Fault Refusal :=
  if s.powered c && (s.chan c).merid.idle then .next (s.setField (cpage c .merid) 0x100 1 1 (s.field (cpage c .merid) 0x100 0 0))
  else .next s

end Sys2Proof.Machine
end

