-- ==== Sys2Proof/Machine/RegRead.lean ====
section
/-! DEFINITION. Reading registers: which offsets a page assigns (R83, R96), the common header (R84, R91), 64-bit pairs (R94), indices
(R97), and each page's block-specific registers and status field. -/
namespace Sys2Proof.Machine

/-! ## ICP status codes (R48) -/

def rsOk : H16 := 0
def rsReset : H16 := 1
def rsBusy : H16 := 2
def rsAddr : H16 := 3
def rsAlign : H16 := 4
def rsLength : H16 := 5
def rsType : H16 := 6
def rsVersion : H16 := 7
def rsFenced : H16 := 8
def rsNoHost : H16 := 9
def rsPage : H16 := 10
def rsEcc : H16 := 11
def rsSequence : H16 := 12

/-! ## The catalogue's offsets (R96) -/

/-- How many block-specific registers a page has, from 0x100 on. -/
def blkRegs : Blk → Nat
  | .supv => 9 | .clocks => 4 | .pwr => 7 | .bench => 4 | .fbook => 5 | .cairn => 3 | .sec => 4
  | .hmac => 11 | .icp => 15 | .hub => 4
  | .seq => 5 | .dense => 4 | .gather => 5 | .route => 4 | .layout => 3 | .cache => 5 | .merid => 4 | .hbm => 4 | .update => 5
  | .numw => 9 | .plat => 4 | .trav => 5 | .bearing => 3 | .cpwr => 3 | .cclk => 2 | .cbench => 3

/-- The page assigns a block-specific register at the offset. -/
def assigned (b : Blk) (off : Nat) : Bool := 0x100 ≤ off && off < 0x100 + 4 * blkRegs b && off % 4 = 0

/-- The indirect data registers (R97). -/
def indirect (b : Blk) (off : Nat) : Bool :=
  match b, off with
  | .seq, 0x110 | .layout, 0x104 | .bearing, 0x108 | .cbench, 0x104 | .fbook, 0x110 | .cairn, 0x108 => true
  | _, _ => false

/-- The pairs of R94: `some false` the _LO half, `some true` the _HI half. -/
def pairHalf (b : Blk) (off : Nat) : Option Bool :=
  match b, off with
  | .supv, 0x110 | .clocks, 0x100 | .dense, 0x100 | .cache, 0x100 | .cache, 0x108 | .update, 0x100 | .update, 0x108 => some false
  | .supv, 0x114 | .clocks, 0x104 | .dense, 0x104 | .cache, 0x104 | .cache, 0x10C | .update, 0x104 | .update, 0x10C => some true
  | _, _ => none

/-- A pair that software writes. -/
def pairRw (b : Blk) : Bool := b = .update

/-! ## Indices (R97): each path has its own -/

def pathNum : Path → Nat
  | .icp => 0 | .sideband => 1

/-- Where a path's copy of an index register is stored. -/
def idxAddr (path : Path) (p : Page) (off : Nat) : Nat := p.base + off + pathNum path * 2 ^ 32

def State.idx (s : State) (path : Path) (p : Page) (off : Nat) : W32 := s.regAt (idxAddr path p off)

def State.setIdx (s : State) (path : Path) (p : Page) (off : Nat) (v : W32) : State := s.setRegAt (idxAddr path p off) v

/-- The next index of a structure of `lim` elements in a field of `width` values. -/
def nextIdx (lim width i : Nat) : Nat := if i + 1 = lim then 0 else (i + 1) % width

/-- An access to the data register advances the path's index. -/
def advance (path : Path) (p : Page) (s : State) : State :=
  let step := fun (off lim width : Nat) => s.setIdx path p off (w32 (nextIdx lim width (s.idx path p off).toNat))
  match p.blk with
  | .seq => step 0x10C 1024 1024
  | .layout => step 0x100 16384 16384
  | .bearing => step 0x104 320 512
  | .cbench => step 0x100 192 256
  | .fbook => step 0x10C 4194304 4194304
  | .cairn =>
    let v := (s.idx path p 0x104).toNat
    s.setIdx path p 0x104 (w32 (v / 65536 * 65536 + nextIdx 32776 65536 (v % 65536)))
  | _ => s

/-! ## Pairs (R94) -/

def latchKey (path : Path) (p : Page) (lo : Nat) : Nat := 2 * (p.base + lo) + pathNum path

def noLatch : Nat → Option W32 := fun _ => none

def halves (v : W64) : W32 × W32 := (v.setWidth 32, (v >>> 32).setWidth 32)

/-- A pair's value now, low half first. -/
def pairNow (p : Page) (lo : Nat) (s : State) : (W32 × W32) × State :=
  match p.blk with
  | .supv => (halves s.moduleSn, s)
  | .clocks => (halves (BitVec.ofNat 64 s.now), s)
  | _ => ((s.reg p lo, s.reg p (lo + 4)), s)

/-- A read of a half: _LO latches the other half of the same instant, _HI returns and releases the latch. -/
def readPair (path : Path) (p : Page) (off : Nat) (hi : Bool) (s : State) : W32 × State :=
  if hi then
    let k := latchKey path p (off - 4)
    match spGet noLatch s.loLatch k with
    | some v => (v, { s with loLatch := spSet noLatch s.loLatch k none })
    | none => let (v, s) := pairNow p (off - 4) s; (v.2, s)
  else
    let (v, s) := pairNow p off s
    (v.1, { s with loLatch := spSet noLatch s.loLatch (latchKey path p off) (some v.2) })

/-! ## Global pages -/

def supvRead (off : Nat) (s : State) : Nat :=
  let v := s.supv
  match off with
  | 0x100 => v.planeMap.toNat
  | 0x104 => chanStateReg s
  | 0x108 => v.onSpare.toNat + v.switching.toNat * 2 ^ 8
  | 0x10C => v.feedTag.toNat
  | 0x118 => s.partId.toNat
  | 0x11C => boolBit s.sec.sxActive 0 + boolBit s.sec.standbyOk 1 + boolBit s.sec.faultedA 2 + boolBit s.sec.faultedB 3
  | 0x120 => v.recovering.toNat * 2 ^ 9
  | _ => 0

/-- `CLOCKS.DOMAIN_STAT` of the domain that DOMAIN_SEL names (R412). -/
def domainStat (i : Nat) (s : State) : Nat :=
  if h : i / 6 < 9 then
    let c : Fin 9 := ⟨i / 6, h⟩
    let d : Fin 6 := ⟨i % 6, by omega⟩
    let run := (s.chan c).domRun[d.val]
    domCode d + c.val * 2 ^ 8 + boolBit run 12 + boolBit run 13 + boolBit (s.chan c).domLost[d.val] 14 + chanFreq s c d * 2 ^ 16
  else
    let d : Fin 6 := ⟨i % 6, by omega⟩
    let run := s.supv.hmacRun[d.val]
    modDomCode d + 15 * 2 ^ 8 + boolBit run 12 + boolBit run 13 + boolBit s.supv.hmacLost[d.val] 14 + modFreq s d * 2 ^ 16

def clocksRead (off : Nat) (s : State) : Nat :=
  match off with
  | 0x108 => (s.reg (gpage .clocks) 0x108).toNat
  | 0x10C => domainStat (s.reg (gpage .clocks) 0x108).toNat s
  | _ => 0

/-- `PWR.PHASE_FAIL` (R456). -/
def phaseFail (s : State) : Nat :=
  let l := s.pwr.phasesLost
  let chans := allChans.foldl (fun a c => a + boolBit (l.any fun r => r.1 / 6 = c.val) c.val) 0
  s.pwr.lastRail + spGet (fun _ => 0) l s.pwr.lastRail * 2 ^ 6 + min 255 (l.map Prod.snd).sum * 2 ^ 8 + chans * 2 ^ 16 +
    boolBit (l.any fun r => 54 ≤ r.1) 25

/-- `PWR.STATE` (R456). -/
def pwrState (s : State) : Nat :=
  let x := s.pwr
  x.power.code + boolBit (x.changing || x.idleWanted) 3 + boolBit x.uv 8 + boolBit x.ov 9 + boolBit x.coolant 10 + boolBit x.leak 11 +
    x.wakeSrc.toNat * 2 ^ 12 + boolBit x.tripSeen 15

/-- ALERT_N is released once a trip has been read or cleared (R451, R456). -/
def releaseAlert (s : State) : State := s.modPwr fun x => { x with alert := x.alert && !x.tripSeen }

/-- PWR's own registers. The MIN field of INPUT_MV restarts at its reset value 0xFFFF, as R456's "least since the last read" needs, where R7
clears an rc field to zero (DESIGN CHOICE, log 75). -/
def pwrRead (off : Nat) (s : State) : Nat × State :=
  let x := s.pwr
  match off with
  | 0x100 => (pwrState s, releaseAlert s)
  | 0x108 => (x.inputMv.toNat + x.inputMin.toNat * 2 ^ 16, s.modPwr fun x => { x with inputMin := 0xFFFF })
  | 0x10C => (x.inputMa.toNat + x.inputPeak.toNat * 2 ^ 16, s.modPwr fun x => { x with inputPeak := 0 })
  | 0x110 => (x.opHours.toNat, s)
  | 0x114 => (x.powerCycles.toNat, s)
  | 0x118 => (phaseFail s, s)
  | _ => (0, s)

def benchRead (off : Nat) (s : State) : Nat :=
  let v := s.supv
  let per := fun (f : BenchS → Bool) => allChans.foldl (fun a c => a + boolBit (f (s.chan c).bench) c.val) 0
  match off with
  | 0x100 => s.field (gpage .bench) 0x100 25 16 * 2 ^ 16
  | 0x104 => (v.surveyPending ||| v.surveyAsked).toNat + v.surveyRunning.toNat * 2 ^ 10 + boolBit v.modDatumDone 20
  | 0x108 =>
    per (fun b => 0 < b.entryDx || 0 < b.entryGx || 0 < b.entryMx) + boolBit (0 < v.hubEntry) 9 + per BenchS.aged * 2 ^ 10 +
      boolBit v.modAged 19 + v.hubEntry * 2 ^ 20
  | 0x10C => v.lastSurvey.toNat
  | _ => 0

def fbookRead (path : Path) (off : Nat) (s : State) : Nat :=
  match off with
  | 0x100 => s.book.seq.toNat
  | 0x104 => bookUsed s.book + boolBit s.book.full 19 + s.book.dropped * 2 ^ 20
  | 0x10C => (s.idx path (gpage .fbook) 0x10C).toNat
  | 0x110 => (bookWord s.book (s.idx path (gpage .fbook) 0x10C).toNat).toNat
  | _ => 0

def cairnRead (path : Path) (off : Nat) (s : State) : Nat :=
  let sel := (s.idx path (gpage .cairn) 0x104).toNat
  match off with
  | 0x100 => (List.finRange 10).foldl (fun a r => a + boolBit s.rings[r.val].frozen.isSome r.val) 0 + s.slots.length * 2 ^ 20
  | 0x104 => sel
  | 0x108 => (cairnWord s (sel / 65536) (sel % 65536)).toNat
  | _ => 0

def secRead (off : Nat) (s : State) : Nat × State :=
  let x := s.sec
  match off with
  | 0x100 => (rollbackReg s, s)
  | 0x104 => (x.active.toNat * 2 ^ 18 + x.preferred.toNat * 2 ^ 24, s)
  | 0x108 => (x.inForce.length + x.rejected * 2 ^ 8 + x.revoked.toNat * 2 ^ 16, s.modSec fun x => { x with rejected := 0 })
  | 0x10C =>
    (boolBit x.identOk 0 + boolBit s.icp.attestReq.isSome 1 + boolBit x.keySx 2 + x.reports * 2 ^ 16, s.modSec fun x => { x with reports := 0 })
  | _ => (0, s)

/-! ## Host-port pages -/

/-- The register's stored bits, its rc fields cleared by the read (R7). -/
def storedRead (p : Page) (off : Nat) (s : State) : Nat × State :=
  match regMasks p.blk off with
  | some (_, _, rc, _) => ((s.reg p off).toNat, if rc = 0 then s else s.setReg p off (s.reg p off &&& ~~~rc))
  | none => (0, s)

/-- HMAC's own registers. LINK_STAT of a link that is up reads FEC lock and every lane aligned (R60); of one that is down, what the loss left
(R79). -/
def hmacRead (off : Nat) (s : State) : Nat × State :=
  let mac := s.ownMac.toNat
  match off with
  | 0x100 => (mac % 2 ^ 32, s)
  | 0x104 => (mac / 2 ^ 32, s)
  | 0x108 => (if s.icp.linkUp then 0x3FF else (s.reg (gpage .hmac) 0x108).toNat, s)
  | _ => storedRead (gpage .hmac) off s

def icpRead (off : Nat) (s : State) : Nat × State :=
  match off with
  | 0x100 => (s.icp.rxSeqHigh.toNat, s)
  | 0x104 => (s.icp.txSeq.toNat, s)
  | 0x108 => (s.icp.txAcked.toNat, s)
  | 0x11C => (min s.icp.outq.length outqMax + boolBit s.icp.hostLost 16 + boolBit s.outqFull 17, s)
  | _ => storedRead (gpage .icp) off s

/-- A channel's hub port carries a transfer: its own, a loan it lends to, or a plat it serves. -/
def hubBusy (s : State) (c : Fin 9) : Bool :=
  let moving := fun (f : Fly) => f.committed && !f.done
  ((s.chan c).fly.any fun f => moving f && (f.unit = .reduce || f.unit = .loan || f.unit = .offload ||
    (dOpcode f.desc = 0x51 && prSource f.desc = 1))) ||
    allChans.any fun d => (s.chan d).fly.any fun f => moving f &&
      ((f.unit = .loan && lenderOf s = some c) || (dOpcode f.desc = 0x51 && prSource f.desc = 1 && prChan f.desc = c))

/-- `HUB.PORT_STAT` (R309). -/
def portStat (s : State) : Nat :=
  let host := allChans.any fun c => (s.chan c).fly.any fun f => f.unit = .offload && f.committed && !f.done
  allChans.foldl (fun a c => a + boolBit (hubBusy s c) c.val) 0 + boolBit host 9 + (s.hub.loans.filter fun l => !l.2.recalled).length * 2 ^ 10

def hubRead (off : Nat) (s : State) : Nat × State :=
  match off with
  | 0x104 => (portStat s, s)
  | _ => storedRead (gpage .hub) off s

/-! ## Channel pages -/

/-- The state of a stream (R122): EMPTY, ISSUING, WAITING, HALTED. -/
def streamState (s : State) (c : Fin 9) (st : Fin 4) : Nat :=
  let x := (s.chan c).stream st
  if x.halted then 3
  else if x.queue.isEmpty && x.fetch.isNone then 0
  else if (headOf st x).isSome && (headReady s c st).isNone then 2
  else 1

def seqRead (c : Fin 9) (off : Nat) (s : State) : Nat :=
  let p := cpage c .seq
  match off with
  | 0x104 => allStreams.foldl (fun a st => a + streamState s c st * 4 ^ st.val) 0
  | 0x108 => allStreams.foldl (fun a st => a + ((s.chan c).stream st).queue.length * 256 ^ st.val) 0
  | 0x10C => (s.reg p 0x10C).toNat
  | 0x110 => (s.stake c (s.reg p 0x10C).toNat).toNat
  | _ => 0

/-- A committed word of the allocation table (R207). -/
def allocWord (ch : Chan) (i : Nat) : Nat := (ch.allocEntry (i / 4)).getD (i % 4) 0 |>.toNat

def layoutRead (c : Fin 9) (off : Nat) (s : State) : Nat × State :=
  match off with
  | 0x104 => (allocWord (s.chan c) (s.reg (cpage c .layout) 0x100).toNat, s)
  | _ => storedRead (cpage c .layout) off s

/-- `MERID.OUTSTANDING` (R332, R336): the tracker's occupancy, and its peak since the last read. -/
def outstanding (c : Fin 9) (s : State) : Nat × State :=
  let m := (s.chan c).merid
  (m.occupancy + m.peak * 2 ^ 16, s.modMerid c fun m => { m with peak := 0 })

def meridRead (c : Fin 9) (off : Nat) (s : State) : Nat × State :=
  match off with
  | 0x10C => outstanding c s
  | _ => storedRead (cpage c .merid) off s

/-- `PLAT.STATUS` (R393). -/
def platStatus (c : Fin 9) (s : State) : Nat :=
  let x := (s.chan c).plat
  let serving := allChans.any fun d => (s.chan d).fly.any fun f =>
    dOpcode f.desc = 0x51 && f.committed && !f.done && prSource f.desc = 1 && prChan f.desc = c
  let runs := fun (op : Nat) => (s.chan c).fly.any fun f => dOpcode f.desc = op && f.begun
  let gens := match s.planeOf c with | some k => min 2 (ownGens s c k).length | none => 0
  boolBit (runs 0x50) 0 + boolBit (runs 0x51 || serving) 1 + boolBit x.copyOut.isSome 2 +
    boolBit (x.inbound.toList.any fun a => a.receiving.isSome) 3 + boolBit x.copyValid[0] 4 + boolBit x.copyValid[1] 5 +
    boolBit x.cofed[0] 6 + boolBit x.cofed[1] 7 + gens * 2 ^ 8 + (x.inbound.toList.filter fun a => a.bound.isSome).length * 2 ^ 10

def platRead (c : Fin 9) (off : Nat) (s : State) : Nat × State :=
  match off with
  | 0x100 => (platStatus c s, s)
  | 0x104 => ((newestGen s c).toNat, s)
  | _ => storedRead (cpage c .plat) off s

def LinkState.code : LinkState → Nat
  | .off => 0 | .training => 1 | .active => 2 | .hold => 3 | .fenced => 4

def travRead (c : Fin 9) (i : Fin 6) (off : Nat) (s : State) : Nat × State :=
  let p := travPage c i
  match off with
  | 0x100 =>
    let (v, s') := storedRead p 0x100 s
    (v + (s.port c i).state.code + boolBit (!(s.port c i).switching.isEmpty) 4, s')
  | 0x108 =>
    let v := (s.reg p 0x108).toNat
    let own := s.supv.feedTag
    (v + boolBit (bitAt v 16 && own.getLsbD 31 && v % 65536 = own.toNat % 65536) 17, s)
  | _ => storedRead p off s

def bearingRead (c : Fin 9) (off : Nat) (s : State) : Nat × State :=
  match off with
  | 0x100 => ((s.reg (cpage c .bearing) 0x100).toNat + ((s.planeOf c).map Fin.val).getD 0 * 2 ^ 16, s)
  | 0x108 =>
    let i := (s.reg (cpage c .bearing) 0x104).toNat
    if i < 320 then (bearingEntry s c i, s) else (let (v, s) := s.draw; (v.toNat, s))
  | _ => storedRead (cpage c .bearing) off s

def cclkRead (c : Fin 9) (off : Nat) (s : State) : Nat × State :=
  let b := (s.chan c).bench
  match off with
  | 0x100 => ((s.reg (cpage c .cclk) 0x100).toNat + b.entryDx + b.entryGx * 2 ^ 4 + b.entryMx * 2 ^ 8, s)
  | 0x104 => ((s.reg (cpage c .cclk) 0x104).toNat + (List.finRange 6).foldl (fun a d => a + boolBit (s.chan c).domRun[d.val] (8 + d.val)) 0, s)
  | _ => (0, s)

/-- `CBENCH.READ_DATA` at an index (R439). -/
def benchWord (b : BenchS) (i : Nat) : Nat :=
  if i % 2 = 0 then (let (v, o) := spGet (fun _ => (0, 0)) b.latest (i / 2); v.toNat + o.toNat * 2 ^ 16)
  else (spGet (fun _ => (0 : H16)) b.datum (i / 2)).toNat

def cbenchRead (c : Fin 9) (off : Nat) (s : State) : Nat × State :=
  let b := (s.chan c).bench
  match off with
  | 0x104 =>
    let i := (s.reg (cpage c .cbench) 0x100).toNat
    if i < 192 then (benchWord b i, s) else (let (v, s) := s.draw; (v.toNat, s))
  | 0x108 => (b.done.toNat + b.bad.toNat * 2 ^ 4 + b.hours * 2 ^ 8, s)
  | _ => storedRead (cpage c .cbench) off s

/-! ## One block-specific register -/

/-- The value of an assigned block-specific register, and what reading it does. -/
def readSpecific (path : Path) (p : Page) (off : Nat) (s : State) : W32 × State :=
  match pairHalf p.blk off with
  | some hi => readPair path p off hi s
  | none =>
    let c := p.chan
    let (v, s) : Nat × State := match p.blk with
      | .supv => (supvRead off s, s)
      | .clocks => (clocksRead off s, s)
      | .pwr => pwrRead off s
      | .bench => (benchRead off s, s)
      | .fbook => (fbookRead path off s, s)
      | .cairn => (cairnRead path off s, s)
      | .sec => secRead off s
      | .hmac => hmacRead off s
      | .icp => icpRead off s
      | .hub => hubRead off s
      | .seq => (seqRead c off s, s)
      | .layout => layoutRead c off s
      | .merid => meridRead c off s
      | .plat => platRead c off s
      | .trav => travRead c p.inst off s
      | .bearing => bearingRead c off s
      | .cclk => cclkRead c off s
      | .cbench => cbenchRead c off s
      | _ => storedRead p off s
    (w32 v, if indirect p.blk off then advance path p s else s)

/-! ## BLOCK_STAT fields -/

def denseStat (c : Fin 9) (a : Fin 2) (s : State) : Nat :=
  let x := (s.chan c).arrays[a.val]
  let mine := (s.chan c).fly.filter fun f => f.unit = arrUnit a
  let feeding := mine.any fun f => f.phase = .feeding && f.begun
  boolBit feeding 0 + boolBit (mine.any fun f => f.phase = .staged || (f.phase = .feeding && !f.begun)) 1 + boolBit x.heldSet.isSome 2 +
    boolBit (x.ramp = .full && !feeding && rampMode s c a ≠ 2) 3 + boolBit (x.ramp = .rampUp || x.ramp = .rampDown) 4 +
    boolBit (x.ramp = .parked || (x.ramp = .rest && parkSet s c)) 5

/-- A PREDICT at work that audits some of its tiles (R242). -/
def auditsNow (f : Fly) : Bool :=
  f.unit = .gx && f.begun && dOpcode f.desc = 0x22 && kPredict f.desc && (List.range (kTiles f.desc)).any (audited f.env f.desc)

/-- `GATHER.BLK_STAT`: how far a PREDICT has come, so whether one of its audits is in progress, is not told by the spec's steps (log 2). -/
def gatherStat (c : Fin 9) (s : State) : Nat × State :=
  let fly := (s.chan c).fly
  let sparse := fun (a : Fin 2) => fly.any fun f => f.unit = arrUnit a && isSparse f.desc && f.phase = .feeding && f.begun
  let v := boolBit (fly.any fun f => f.unit = .gx) 0 + boolBit (sparse 0) 1 + boolBit (sparse 1) 2
  if fly.any auditsNow then (let (b, s) := s.draw; (v + boolBit (b.getLsbD 0) 3, s)) else (v, s)

/-- A DISPATCH waits for its plan (R255): none is held for its context, whose deadline runs. -/
def waitsPlan (r : RouteS) (f : Fly) : Bool :=
  let x := apCtx f.desc
  f.unit = .apply && f.begun && !f.committed && apMode f.desc = 0 && r.ctxs[x.val].isOpen && r.ctxs[x.val].running && !onTimePlan r x

def routeStat (c : Fin 9) (s : State) : Nat :=
  let r := (s.chan c).route
  (List.finRange 4).foldl (fun a x => a + boolBit r.ctxs[x.val].isOpen x.val) 0 + boolBit (planHeld r) 4 +
    boolBit ((s.chan c).fly.any (waitsPlan r)) 5

/-- `MERID.BLK_STAT` (R336): the port granted last, a transfer in progress, a lock in force. -/
def meridStat (m : MeridS) : Nat := m.owner.val + boolBit m.cur.isSome 4 + boolBit m.lock.isSome 5

/-- The BLOCK_STAT field of a page, in its own numbering from bit 0; free where the state does not hold what it tells (log 2). -/
def blockStat (p : Page) (s : State) : Nat × State :=
  let c := p.chan
  let b := (s.chan c).bench
  match p.blk with
  | .bench => ((List.finRange 3).foldl (fun a d => a + s.supv.modOffset[d.val].toNat * 16 ^ d.val) 0, s)
  | .sec =>
    (boolBit s.sec.installing.isSome 0 + s.sec.result.toNat * 2 +
      (List.finRange 6).foldl (fun a i => a + boolBit (otherValid s i) (4 + i.val)) 0, s)
  | .hub => (s.hub.reductions.length, s)
  | .seq =>
    (allStreams.foldl (fun a st => a + boolBit ((s.chan c).stream st).fetch.isSome st.val) 0 + boolBit (!(s.chan c).recsWait.isEmpty) 4, s)
  | .dense => (denseStat c (pageArr p) s, s)
  | .gather => gatherStat c s
  | .route => (routeStat c s, s)
  | .layout =>
    (boolBit ((s.chan c).fly.any fun f => f.unit = .layout && f.begun && dOpcode f.desc = 0x02) 0 +
      boolBit ((s.chan c).fly.any fun f => (unitArr f.unit).isSome && f.granted && !f.done && mDrain f.desc) 1, s)
  | .cache => (boolBit ((s.chan c).writeBack ≠ 0) 0, s)
  | .merid => (meridStat (s.chan c).merid, s)
  | .hbm => (boolBit (s.fenced p) 0, s)
  | .update => (boolBit ((s.chan c).fly.any fun f => f.unit = .update && f.begun) 0, s)
  | .cbench => ((List.finRange 4).foldl (fun a d => a + b.offset[d.val].toNat * 16 ^ d.val) 0, s)
  | _ => (0, s)

/-! ## The common header (R84, R91) -/

/-- `CLK_DOMAIN`. -/
def clkDomain (p : Page) (s : State) : Nat :=
  if p.blk.isChan then
    let d := chanDomain p.blk p.inst.val
    domCode d + p.chan.val * 2 ^ 8 + chanFreq s p.chan d * 2 ^ 16
  else
    let d : Fin 6 := match p.blk with
      | .hmac => 0 | .hub => 1 | .icp => 2 | _ => if s.sec.sxActive then 4 else 3
    modDomCode d + 15 * 2 ^ 8 + modFreq s d * 2 ^ 16

/-- `BLK_STAT` (R84). -/
def blkStat (p : Page) (s : State) : Nat × State :=
  let h := s.hdr p
  let (b, s') := blockStat p s
  (boolBit h.enable 0 + boolBit (s.fenced p) 1 + boolBit (isDrained s p) 2 + boolBit h.resetting 3 + boolBit h.faulted 4 +
    boolBit (!s.domOn p) 5 + b * 2 ^ 16, s')

/-- A register of the common header, and what reading it does. -/
def readHeader (p : Page) (off : Nat) (s : State) : W32 × State :=
  let h := s.hdr p
  match off with
  | 0x00 => (w32 p.base, s)
  | 0x04 => (0x100, s)
  | 0x08 => (w32 (boolBit h.enable 0 + boolBit h.fence 1), s)
  | 0x0C => let (v, s) := blkStat p s; (w32 v, s)
  | 0x10 => (h.errStat, s)
  | 0x14 => (h.errEnable, s)
  | 0x18 => (h.errFirst, s)
  | 0x1C => (h.errInject, s)
  | 0x20 => (h.retryCnt, s.modHdr p fun h => { h with retryCnt := 0 })
  | 0x24 => (h.faultCnt, s.modHdr p fun h => { h with faultCnt := 0 })
  | 0x28 => (h.epoch, s)
  | 0x2C => (w32 (clkDomain p s), s)
  | _ => (0, s)

/-! ## One read (R61, R82, R83, R92, R490) -/

/-- The page's channel cannot be reached at all: OFF, or FAILED with an MX that does not answer. -/
def unreachable (s : State) (p : Page) : Bool :=
  p.blk.isChan && ((s.chan p.chan).role = .off || ((s.chan p.chan).role = .failed && !(s.chan p.chan).answers))

/-- A read of one register over a path: its status, its value (zero unless OK), the state after. -/
def readReg (path : Path) (a : W32) (s : State) : H16 × W32 × State :=
  match pageOf a with
  | none => (rsAddr, 0, s)
  | some p =>
    let off := a.toNat % 4096
    if unreachable s p then (rsFenced, 0, s)
    else if off < 0x100 then
      let (v, s) := readHeader p off s
      (rsOk, v, s)
    else if !assigned p.blk off then (rsOk, 0, s)
    else if !s.domOn p then (rsFenced, 0, s)
    else
      let (v, s) := readSpecific path p off s
      (rsOk, v, s)

end Sys2Proof.Machine
end

