-- ==== Sys2Proof/Machine/RegWrite.lean ====
section
/-! DEFINITION. Writing registers: the common header (R84 to R90), each page's block-specific registers with what a write of them does,
the writes that are refused as a whole (R488), and the claims and recoveries of the supervisor (R389, R390). -/
namespace Sys2Proof.Machine

/-! ## Stored registers -/

/-- A write to a stored register: the bits it sets, and the bits that a 1 clears (R7). -/
def storedWrite (p : Page) (off : Nat) (v : W32) (s : State) : State :=
  match regMasks p.blk off with
  | some (w, w1c, _, _) => s.setReg p off (((s.reg p off &&& ~~~w) ||| (v &&& w)) &&& ~~~(v &&& w1c))
  | none => s

/-- A stored write that a condition refuses (R488). -/
def storedUnless (bad : Bool) (p : Page) (off : Nat) (v : W32) (s : State) : State :=
  if bad then cfgRefused p s else storedWrite p off v s

/-- A write to a half of a 64-bit pair (R94): _LO is held, _HI commits both. -/
def pairWrite (path : Path) (p : Page) (off : Nat) (hi : Bool) (v : W32) (s : State) : State :=
  if hi then
    let k := latchKey path p (off - 4)
    let s := match spGet noLatch s.loHeld k with
      | some lo => (s.setReg p (off - 4) lo)
      | none => s
    { s.setReg p off v with loHeld := spSet noLatch s.loHeld k none }
  else { s with loHeld := spSet noLatch s.loHeld (latchKey path p off) (some v) }

/-! ## The common header -/

/-- The cairn's source byte of a path (R435). -/
def pathSrc : Path → Nat
  | .icp => 0 | .sideband => 1

/-- A write of 1s to ERR_STAT: the causes clear, and ERR_FIRST's record with the last of them (R89). -/
def errStatWrite (p : Page) (v : W32) (s : State) : State :=
  s.modHdr p fun h =>
    let e := h.errStat &&& ~~~v
    { h with errStat := e, errFirst := if e = 0 then h.errFirst &&& ~~~(0x100 : W32) else h.errFirst }

/-- A write of ERR_INJECT (R90): armed by a mode other than none. -/
def errInjectWrite (p : Page) (v : W32) (s : State) : State :=
  let keep := v &&& 0x31F
  fireIfReleased p (s.modHdr p fun h => { h with errInject := if bitsOf v.toNat 9 8 = 0 then keep else keep ||| 0x80000000 })

/-- A write of BLK_CTRL (R84 to R86), and what follows for links, queued copies and stream heads. -/
def blkCtrlWrite (path : Path) (p : Page) (v : W32) (s : State) : State :=
  let s := ctrlWrite p v (pathSrc path) s
  if p.blk.isChan then settle p.chan (startCopy p.chan 3 (linkCheck p.chan s)) else s

/-- A write to the common header: performed whatever the block's fence or domain (R61, R92). -/
def writeHeader (path : Path) (p : Page) (off : Nat) (v : W32) (s : State) : State :=
  match off with
  | 0x08 => blkCtrlWrite path p v s
  | 0x10 => errStatWrite p v s
  | 0x14 => s.modHdr p fun h => { h with errEnable := v ||| 4 }
  | 0x1C => errInjectWrite p v s
  | _ => s

/-! ## SUPV -/

/-- The refusals of R23. -/
def mapBad (v : W32) (s : State) : Bool :=
  let f := fun (k : Nat) => bitsOf v.toNat (4 * k + 3) (4 * k)
  let ks := List.range 8
  (ks.any fun k => f k ≠ k && f k ≠ 8) || 1 < (ks.filter fun k => f k = 8).length ||
    (ks.any fun k => decide (f k = 8) ≠ s.supv.onSpare.getLsbD k) || s.supv.switching ≠ 0

/-- A channel that the map no longer names returns to SPARE unless it holds a lasting fault (R389). -/
def freeUnnamed (s : State) : State :=
  s.each allChans fun c s =>
    if (s.planeOf c).isNone && (s.chan c).role = .fenced && !(s.chan c).lasting then
      setRole c .spare false (s.each (chanPages c) releaseBlock)
    else s

/-- A write of PLANE_MAP (R22, R23). -/
def planeMapWrite (path : Path) (v : W32) (s : State) : State :=
  if mapBad v s then cause (gpage .supv) 16 s
  else
    let s := control 7 (gpage .supv) (pathSrc path) v (s.modSupv fun x => { x with planeMap := v })
    (freeUnnamed s).each allChans linkCheck

/-- A write of FEED_TAG (R379): sent to the peer of every active link (R351). -/
def feedTagWrite (v : W32) (s : State) : State :=
  let tag := v &&& 0x8000FFFF
  let s := s.modSupv fun x => { x with feedTag := tag }
  s.each allChans fun c s => s.each allPorts fun p s =>
    if (s.port c p).state = .active then startLinkMsg c p 0x08 (toLE 4 tag.toNat) none s else s

/-- A recovery of the named channels may be accepted (R390). -/
def recoverOk (mask : Nat) (s : State) : Bool :=
  s.supv.switching = 0 && s.supv.claim.isNone &&
    allChans.all fun c => !bitAt mask c.val || ((s.planeOf c).isNone && s.chanFenced c && !s.supv.recovering.getLsbD c.val)

/-- A write of CHAN_RECOVER (R390): the supervisor powers the named channels down; RECOVERY_DONE brings them up. -/
def recoverWrite (mask : Nat) (s : State) : State :=
  if mask = 0 then s
  else if !recoverOk mask s then cfgRefused (gpage .supv) s
  else
    let s := s.each (allChans.filter fun c => bitAt mask c.val) powerDownChan
    s.modSupv fun v => { v with recovering := v.recovering ||| BitVec.ofNat 9 mask }

/-- A write of ACTIVE_SX.SWAP (R466). -/
def swapWrite (v : W32) (s : State) : State :=
  if !bitAt v.toNat 8 then s else if s.sec.standbyOk then takeover true s else cfgRefused (gpage .supv) s

def supvWrite (path : Path) (off : Nat) (v : W32) (s : State) : State :=
  match off with
  | 0x100 => planeMapWrite path v s
  | 0x10C => feedTagWrite v s
  | 0x11C => swapWrite v s
  | 0x120 => recoverWrite (bitsOf v.toNat 8 0) s
  | _ => s

/-! ## Claims (R389) -/

/-- The claim of plane `p` by channel `c` is accepted. -/
def claimOk (c : Fin 9) (p : Fin 8) (s : State) : Bool :=
  let spare := c = 8 && ((s.chan 8).role = .spare || (s.chan 8).role = .lending) && s.chanFenced (s.planeChan p)
  let back := c.val = p.val && (s.chan c).role = .spare && s.planeChan p = 8
  s.supv.switching = 0 && s.supv.claim.isNone && (spare || back)

/-- An accepted claim, up to the switching of the selector, which SELECTOR_SWITCH_DONE ends. -/
def claimGo (path : Path) (c : Fin 9) (p : Fin 8) (v : W32) (s : State) : State :=
  let s := s.modSupv fun x => { x with claim := some ⟨c, p⟩ }
  let s := s.when ((s.chan 8).role = .lending) (recallLoans fun _ _ => true)
  let s := s.when (c ≠ 8) (fenceChannel 8 .fenced false none)
  let s := s.each (chanPages c) fun q s => releaseBlock q (endReset q (beginReset q s))
  let s := setRole c .filling false s
  let s := s.modPlat c fun x =>
    { x with inbound := x.inbound.map fun a => if a.bound.isSome && a.plane ≠ p then .empty else a }
  let s := s.modSupv fun x => { x with switching := x.switching ||| BitVec.ofNat 8 (2 ^ p.val) }
  control 8 (cpage c .plat) (pathSrc path) v s

/-- A write of PLAT.STATUS (R377, R380, R389): a refused claim leaves the whole write without effect. -/
def platStatusWrite (path : Path) (c : Fin 9) (v : W32) (s : State) : State :=
  let n := v.toNat
  let p : Fin 8 := ⟨bitsOf n 18 16 % 8, by omega⟩
  if bitAt n 19 && !claimOk c p s then cfgRefused (cpage c .plat) s
  else
    let s := s.when (bitAt n 19) (claimGo path c p v)
    let s := releaseIn c (bitsOf n 21 20) s
    s.when (bitAt n 22) (queueCopies c)

/-- A write of PARTNER or PARTNER2: refused if both would be enabled with one station (R393). -/
def partnerWrite (c : Fin 9) (off : Nat) (v : W32) (s : State) : State :=
  let p := cpage c .plat
  let other := s.reg p (if off = 0x108 then 0x10C else 0x108)
  storedUnless (bitAt v.toNat 14 && bitAt other.toNat 14 && bitsOf v.toNat 13 0 = bitsOf other.toNat 13 0) p off v s

/-! ## Other global pages -/

def domainStatWrite (v : W32) (s : State) : State :=
  if !bitAt v.toNat 14 then s
  else
    let i := (s.reg (gpage .clocks) 0x108).toNat
    if h : i / 6 < 9 then s.modChan ⟨i / 6, h⟩ fun ch => { ch with domLost := ch.domLost.set (i % 6) false }
    else s.modSupv fun x => { x with hmacLost := x.hmacLost.set (i % 6) false }

def clocksWrite (off : Nat) (v : W32) (s : State) : State :=
  match off with
  | 0x108 => storedUnless (59 < bitsOf v.toNat 5 0) (gpage .clocks) off v s
  | 0x10C => domainStatWrite v s
  | _ => s

/-- A write of PWR.STATE_REQ (R447, R451): a refused request leaves the whole write without effect (R488). `released`: the leak sense
has released. -/
def stateReqWrite (path : Path) (released : Bool) (v : W32) (s : State) : State :=
  let code := bitsOf v.toNat 2 0
  if code ≠ 0 && !stateReqOk path code s then cfgRefused pwrPage s
  else
    let s := s.when (bitAt v.toNat 8) (leakClear released)
    stateReq path code s

/-- TRIP_SEEN written 1 (R456). -/
def tripSeenWrite (v : W32) (s : State) : State :=
  if bitAt v.toNat 15 then (releaseAlert s).modPwr fun x => { x with tripSeen := false } else s

def pwrWrite (path : Path) (off : Nat) (v : W32) (s : State) : State :=
  match off with
  | 0x100 => tripSeenWrite v s
  | 0x104 => let (r, s) := s.draw; stateReqWrite path (r.getLsbD 0) v s
  | _ => s

/-- A write of BENCH.SURVEY_CTRL (R427, R438): CANCEL withdraws the requests not yet started before new ones are taken. -/
def surveyCtrlWrite (v : W32) (s : State) : State :=
  if bitsOf v.toNat 25 16 = 0 then cfgRefused (gpage .bench) s
  else
    let s := storedWrite (gpage .bench) 0x100 v s
    s.modSupv fun x =>
      let asked := if bitAt v.toNat 10 then x.surveyAsked &&& x.surveyRunning else x.surveyAsked
      { x with surveyAsked := asked ||| BitVec.ofNat 10 (bitsOf v.toNat 9 0) }

/-- A write of FBOOK.CLEAR (R434). -/
def bookClear (v : W32) (s : State) : State :=
  if v = s.book.seq then s.modBook fun b => { b with records := [], full := false, dropped := 0, seq := b.seq + 1 }
  else cfgRefused (gpage .fbook) s

def fbookWrite (path : Path) (off : Nat) (v : W32) (s : State) : State :=
  match off with
  | 0x108 => bookClear v s
  | 0x10C => s.setIdx path (gpage .fbook) off (v &&& 0x3FFFFF)
  | _ => s

def cairnWrite (path : Path) (off : Nat) (v : W32) (s : State) : State :=
  match off with
  | 0x100 => s.each ((List.finRange 10).filter fun r => bitAt v.toNat (10 + r.val)) releaseRing
  | 0x104 => s.setIdx path (gpage .cairn) off (v &&& 0x1FFFFF)
  | _ => s

/-! ## Host-port pages -/

def pfcOn (s : State) : Bool := bitAt (s.reg (gpage .hmac) 0x10C).toNat 8

/-- The priority of a class (R41). -/
def classPri (s : State) (k : Fin 2) : Nat := if k = 0 then s.field (gpage .hmac) 0x10C 2 0 else s.field (gpage .hmac) 0x10C 6 4

def sendPfc (k : Fin 2) (quanta : H16) (s : State) : State :=
  if s.icp.linkUp then State.bump { s with sent := s.sent ++ [.pfc (BitVec.ofNat 3 (classPri s k)) quanta] } (gpage .hmac) 0x128 1 else s

/-- The class's ingress buffer holds `occ` bytes (R43): XOFF when it has passed 2 MiB, and quanta 0 once it is below 1 MiB again. -/
def observeIngress (k : Fin 2) (occ : Nat) (s : State) : State :=
  let was := s.icp.ingress[k.val]
  let s := s.modIcp fun i => { i with ingress := i.ingress.set k.val occ }
  if !pfcOn s then s
  else if 2 ^ 21 < occ && (was ≤ 2 ^ 21 || !s.icp.xoff[k.val]) then
    sendPfc k 0xFFFF (s.modIcp fun i => { i with xoff := i.xoff.set k.val true })
  else if occ < 2 ^ 20 && s.icp.xoff[k.val] then
    sendPfc k 0 (s.modIcp fun i => { i with xoff := i.xoff.set k.val false })
  else s

/-- Frames held for a pause leave in order: responses, and frames of the out-queue. -/
def flushClass (k : Fin 2) (s : State) : State :=
  let l := s.icp.txWait[k.val]
  sendOutq ((s.modIcp fun i => { i with txWait := i.txWait.set k.val [] }).each l transmit)

/-- PFC_EN cleared ends every pause and forgets the XOFFs, with no frame of quanta 0; set, it looks at the buffers as they stand (R43; the
clearing is a DESIGN CHOICE, log 76). -/
def pfcChanged (s : State) : State :=
  if pfcOn s then s.each (List.finRange 2) fun k s => observeIngress k s.icp.ingress[k.val] s
  else flushClass 1 (flushClass 0 (s.modIcp fun i => { i with paused := .replicate 2 false, xoff := .replicate 2 false }))

def hmacWrite (off : Nat) (v : W32) (s : State) : State :=
  match off with
  | 0x10C =>
    if bitsOf v.toNat 2 0 = bitsOf v.toNat 6 4 then cfgRefused (gpage .hmac) s
    else
      let s' := storedWrite (gpage .hmac) off v s
      if pfcOn s = pfcOn s' then s' else pfcChanged s'
  | _ => s

/-- A channel's records that waited for room or for the host's address go out, 256 to a frame, as far as there is room (R59, R69). -/
def releaseRecs (c : Fin 9) (s : State) : State :=
  let s := s.modChan c fun ch => { ch with recs := ch.recsWait ++ ch.recs, recsWait := [] }
  s.each (List.range ((s.chan c).recs.length / 256 + 1)) fun _ => sendCompletions c

/-- What a full out-queue or a missing host address held back goes out (R59, R69): offloaded data first, so that the frames of one message
carry consecutive numbers (R45), then events, then each channel's records (the order of these is a DESIGN CHOICE, log 76). -/
def releaseHeldOut (s : State) : State :=
  if s.outqFull || !s.hostKnown then s
  else
    let s := pump s
    let l := s.icp.heldEvents
    let s := (s.modIcp fun i => { i with heldEvents := [] }).each l sendEvent
    s.each (allChans.filter fun c => !(s.chan c).recsWait.isEmpty || 256 ≤ (s.chan c).recs.length) releaseRecs

/-- HOST_LOST cleared (R59): the held frames go out again, oldest first, each a fresh attempt. -/
def hostLostClear (s : State) : State :=
  if !s.icp.hostLost then s
  else sendOutq (s.modIcp fun i => { i with hostLost := false, outq := i.outq.map fun e => { e with tries := 1, due := some false } })

/-- The host's address has become known (R69): what waited for it goes out at once, records too (the latter a DESIGN CHOICE, log 76). -/
def hostFound (s : State) : State := releaseHeldOut ((sendOutq s).each allChans releaseRecs)

def icpWrite (off : Nat) (v : W32) (s : State) : State :=
  let p := gpage .icp
  match off with
  | 0x10C => storedWrite p off v s
  | 0x110 =>
    let had := s.hostKnown
    let s := storedWrite p off v s
    if s.hostKnown && !had then hostFound s else s
  | 0x114 => storedUnless (v.toNat < 2 || 1000 < v.toNat) p off v s
  | 0x118 =>
    let s := storedUnless (1000 < v.toNat) p off v s
    if v = 0 then s.each allChans sendCompletions else s
  | 0x11C => if bitAt v.toNat 16 then hostLostClear s else s
  | _ => s

/-- A write of HUB.PORT_STAT: RECALL (R307, R309). -/
def recallWrite (v : W32) (s : State) : State :=
  let id := bitsOf v.toNat 30 23
  if !bitAt v.toNat 31 then s
  else if s.hub.loans.any fun l => l.1 = id && !l.2.recalled then recallLoans (fun k _ => k = id) s
  else cfgRefused (gpage .hub) s

def hubWrite (off : Nat) (v : W32) (s : State) : State :=
  match off with
  | 0x100 => portEnWrite v s
  | 0x104 => recallWrite v s
  | _ => storedWrite (gpage .hub) off v s

/-! ## Channel pages -/

def seqWrite (c : Fin 9) (off : Nat) (v : W32) (s : State) : State :=
  match off with
  | 0x100 => abortId c v s
  | 0x104 => streamCtl c (bitsOf v.toNat 11 8) (bitsOf v.toNat 15 12) s
  | 0x110 => s.setStake c (s.reg (cpage c .seq) 0x10C).toNat v
  | _ => storedWrite (cpage c .seq) off v s

def routeWrite (c : Fin 9) (off : Nat) (v : W32) (s : State) : State :=
  let p := cpage c .route
  match off with
  | 0x100 => storedUnless (10000 < bitsOf v.toNat 13 0) p off v s
  | 0x10C => storedUnless (bitsOf v.toNat 3 0 = 0 || 8 < bitsOf v.toNat 3 0) p off v s
  | _ => s

def layoutWrite (c : Fin 9) (off : Nat) (v : W32) (s : State) : State :=
  match off with
  | 0x104 =>
    let i := (s.reg (cpage c .layout) 0x100).toNat
    allocWrite c (i / 4) (i % 4) v s
  | _ => storedWrite (cpage c .layout) off v s

def numwWrite (c : Fin 9) (off : Nat) (v : W32) (s : State) : State :=
  storedUnless (off = 0x118 && 16 < bitsOf v.toNat 4 0) (cpage c .numw) off v s

def platWrite (path : Path) (c : Fin 9) (off : Nat) (v : W32) (s : State) : State :=
  match off with
  | 0x100 => platStatusWrite path c v s
  | 0x108 => partnerWrite c off v s
  | 0x10C => partnerWrite c off v s
  | _ => s

def travWrite (c : Fin 9) (i : Fin 6) (off : Nat) (v : W32) (s : State) : State :=
  match off with
  | 0x10C => forceRx c i (bitsOf v.toNat 17 16) (bitsOf v.toNat 20 18) s
  | _ => storedWrite (travPage c i) off v s

/-- A write of BEARING.STATION (R340, R366). -/
def stationWrite (c : Fin 9) (v : W32) (s : State) : State :=
  let p := cpage c .bearing
  let moves := bitsOf v.toNat 13 0 ≠ s.field p 0x100 13 0 && allPorts.any fun q => (s.port c q).state ≠ .off
  let bad := moves || bitsOf v.toNat 31 24 = 0
  if bad then cfgRefused p s else linkCheck c (storedWrite p 0x100 v s)

/-- A write of BEARING.TABLE_DATA (R342): an entry's fields must hold allowed values. -/
def tableWrite (c : Fin 9) (v : W32) (s : State) : State :=
  let i := (s.reg (cpage c .bearing) 0x104).toNat
  let e := v.toNat % 256
  if 320 ≤ i then s
  else if bitsOf e 2 0 = 6 || bitsOf e 4 3 = 3 || bitsOf e 7 5 ≠ 0 then cfgRefused (cpage c .bearing) s
  else s.modChan c fun ch => { ch with bearing := spSet (fun _ => (7 : W32)) ch.bearing i (w32 e) }

def bearingWrite (c : Fin 9) (off : Nat) (v : W32) (s : State) : State :=
  match off with
  | 0x100 => stationWrite c v s
  | 0x108 => tableWrite c v s
  | _ => storedWrite (cpage c .bearing) off v s

/-- A write of CPWR.RAMP_CTRL (R189, R191, R194): HOLD set brings an idle array to full activity, and cleared lets one that mode RAMP_ONLY
keeps at rest ramp down; PARK prevails. -/
def rampCtrlWrite (c : Fin 9) (v : W32) (s : State) : State :=
  let had := holdSet s c
  let s := setPark c (bitAt v.toNat 0) (s.setField (cpage c .cpwr) 0x104 1 1 (if bitAt v.toNat 1 then 1 else 0))
  s.each (List.finRange 2) fun a s =>
    let idle := (s.chan c).arrays[a.val].ramp = .full && !presenting s c a
    if had && !holdSet s c && idle && rampMode s c a = 1 then rampDown c a s else holdUp c a s

def cpwrWrite (c : Fin 9) (off : Nat) (v : W32) (s : State) : State :=
  match off with
  | 0x100 => storedUnless (bitsOf v.toNat 1 0 = 3 || 512 < bitsOf v.toNat 25 16) (cpage c .cpwr) off v s
  | 0x104 => rampCtrlWrite c v s
  | _ => s

def cclkWrite (c : Fin 9) (off : Nat) (v : W32) (s : State) : State :=
  match off with
  | 0x100 => storedUnless (6 < bitsOf v.toNat 22 20 || 4 < bitsOf v.toNat 26 24) (cpage c .cclk) off v s
  | 0x104 => domainEnWrite c v s
  | _ => s

/-! ## One block-specific register -/

/-- What a write to an assigned block-specific register does. A register with no writable bit ignores it. -/
def writeSpecific (path : Path) (p : Page) (off : Nat) (v : W32) (s : State) : State :=
  let c := p.chan
  match pairHalf p.blk off with
  | some hi => if pairRw p.blk then pairWrite path p off hi v s else s
  | none =>
    match p.blk with
    | .supv => supvWrite path off v s
    | .clocks => clocksWrite off v s
    | .pwr => pwrWrite path off v s
    | .bench => if off = 0x100 then surveyCtrlWrite v s else s
    | .fbook => fbookWrite path off v s
    | .cairn => cairnWrite path off v s
    | .sec => if off = 0x104 then slotCommand v s else s
    | .hmac => hmacWrite off v s
    | .icp => icpWrite off v s
    | .hub => hubWrite off v s
    | .seq => seqWrite c off v s
    | .route => routeWrite c off v s
    | .layout => layoutWrite c off v s
    | .numw => numwWrite c off v s
    | .plat => platWrite path c off v s
    | .trav => travWrite c p.inst off v s
    | .bearing => bearingWrite c off v s
    | .cpwr => cpwrWrite c off v s
    | .cclk => cclkWrite c off v s
    | _ => storedWrite p off v s

/-! ## One write (R61, R82, R83, R92, R490) -/

/-- A write access to one register over a path: its status, and `k` done where it is performed. In Standby the pages that the sideband
reaches are served by the SX core started for the access (R450), not by a released block. -/
def writeAccess (path : Path) (a : W32) (v : W32) (k : Page → State → State) (s : State) : H16 × State :=
  match pageOf a with
  | none => (rsAddr, s)
  | some p =>
    let off := a.toNat % 4096
    if unreachable s p then (rsFenced, s)
    else if off < 0x100 then (rsOk, writeHeader path p off v s)
    else if !assigned p.blk off then (rsOk, s)
    else if !s.domOn p || (s.on && s.fenced p) then (rsFenced, s)
    else
      let s := k p s
      (rsOk, if indirect p.blk off then advance path p s else s)

/-- A write of one register. -/
def writeReg (path : Path) (a : W32) (v : W32) (s : State) : H16 × State :=
  writeAccess path a v (fun p s => writeSpecific path p (a.toNat % 4096) v s) s

end Sys2Proof.Machine
end

