-- ==== Sys2Proof/Machine/RegCmds.lean ====
section
/-! DEFINITION. The commands that read or write one register of a page (R7, R84 to R97 and each chapter's register tables), and the
events that end drains, resets, recoveries and selector switches. Each access goes over ICP unless the command names a path; its status and
value stand in `regOut`. -/
namespace Sys2Proof.Machine

/-! ## The two paths -/

/-- The registers that a sideband READ reaches (R485). -/
def sbReads (p : Page) (off : Nat) : Bool :=
  match p.blk with
  | .supv | .pwr | .fbook | .cairn => true
  | .hmac => off = 0x100 || off = 0x104
  | _ => false

/-- The registers that a sideband WRITE reaches (R485). -/
def sbWrites (p : Page) (off : Nat) : Bool :=
  match p.blk with
  | .pwr => off = 0x100 || off = 0x104
  | .fbook => off = 0x108 || off = 0x10C
  | .cairn => off = 0x104
  | _ => false

/-- The path reaches the module at all: ICP while the host port is powered and its link is up (R2, R60), the sideband while the module has
input (R80, R484). -/
def pathUp (path : Path) (s : State) : Bool :=
  match path with
  | .icp => s.hostUp && s.icp.linkUp
  | .sideband => s.pwr.power ≠ .unpowered

/-- An address that the path refuses before any page sees it: misaligned (R82), or outside the sideband's reach (R485). -/
def pathRefuses (path : Path) (reach : Page → Nat → Bool) (a : W32) : Option H16 :=
  let outside := match path, pageOf a with
    | .icp, _ => false
    | .sideband, none => true
    | .sideband, some p => !reach p (a.toNat % 4096)
  if outside then some rsAddr else if a.toNat % 4 ≠ 0 then some rsAlign else none

/-- In Standby a sideband access starts the SX core for the access (R450). -/
def coreForAccess (path : Path) (s : State) : State :=
  if path = .sideband && s.pwr.power = .standby then s.modPwr fun x => { x with coreRunning := true } else s

/-- One read over a path: status, value (zero unless OK), state. -/
def pathRead (path : Path) (a : W32) (s : State) : H16 × W32 × State :=
  let s := coreForAccess path s
  match pathRefuses path sbReads a with
  | some st => (st, 0, s)
  | none => readReg path a s

/-- One write over a path, `k` done where it is performed. -/
def pathWriteK (path : Path) (a : W32) (v : W32) (k : Page → State → State) (s : State) : H16 × State :=
  let s := coreForAccess path s
  match pathRefuses path sbWrites a with
  | some st => (st, s)
  | none => writeAccess path a v k s

def pathWrite (path : Path) (a : W32) (v : W32) (s : State) : H16 × State :=
  pathWriteK path a v (fun p s => writeSpecific path p (a.toNat % 4096) v s) s

/-! ## Commands built on them -/

/-- A command that reads one register. A path that does not reach the module leaves it unchanged (log 4). -/
def readCmd (path : Path) (a : W32) (s : State) : Out :=
  if pathUp path s then
    let (st, v, s) := pathRead path a s
    .next { s with regOut := some (st, v) }
  else .next s

/-- A command that writes one register. -/
def writeCmd (path : Path) (a : W32) (v : W32) (s : State) : Out :=
  if pathUp path s then
    let (st, s) := pathWrite path a v s
    .next { s with regOut := some (st, 0) }
  else .next s

/-- A command that reads or writes one indirect data register. -/
def rwCmd (a : W32) (w : Option W32) (s : State) : Out :=
  match w with
  | some v => writeCmd .icp a v s
  | none => readCmd .icp a s

def ctrlAddr (p : Page) : W32 := regAddr p 0x08

/-! ## Meanings: the common header -/

/-- ENABLE (R84): FENCE is written back as it stands. -/
def execEnable (p : Page) (on : Bool) (s : State) : Out :=
  writeCmd .icp (ctrlAddr p) (w32 (boolBit on 0 + boolBit (s.hdr p).fence 1)) s

/-- FENCE (R404): ENABLE is written back as it stands. -/
def execFence (p : Page) (on : Bool) (s : State) : Out :=
  writeCmd .icp (ctrlAddr p) (w32 (boolBit (s.hdr p).enable 0 + boolBit on 1)) s

/-- DRAIN (R86, R404). -/
def execDrain (p : Page) (s : State) : Out := writeCmd .icp (ctrlAddr p) 4 s

/-- DRAINED (R404): a draining block with nothing outstanding reports it. -/
def execDrained (p : Page) (s : State) : Out :=
  if (s.hdr p).draining && quiet s p then .next (s.modHdr p fun h => { h with draining := false, drained := true }) else .next s

/-- RESET (R86, R405). -/
def execReset (p : Page) (s : State) : Out := writeCmd .icp (ctrlAddr p) 8 s

/-- RESET_DONE (R405, R406). -/
def execResetDone (p : Page) (s : State) : Out := if (s.hdr p).resetting then .next (endReset p s) else .next s

/-- ERR_STAT_CLEAR (R89). -/
def execErrStatClear (p : Page) (mask : W32) (s : State) : Out := writeCmd .icp (regAddr p 0x10) mask s

/-- ERR_INJECT (R90). -/
def execErrInject (p : Page) (v : W32) (s : State) : Out := writeCmd .icp (regAddr p 0x1C) v s

/-- RETRY_CNT_READ (R84). -/
def execRetryCntRead (p : Page) (s : State) : Out := readCmd .icp (regAddr p 0x20) s

/-- FAULT_CNT_READ (R84). -/
def execFaultCntRead (p : Page) (s : State) : Out := readCmd .icp (regAddr p 0x24) s

/-! ## Meanings: pairs and indirect registers -/

/-- LO_READ (R94). -/
def execLoRead (p : Path) (a : W32) (s : State) : Out := readCmd p a s

/-- HI_READ (R94). -/
def execHiRead (p : Path) (a : W32) (s : State) : Out := readCmd p a s

/-- LO_WRITE (R94). -/
def execLoWrite (p : Path) (a : W32) (v : W32) (s : State) : Out := writeCmd p a v s

/-- HI_WRITE (R94). -/
def execHiWrite (p : Path) (a : W32) (v : W32) (s : State) : Out := writeCmd p a v s

/-- STAKE_VAL (R97, R111). -/
def execStakeVal (c : Fin 9) (w : Option W32) (s : State) : Out := rwCmd (regAddr (cpage c .seq) 0x110) w s

/-- ALLOC_DATA (R97, R207). -/
def execAllocData (c : Fin 9) (w : Option W32) (s : State) : Out := rwCmd (regAddr (cpage c .layout) 0x104) w s

/-- TABLE_DATA (R97, R343). -/
def execTableData (c : Fin 9) (w : Option W32) (s : State) : Out := rwCmd (regAddr (cpage c .bearing) 0x108) w s

/-- CBENCH_READ_DATA (R439). -/
def execCbenchReadData (c : Fin 9) (s : State) : Out := readCmd .icp (regAddr (cpage c .cbench) 0x104) s

/-- FBOOK_READ_DATA (R440). -/
def execFbookReadData (p : Path) (s : State) : Out := readCmd p (regAddr (gpage .fbook) 0x110) s

/-- CAIRN_READ_DATA (R437). -/
def execCairnReadData (p : Path) (s : State) : Out := readCmd p (regAddr (gpage .cairn) 0x108) s

/-- REGISTER_WRITE (R7, R488). -/
def execRegisterWrite (a : W32) (v : W32) (s : State) : Out := writeCmd .icp a v s

/-! ## Meanings: supervisor -/

/-- PLANE_MAP_WRITE (R22, R23). -/
def execPlaneMapWrite (v : W32) (s : State) : Out := writeCmd .icp (regAddr (gpage .supv) 0x100) v s

/-- FEED_TAG_WRITE (R379). -/
def execFeedTagWrite (v : W32) (s : State) : Out := writeCmd .icp (regAddr (gpage .supv) 0x10C) v s

/-- RECOVER (R390). -/
def execRecover (mask : BitVec 9) (s : State) : Out := writeCmd .icp (regAddr (gpage .supv) 0x120) (mask.setWidth 32) s

/-- A recovery fails (R390): the channel reads FAILED, and its own ring takes the cause: the channel image that did not come up, or the rail that
is gone (the entry's block and cause are the model's, log 77). -/
def failRecovery (c : Fin 9) (answers : Bool) (s : State) : State :=
  let e : CairnE := ⟨s.now, 2, 0, 4, BitVec.ofNat 16 1, BitVec.ofNat 8 (2 + c.val), 0, noDetail⟩
  let s := ringAdd 9 e (ringAdd (zoneRing (2 + c.val)) e s)
  setRole c .failed true (s.modChan c fun ch => { ch with lasting := true, answers })

/-- RECOVERY_DONE (R390): the channel's images are verified again (R464), and it comes up as SPARE, or reads FAILED; whether the MX of a FAILED channel answers is free (log 2). -/
def execRecoveryDone (c : Fin 9) (ok : Bool) (s : State) : Out :=
  if !s.supv.recovering.getLsbD c.val then .next s
  else
    let s := s.modSupv fun v => { v with recovering := v.recovering &&& ~~~(BitVec.ofNat 9 (2 ^ c.val)) }
    let (loads, s) := if railGone s c then (false, s) else loadComps [2, 3, 4, 5] s
    if ok && loads then .next (powerUpChan c .spare s)
    else
      let (r, s) := s.draw
      .next (failRecovery c (r.getLsbD 0) s)

/-- SWAP (R466). -/
def execSwap (s : State) : Out := writeCmd .icp (regAddr (gpage .supv) 0x11C) 0x100 s

/-- SELECTOR_SWITCH_DONE (R389): the selector has settled on the channel that claimed the plane; the event is SEL_SETTLED (R421). -/
def execSelectorSwitchDone (p : Fin 8) (s : State) : Out :=
  if !s.supv.switching.getLsbD p.val then .next s
  else
    let bit := BitVec.ofNat 8 (2 ^ p.val)
    let toSpare : Bool := match s.supv.claim with
      | some x => x.chan = 8
      | none => !s.supv.onSpare.getLsbD p.val
    let s := s.modSupv fun v =>
      { v with switching := v.switching &&& ~~~bit, onSpare := if toSpare then v.onSpare ||| bit else v.onSpare &&& ~~~bit, claim := none }
    .next (event 0x0111 0 (gpage .supv) p.val false s)

/-! ## Meanings: power -/

def stateReqAddr : W32 := regAddr (gpage .pwr) 0x104

/-- STATE_REQ_ACTIVE (R446, R447). -/
def execStateReqActive (p : Path) (s : State) : Out := writeCmd p stateReqAddr 1 s

/-- STATE_REQ_IDLE (R446, R447). -/
def execStateReqIdle (p : Path) (s : State) : Out := writeCmd p stateReqAddr 2 s

/-- STATE_REQ_DORMANT (R446, R447). -/
def execStateReqDormant (p : Path) (s : State) : Out := writeCmd p stateReqAddr 3 s

/-- STATE_REQ_STANDBY (R446, R447). -/
def execStateReqStandby (p : Path) (s : State) : Out := writeCmd p stateReqAddr 4 s

/-- LEAK_CLEAR (R451). `released`: the leak sense has released. -/
def execLeakClear (p : Path) (released : Bool) (s : State) : Out :=
  if pathUp p s then
    let (st, s) := pathWriteK p stateReqAddr 0x100 (fun _ s => stateReqWrite p released 0x100 s) s
    .next { s with regOut := some (st, 0) }
  else .next s

/-- TRIP_SEEN read or cleared (R451, R456). -/
def execTripSeen (p : Path) (clear : Bool) (s : State) : Out :=
  if clear then writeCmd p (regAddr (gpage .pwr) 0x100) 0x8000 s else readCmd p (regAddr (gpage .pwr) 0x100) s

/-- INPUT_MV_READ (R456). -/
def execInputMvRead (p : Path) (s : State) : Out := readCmd p (regAddr (gpage .pwr) 0x108) s

/-- INPUT_MA_READ (R456). -/
def execInputMaRead (p : Path) (s : State) : Out := readCmd p (regAddr (gpage .pwr) 0x10C) s

/-! ## Meanings: surveys, recorders, firmware -/

/-- A write of SURVEY_CTRL that keeps INTERVAL. -/
def surveyCmd (v : Nat) (s : State) : Out :=
  writeCmd .icp (regAddr (gpage .bench) 0x100) (w32 (v + s.field (gpage .bench) 0x100 25 16 * 2 ^ 16)) s

/-- SURVEY_CHANNELS (R427). -/
def execSurveyChannels (mask : BitVec 9) (s : State) : Out := surveyCmd mask.toNat s

/-- SURVEY_MODULE (R427). -/
def execSurveyModule (s : State) : Out := surveyCmd 0x200 s

/-- SURVEY_CANCEL (R438). -/
def execSurveyCancel (s : State) : Out := surveyCmd 0x400 s

/-- FBOOK_CLEAR (R434). -/
def execFbookClear (p : Path) (v : W32) (s : State) : Out := writeCmd p (regAddr (gpage .fbook) 0x108) v s

/-- CAIRN_RELEASE (R441). -/
def execCairnRelease (mask : BitVec 10) (s : State) : Out :=
  writeCmd .icp (regAddr (gpage .cairn) 0x100) (w32 (mask.toNat * 2 ^ 10)) s

def slotAddr : W32 := regAddr (gpage .sec) 0x104

/-- INSTALL (R467). -/
def execInstall (ch : BitVec 4) (area : BitVec 9) (comp : BitVec 3) (s : State) : Out :=
  writeCmd .icp slotAddr (w32 (ch.toNat + area.toNat * 2 ^ 4 + comp.toNat * 2 ^ 13 + 2 ^ 16)) s

/-- SWITCH (R467). -/
def execSwitch (comp : BitVec 3) (s : State) : Out := writeCmd .icp slotAddr (w32 (comp.toNat * 2 ^ 13 + 2 * 2 ^ 16)) s

/-- COMMIT (R461, R467). -/
def execCommit (comp : BitVec 3) (s : State) : Out := writeCmd .icp slotAddr (w32 (comp.toNat * 2 ^ 13 + 3 * 2 ^ 16)) s

/-- RECORD_STAT_READ (R474). -/
def execRecordStatRead (s : State) : Out := readCmd .icp (regAddr (gpage .sec) 0x108) s

/-- ATTEST_STAT_READ (R474). -/
def execAttestStatRead (s : State) : Out := readCmd .icp (regAddr (gpage .sec) 0x10C) s

/-! ## Meanings: host port and hub -/

/-- STALE_CNT_READ (R76). -/
def execStaleCntRead (s : State) : Out := readCmd .icp (regAddr (gpage .icp) 0x120) s

/-- DUP_CNT_READ (R76). -/
def execDupCntRead (s : State) : Out := readCmd .icp (regAddr (gpage .icp) 0x124) s

/-- BUSY_CNT0_READ (R76). -/
def execBusyCnt0Read (s : State) : Out := readCmd .icp (regAddr (gpage .icp) 0x128) s

/-- BUSY_CNT1_READ (R76). -/
def execBusyCnt1Read (s : State) : Out := readCmd .icp (regAddr (gpage .icp) 0x12C) s

/-- SRC_CHANGE_CNT_READ (R76). -/
def execSrcChangeCntRead (s : State) : Out := readCmd .icp (regAddr (gpage .icp) 0x138) s

/-- HOST_LOST_CLEAR (R59). -/
def execHostLostClear (s : State) : Out := writeCmd .icp (regAddr (gpage .icp) 0x11C) 0x10000 s

/-- FEC_CORR_CNT_READ (R79). -/
def execFecCorrCntRead (s : State) : Out := readCmd .icp (regAddr (gpage .hmac) 0x110) s

/-- FEC_UNCORR_CNT_READ (R79). -/
def execFecUncorrCntRead (s : State) : Out := readCmd .icp (regAddr (gpage .hmac) 0x114) s

/-- FCS_ERR_CNT_READ (R79). -/
def execFcsErrCntRead (s : State) : Out := readCmd .icp (regAddr (gpage .hmac) 0x118) s

/-- OVERSIZE_CNT_READ (R79). -/
def execOversizeCntRead (s : State) : Out := readCmd .icp (regAddr (gpage .hmac) 0x11C) s

/-- FILTER_CNT_READ (R79). -/
def execFilterCntRead (s : State) : Out := readCmd .icp (regAddr (gpage .hmac) 0x120) s

/-- PFC_RX_CNT_READ (R79). -/
def execPfcRxCntRead (s : State) : Out := readCmd .icp (regAddr (gpage .hmac) 0x124) s

/-- PFC_TX_CNT_READ (R79). -/
def execPfcTxCntRead (s : State) : Out := readCmd .icp (regAddr (gpage .hmac) 0x128) s

/-- PORT_EN_WRITE (R309). -/
def execPortEnWrite (v : W32) (s : State) : Out := writeCmd .icp (regAddr (gpage .hub) 0x100) v s

/-- RECALL (R307). -/
def execRecall (id : Byte) (s : State) : Out := writeCmd .icp (regAddr (gpage .hub) 0x104) (w32 (2 ^ 31 + id.toNat * 2 ^ 23)) s

/-- RESET_XFER_CNT_READ (R309). -/
def execResetXferCntRead (s : State) : Out := readCmd .icp (regAddr (gpage .hub) 0x10C) s

/-! ## Meanings: sequencer, power and clocks of a channel -/

/-- ABORT (R118). -/
def execAbort (c : Fin 9) (id : W32) (s : State) : Out := writeCmd .icp (regAddr (cpage c .seq) 0x100) id s

/-- RESUME (R119). -/
def execResume (c : Fin 9) (mask : BitVec 4) (s : State) : Out :=
  writeCmd .icp (regAddr (cpage c .seq) 0x104) (w32 (mask.toNat * 2 ^ 8)) s

/-- FLUSH (R119). -/
def execFlush (c : Fin 9) (mask : BitVec 4) (s : State) : Out :=
  writeCmd .icp (regAddr (cpage c .seq) 0x104) (w32 (mask.toNat * 2 ^ 12)) s

/-- PARK (R191): HOLD is written back as it stands. -/
def execPark (c : Fin 9) (on : Bool) (s : State) : Out :=
  writeCmd .icp (regAddr (cpage c .cpwr) 0x104) (w32 (boolBit on 0 + boolBit (holdSet s c) 1)) s

/-- RAMP_CNT_READ (R194). -/
def execRampCntRead (c : Fin 9) (s : State) : Out := readCmd .icp (regAddr (cpage c .cpwr) 0x108) s

/-- DOMAIN_STOP (R408): the other bits are written back as they stand. -/
def execDomainStop (c : Fin 9) (d : Fin 6) (s : State) : Out :=
  writeCmd .icp (regAddr (cpage c .cclk) 0x104) (s.reg (cpage c .cclk) 0x104 &&& ~~~(w32 (2 ^ d.val))) s

/-- DOMAIN_START (R408). -/
def execDomainStart (c : Fin 9) (d : Fin 6) (s : State) : Out :=
  writeCmd .icp (regAddr (cpage c .cclk) 0x104) (s.reg (cpage c .cclk) 0x104 ||| w32 (2 ^ d.val)) s

/-! ## Meanings: counters and captures of a channel -/

/-- LOCK_LONG_CNT_READ (R336). -/
def execLockLongCntRead (c : Fin 9) (s : State) : Out := readCmd .icp (regAddr (cpage c .merid) 0x108) s

/-- OUTSTANDING_READ (R336). -/
def execOutstandingRead (c : Fin 9) (s : State) : Out := readCmd .icp (regAddr (cpage c .merid) 0x10C) s

/-- FIRST_INVALID_REARM (R166). -/
def execFirstInvalidRearm (c : Fin 9) (s : State) : Out := writeCmd .icp (regAddr (cpage c .numw) 0x114) 0x80000000 s

/-- SAT_CNT_READ (R145). -/
def execSatCntRead (c : Fin 9) (s : State) : Out := readCmd .icp (regAddr (cpage c .numw) 0x120) s

/-- INVALID_CNT_READ (R163). -/
def execInvalidCntRead (c : Fin 9) (s : State) : Out := readCmd .icp (regAddr (cpage c .numw) 0x100) s

/-- OVF_CNT_READ (R163). -/
def execOvfCntRead (c : Fin 9) (s : State) : Out := readCmd .icp (regAddr (cpage c .numw) 0x104) s

/-- CLOSURE_EXCESS_CNT_READ (R292). -/
def execClosureExcessCntRead (c : Fin 9) (s : State) : Out := readCmd .icp (regAddr (cpage c .numw) 0x11C) s

/-- BUSY_CNT_READ (R193). -/
def execBusyCntRead (c : Fin 9) (arr : Fin 2) (s : State) : Out := readCmd .icp (regAddr (arrPage c arr) 0x10C) s

/-- DESC_ERR_CNT_READ (R216). -/
def execDescErrCntRead (c : Fin 9) (s : State) : Out := readCmd .icp (regAddr (cpage c .layout) 0x108) s

/-- INDEX_RANGE_REARM (R245). -/
def execIndexRangeRearm (c : Fin 9) (s : State) : Out := writeCmd .icp (regAddr (cpage c .gather) 0x104) 0x80000000 s

/-- STRUCT_VIOL_REARM (R245). -/
def execStructViolRearm (c : Fin 9) (s : State) : Out := writeCmd .icp (regAddr (cpage c .gather) 0x10C) 0x80000000 s

/-- INDEX_RANGE_CNT_READ (R244). -/
def execIndexRangeCntRead (c : Fin 9) (s : State) : Out := readCmd .icp (regAddr (cpage c .gather) 0x100) s

/-- STRUCT_VIOL_CNT_READ (R244). -/
def execStructViolCntRead (c : Fin 9) (s : State) : Out := readCmd .icp (regAddr (cpage c .gather) 0x108) s

/-- PLAN_LATE_CNT_READ (R269). -/
def execPlanLateCntRead (c : Fin 9) (s : State) : Out := readCmd .icp (regAddr (cpage c .route) 0x104) s

/-- EXTRA_ROUND_CNT_READ (R268). -/
def execExtraRoundCntRead (c : Fin 9) (s : State) : Out := readCmd .icp (regAddr (cpage c .route) 0x108) s

/-- ECC_CORR_CNT_READ (R338). -/
def execEccCorrCntRead (c : Fin 9) (st : Fin 2) (s : State) : Out := readCmd .icp (regAddr (hbmPage c st) 0x100) s

/-- ECC_UNCORR_CNT_READ (R338). -/
def execEccUncorrCntRead (c : Fin 9) (st : Fin 2) (s : State) : Out := readCmd .icp (regAddr (hbmPage c st) 0x104) s

/-- STACK_TEMP_READ (R338). -/
def execStackTempRead (c : Fin 9) (st : Fin 2) (s : State) : Out := readCmd .icp (regAddr (hbmPage c st) 0x10C) s

/-- LINK_STAT_READ (R365). -/
def execLinkStatRead (c : Fin 9) (p : Fin 6) (s : State) : Out := readCmd .icp (regAddr (travPage c p) 0x100) s

/-- REPLAY_CNT_READ (R365). -/
def execReplayCntRead (c : Fin 9) (p : Fin 6) (s : State) : Out := readCmd .icp (regAddr (travPage c p) 0x110) s

/-! ## Meanings: traverse and plat registers -/

/-- FORCE_RX (R356, R365). -/
def execForceRx (c : Fin 9) (p : Fin 6) (fibres : BitVec 2) (wave : BitVec 3) (s : State) : Out :=
  writeCmd .icp (regAddr (travPage c p) 0x10C) (w32 (fibres.toNat * 2 ^ 16 + wave.toNat * 2 ^ 18)) s

def platStatusAddr (c : Fin 9) : W32 := regAddr (cpage c .plat) 0x100

/-- CLAIM (R389). -/
def execClaim (c : Fin 9) (p : Fin 8) (s : State) : Out := writeCmd .icp (platStatusAddr c) (w32 (p.val * 2 ^ 16 + 2 ^ 19)) s

/-- RELEASE_IN (R377). -/
def execReleaseIn (c : Fin 9) (areas : BitVec 2) (s : State) : Out := writeCmd .icp (platStatusAddr c) (w32 (areas.toNat * 2 ^ 20)) s

/-- RECOPY (R380). -/
def execRecopy (c : Fin 9) (s : State) : Out := writeCmd .icp (platStatusAddr c) (w32 (2 ^ 22)) s

/-! ## Meanings: the sideband (R483 to R486) -/

/-- A sideband request's response: its status, and for READ and TELEM the value. -/
def sbAnswer (st : H16) (v : List Byte) (s : State) : State :=
  s.modPwr fun x => { x with sbResp := some (toLE 1 st.toNat ++ v) }

/-- A request whose PEC fails is discarded, and the next read returns status LENGTH (R485). -/
def sbPecBad (s : State) : State := sbAnswer rsLength [] (coreForAccess .sideband s)

/-- SB_READ (R485). `pec`: no PEC byte, or one that passes. -/
def execSbRead (a : W32) (pec : Bool) (s : State) : Out :=
  if !pathUp .sideband s then .next s
  else if !pec then .next (sbPecBad s)
  else
    let (st, v, s) := pathRead .sideband a s
    .next (sbAnswer st (toLE 4 v.toNat) { s with regOut := some (st, v) })

/-- SB_WRITE (R485). -/
def execSbWrite (a : W32) (v : W32) (pec : Bool) (s : State) : Out :=
  if !pathUp .sideband s then .next s
  else if !pec then .next (sbPecBad s)
  else
    let (st, s) := pathWrite .sideband a v s
    .next (sbAnswer st [] { s with regOut := some (st, 0) })

/-- The value TELEM returns: the latest sample of a gauge (R430), the coolant temperature or the SRTC count, whose values the spec's
steps do not give (log 2). `none`: status ADDR. -/
def telemValue (q ch inst : Byte) (s : State) : Option W32 × State :=
  let draw : Option W32 × State := let (v, s) := s.draw; (some v, s)
  if q = 0x10 || q = 0x20 then draw
  else if gaugeKeys.contains (q.toNat, ch.toNat, inst.toNat) then
    match s.book.gauges.find? fun g => g.quantity = q && g.chan.toNat = ch.toNat && g.inst = inst with
    | some g => (some g.latest, s)
    | none => draw
  else (none, s)

/-- TELEM (R485). -/
def execTelem (q ch inst : Byte) (pec : Bool) (s : State) : Out :=
  if !pathUp .sideband s then .next s
  else if !pec then .next (sbPecBad s)
  else
    match telemValue q ch inst (coreForAccess .sideband s) with
    | (some v, s) => .next (sbAnswer rsOk (toLE 4 v.toNat) { s with regOut := some (rsOk, v) })
    | (none, s) => .next (sbAnswer rsAddr (toLE 4 0) { s with regOut := some (rsAddr, 0) })

/-- DYNAMIC_ADDRESS (R483): held until the always-on supply is lost. -/
def execDynamicAddress (a : BitVec 7) (s : State) : Out :=
  if pathUp .sideband s then .next (s.modPwr fun x => { x with dynAddr := some a }) else .next s

/-- SMBUS_TIMEOUT (R484): the module releases the bus; the request being transferred is not received, and no request is pending. -/
def execSmbusTimeout (s : State) : Out := .next (s.modPwr fun x => { x with sbResp := none })

end Sys2Proof.Machine
end

