-- ==== Sys2Proof/Machine/Host.lean ====
section
/-! DEFINITION. The host port: frames of the host (R37 to R56), their answers (R55, R61 to R72), the duplicate window (R50 to R53), the
out-queue's timers and acknowledgements (R58 to R60), priority flow control (R40 to R43). -/
namespace Sys2Proof.Machine

/-! ## Frames -/

def frRetx (f : HostFrame) : Bool := f.flags.getLsbD 0
def frFirst (f : HostFrame) : Bool := f.flags.getLsbD 1
def frProbe (f : HostFrame) : Bool := f.flags.getLsbD 3

/-- The payload that the header's length names. -/
def body (f : HostFrame) : List Byte := f.payload.take f.plen.toNat

/-- A frame's bytes from the destination address through the FCS, untagged (R38). -/
def frameBytes (f : HostFrame) : Nat := max 64 (50 + f.payload.length)

/-- Frames arrive while the host port is powered and its link is up (R60). -/
def linkLive (s : State) : Bool := s.hostUp && s.icp.linkUp

/-- The zone of a memory request, batch or plan as a channel (R26). -/
def zoneChan (f : HostFrame) : Option (Fin 9) :=
  let z := f.addr.toNat / 2 ^ 60
  if h : 2 ≤ z ∧ z - 2 < 9 then some ⟨z - 2, h.2⟩ else none

/-- A response: it echoes zone, address and tag, carries sequence 0, and acknowledges the request (R44, R58, R61). -/
def response (f : HostFrame) (typ : Nat) (cls : Fin 2) (status : H16) (payload : List Byte) : TxFrame :=
  { dst := f.src, typ := BitVec.ofNat 4 typ, cls, flags := 6, zone := f.zone, seq := 0, ack := f.seq, status, addr := f.addr, tag := f.tag,
    payload }

def nakFrame (f : HostFrame) (cls : Fin 2) (status : H16) (detail : Nat) : TxFrame := response f 0xD cls status (toLE 4 detail)

def ackFrame (f : HostFrame) (cls : Fin 2) (status : H16) : TxFrame := response f 0xC cls status []

/-! ## The duplicate window (R50 to R53) -/

inductive SeqClass
  | fresh | inside | dup | stale
  deriving DecidableEq, Repr

def classify (i : IcpS) (q : W32) : SeqClass :=
  let d := (q - i.rxSeqHigh).toNat
  if 1 ≤ d && d ≤ 2 ^ 31 then .fresh
  else if d = 0 || 2 ^ 32 - 4095 ≤ d then (if i.marks.contains q then .dup else .inside)
  else .stale

/-- A request is entered, one refused with another status than BUSY too (R53): H and the record of R50. It counts as accepted for the source
registers (R73, R76) and, if it carries RETX, for RETRY_CNT (R57); that one refused does, and a probe does not, is a DESIGN CHOICE
(log 76). -/
def enterWindow (f : HostFrame) (s : State) : State :=
  let p := gpage .icp
  let s := s.modIcp fun i =>
    let h := if classify i f.seq = .fresh then f.seq else i.rxSeqHigh
    { i with rxSeqHigh := h, marks := (f.seq :: i.marks).filter fun m => (h - m).toNat < 4096 }
  let s := match s.icp.lastSrc with
    | some m => if m = f.src then s else s.bump p 0x138 1
    | none => s
  let s := (s.setReg p 0x130 (f.src.setWidth 32)).setReg p 0x134 ((f.src >>> 32).setWidth 32)
  let s := s.modIcp fun i => { i with lastSrc := some f.src }
  if frRetx f then
    let (inj, s) := takeInjection p commonCover s
    injectedIf inj.isSome p (transientEvent p inj.isSome s)
  else s

/-- The response of an accepted request is kept among the last 4,096 (R52). -/
def keepResponse (q : W32) (r : TxFrame) (s : State) : State :=
  s.modIcp fun i => { i with cache := ((i.cache.filter fun e => e.1 ≠ q) ++ [(q, r)]).drop ((i.cache.filter fun e => e.1 ≠ q).length + 1 - 4096) }

def resend (dst : BitVec 48) (r : TxFrame) (s : State) : State := transmit { r with dst, flags := r.flags ||| 1 } s

/-- A refusal with BUSY: counted by class, entered nowhere (R53, R72). -/
def sendBusy (f : HostFrame) (cls : Fin 2) (detail : Nat) (s : State) : State :=
  transmit (nakFrame f cls rsBusy detail) (s.bump (gpage .icp) (if cls = 0 then 0x128 else 0x12C) 1)

/-- A duplicate is answered from the cache (R52, R71). One whose response is no longer held is refused with SEQUENCE. -/
def answerDup (typ : Nat) (f : HostFrame) (cls : Fin 2) (s : State) : State :=
  let dupCnt := fun (s : State) => s.bump (gpage .icp) 0x124 1
  if typ = 0xE && s.icp.attestReq.isSome then sendBusy f cls 4 s
  else match s.icp.attestCache with
    | some (q, frames) =>
      if q = f.seq then (dupCnt s).each frames (resend f.src)
      else match s.icp.cache.find? fun e => e.1 = f.seq && e.2.status ≠ rsSequence with
        | some (_, r) => resend f.src r (dupCnt s)
        | none => transmit (nakFrame f cls rsSequence 0) s
    | none => match s.icp.cache.find? fun e => e.1 = f.seq && e.2.status ≠ rsSequence with
        | some (_, r) => resend f.src r (dupCnt s)
        | none => transmit (nakFrame f cls rsSequence 0) s

/-! ## Refusals (R46, R47) -/

/-- A refusal: status and detail. -/
abbrev Nak := H16 × Nat

/-- The zone byte disagrees with the zone in the address field, where the type's address field carries one (R47). -/
def zoneOff (typ : Nat) (f : HostFrame) : Bool :=
  if typ = 1 || typ = 2 then bitsOf f.addr.toNat 31 28 ≠ f.zone.toNat
  else if typ = 4 || typ = 5 || typ = 7 || typ = 0xB then f.addr.toNat / 2 ^ 60 ≠ f.zone.toNat
  else false

/-- The checks of every request, then the type's own. -/
def refusal (typ : Nat) (cls : Fin 2) (f : HostFrame) (own : Option Nak) : Option Nak :=
  if f.cls.toNat ≠ cls.val then some (rsType, 0)
  else if f.version ≠ 1 then some (rsVersion, 0)
  else if 0xA < f.zone.toNat || zoneOff typ f then some (rsAddr, 0)
  else if 8192 < f.plen.toNat || f.payload.length < f.plen.toNat then some (rsLength, 0)
  else match own with
    | some n => some n
    | none => if 2 ^ 22 < f.backlog + frameBytes f then some (rsBusy, 1) else none

/-! ## A request's course -/

/-- What an accepted request does: the response kept for its duplicates, and the state, in which its answers are sent. -/
abbrev Act := State → TxFrame × State

/-- A request outside the window (R51): executed on each arrival, kept nowhere; it leaves the source registers as they are (DESIGN CHOICE,
log 76). -/
def probe (typ : Nat) (cls : Fin 2) (f : HostFrame) (nak : Option Nak) (act : Act) (s : State) : State :=
  if typ ≠ 1 then transmit (nakFrame f cls rsType 0) s
  else match nak with
    | some (st, detail) => if st = rsBusy then sendBusy f cls detail s else transmit (nakFrame f cls st detail) s
    | none => (act s).2

/-- A numbered request that is new or unmarked: refused with BUSY, entered and refused, or entered and executed. The response of one that resets
ICP is kept nowhere (R78). -/
def numbered (cls : Fin 2) (f : HostFrame) (nak : Option Nak) (act : Act) (s : State) : State :=
  match nak with
  | some (st, detail) =>
    if st = rsBusy then sendBusy f cls detail s
    else
      let r := nakFrame f cls st detail
      transmit r (keepResponse f.seq r (enterWindow f s))
  | none =>
    let (r, s') := act (enterWindow f s)
    if s'.epochOf (gpage .icp) = s.epochOf (gpage .icp) then keepResponse f.seq r s' else s'

/-- A duplicate MEM_READ (R52): executed again in full, or refused again; it is in the window already. -/
def again (cls : Fin 2) (f : HostFrame) (nak : Option Nak) (act : Act) (s : State) : State :=
  match nak with
  | some (st, detail) => if st = rsBusy then sendBusy f cls detail s else transmit (nakFrame f cls st detail) s
  | none => (act s).2

/-- What the class's ingress buffer holds with a frame that has arrived; one that finds no room is not stored (R43, R46). -/
def ingressWith (f : HostFrame) : Nat := if 2 ^ 22 < f.backlog + frameBytes f then f.backlog else f.backlog + frameBytes f

/-- A request frame arrives, refused or not. The broadcast address is accepted only for a REG_READ addressed to zone 0 (R39). A duplicate
MEM_READ is executed again under R52, one accepted before an ICP reset too (DESIGN CHOICE, log 65). -/
def arrival (typ : Nat) (cls : Fin 2) (f : HostFrame) (nak : Option Nak) (act : Act) (s : State) : State :=
  if f.bcast && !(typ = 1 && bitsOf f.addr.toNat 31 28 = 0) then s.bump (gpage .hmac) 0x120 1
  else
  let s := observeIngress cls (ingressWith f) s
  if frProbe f then probe typ cls f nak act s
  else match classify s.icp f.seq with
    | .stale => s.bump (gpage .icp) 0x120 1
    | .dup => if typ = 5 then again cls f nak act s else answerDup typ f cls s
    | _ => numbered cls f nak act s

/-- A request with the checks of its type. -/
def request (typ : Nat) (cls : Fin 2) (f : HostFrame) (own : Option Nak) (act : Act) (s : State) : State :=
  arrival typ cls f (refusal typ cls f own) act s

/-- A frame that cannot arrive leaves the module unchanged (log 4). -/
def onLink (g : State → State) (s : State) : Out := if linkLive s then .next (g s) else .next s

/-- An answer of one frame, kept for duplicates. -/
def answer (r : TxFrame) (s : State) : TxFrame × State := (r, transmit r s)

/-! ## Register frames (R55, R61, R92) -/

/-- The burst's one indirect data register, if its address is one (R55, R97). -/
def burstIndirect (a : W32) : Bool :=
  match pageOf a with
  | some p => indirect p.blk (a.toNat % 4096)
  | none => false

/-- The page is of a channel that is OFF: every access to it is refused with NAK (R92). -/
def pageOff (s : State) (a : W32) : Bool :=
  match pageOf a with
  | some p => p.blk.isChan && (s.chan p.chan).role = .off
  | none => false

/-- Register count of a frame: a REG_READ's N, or a REG_WRITE's words. -/
def regCount (isWrite : Bool) (f : HostFrame) : Nat := if isWrite then f.plen.toNat / 4 else fld (body f) 0 4 % 128

/-- The checks of a register frame (R47, R55, R82, R92). A count outside 1 to 64, or other bits beside it, is refused with LENGTH (DESIGN CHOICE,
log 76). -/
def regChk (isWrite : Bool) (f : HostFrame) (s : State) : Option Nak :=
  let n := regCount isWrite f
  let a := w32 f.addr.toNat
  if isWrite && (f.plen.toNat % 4 ≠ 0 || f.plen.toNat < 4 || 256 < f.plen.toNat) then some (rsLength, 0)
  else if !isWrite && (f.plen ≠ 4 || 128 ≤ fld (body f) 0 4 || n < 1 || 64 < n) then some (rsLength, 0)
  else if 2 ^ 32 ≤ f.addr.toNat then some (rsAddr, 0)
  else if f.addr.toNat % 4 ≠ 0 then some (rsAlign, 0)
  else if 4096 < f.addr.toNat % 4096 + 4 * n && !burstIndirect a then some (rsPage, 0)
  else if pageOff s a then some (rsFenced, 0)
  else none

/-- The addresses of a burst in ascending order. -/
def burstAddrs (f : HostFrame) (n : Nat) : List W32 :=
  let a := w32 f.addr.toNat
  (List.range n).map fun i => if burstIndirect a then a else a + w32 (4 * i)

/-- The status of a burst so far, and of its next access: the first that is not OK stands. -/
def firstStatus (a b : H16) : H16 := if a = rsOk then b else a

/-- The accesses of a read burst in order; the one that meets a fence or reset of its block completes RESET, its value zero (R61). -/
def readBurst : List W32 → Option Nat → State → H16 × List Byte × State
  | [], _, s => (rsOk, [], s)
  | a :: rest, cut, s =>
    let (st, v, s) := if cut = some 0 then (rsReset, 0, s) else readReg .icp a s
    let (st', bs, s) := readBurst rest (cut.bind fun k => if k = 0 then none else some (k - 1)) s
    (firstStatus st st', toLE 4 v.toNat ++ bs, s)

/-- The same for a write burst; whether the write that completes RESET was performed is a free value (R48, log 2). -/
def writeBurst : List W32 → List Byte → Option Nat → State → H16 × State
  | [], _, _, s => (rsOk, s)
  | a :: rest, bs, cut, s =>
    let write := writeReg .icp a (w32 (fld bs 0 4))
    let (st, s) :=
      if cut = some 0 then (let (v, s) := s.draw; (rsReset, if v.getLsbD 0 then (write s).2 else s)) else write s
    let (st', s) := writeBurst rest (bs.drop 4) (cut.bind fun k => if k = 0 then none else some (k - 1)) s
    (firstStatus st st', s)

/-- REG_READ (R55). -/
def execRegRead (f : HostFrame) (s : State) : Out :=
  onLink (fun s => request 1 0 f (regChk false f s) (fun s =>
    let (st, bs, s) := readBurst (burstAddrs f (regCount false f)) f.cut s
    answer (response f 3 0 st bs) s) s) s

/-- An answer that leaves before what the access makes the module send (R447), unless flow control holds it. -/
def answerFirst (r : TxFrame) (before after : State) : TxFrame × State :=
  let sent := (transmit r before).sent
  if sent.length = before.sent.length then answer r after else (r, { after with sent := sent ++ after.sent.drop before.sent.length })

/-- REG_WRITE (R55). An accepted power request is answered before it takes effect (R447). -/
def execRegWrite (f : HostFrame) (s : State) : Out :=
  onLink (fun s => request 2 0 f (regChk true f s) (fun s =>
    let (st, s') := writeBurst (burstAddrs f (regCount true f)) (body f) f.cut s
    answerFirst (response f 3 0 st []) s s') s) s

/-! ## Memory frames (R62 to R64) -/

/-- The checks of a memory request of `n` bytes (R62). -/
def memChk (f : HostFrame) (n : Nat) (s : State) : Option Nak :=
  let a := f.addr.toNat % 2 ^ 40
  if n % 64 ≠ 0 || f.addr.toNat % 64 ≠ 0 then some (rsAlign, 0)
  else match zoneChan f with
    | none => some (rsAddr, 0)
    | some c =>
      if bitsOf f.addr.toNat 59 40 ≠ 0 || !inMap a n then some (rsAddr, 0)
      else if !s.powered c || s.chanFenced c then some (rsFenced, 0)
      else none

def memWriteChk (f : HostFrame) (s : State) : Option Nak :=
  if f.plen.toNat < 64 || 8192 < f.plen.toNat then some (rsLength, 0) else memChk f f.plen.toNat s

/-- A MEM_READ's length. -/
def readLen (f : HostFrame) : Nat := fld (body f) 0 4

/-- The checks of a MEM_READ: a length outside 64 to 1,048,576 is refused with LENGTH, before ALIGN (DESIGN CHOICE, log 76). -/
def memReadChk (f : HostFrame) (s : State) : Option Nak :=
  if f.plen ≠ 4 || readLen f < 64 || 2 ^ 20 < readLen f then some (rsLength, 0) else memChk f (readLen f) s

/-- The hub carries transfers between the host port and a channel (R309). -/
def hostPath (s : State) (c : Fin 9) : Bool := portOn s c && hostPortOn s

/-- A transfer of the host over the hub that completes RESET is counted (R309). -/
def hostReset (s : State) : State := s.bump (gpage .hub) 0x10C 1

/-- What a MEM_WRITE does (R63, R305). A channel fenced after its acceptance (`cut`) has taken the payload's first bytes; so may one whose stack
is fenced (R317), and how many is then a free value (log 2). Over a disabled hub port nothing is written (R309, log 76). -/
def memWriteAct (f : HostFrame) : Act := fun s =>
  match zoneChan f with
  | none => answer (ackFrame f 1 rsOk) s
  | some c =>
    let a := f.addr.toNat % 2 ^ 40
    let bs := body f
    let reset := answer (ackFrame f 1 rsReset)
    if !hostPath s c then reset (hostReset s)
    else match f.cut with
      | some n => reset (writeMem c hubReq a (bs.take n) (hostReset s))
      | none =>
        if accessBlocked s c true [(a, bs.length)] then
          let (n, s) := s.draw
          reset ((hostReset s).store c a (bs.take (n.toNat % (bs.length + 1))))
        else answer (ackFrame f 1 rsOk) (countGet c f.tag a bs.length (deliverReplies c (drainPort c 14 (writeMem c hubReq a bs s))))

/-- The `i`-th MEM_DATA frame of `n` answering a MEM_READ (R64). -/
def dataFrame (f : HostFrame) (n i : Nat) (bytes : List Byte) : TxFrame :=
  { response f 6 1 rsOk bytes with
    flags := BitVec.ofNat 8 (boolBit (i = 0) 1 + boolBit (i + 1 = n) 2), addr := f.addr + BitVec.ofNat 64 (8192 * i) }

/-- The ranges that the frames of a MEM_READ carry. -/
def readFrames (a len : Nat) : List Span := (List.range ((len + 8191) / 8192)).map fun i => (a + 8192 * i, min 8192 (len - 8192 * i))

/-- Where a MEM_READ stops: at a disabled hub port (R309), where its channel is fenced (`cut`), where a frame meets a fenced stack (R317), or
where an HBM read fails its one re-read (R64). -/
def readStop (s : State) (c : Fin 9) (f : HostFrame) (failAt : Option Nat) (l : List Span) : Option (Nat × H16) :=
  let blocked := l.findIdx? fun r => accessBlocked s c false [r]
  let at_ := fun (k : Option Nat) (st : H16) => k.bind fun k => if k < l.length then some (k, st) else none
  if !hostPath s c then some (0, rsReset)
  else
    [at_ blocked rsReset, at_ f.cut rsReset, at_ failAt rsEcc].foldl (fun a b => match a, b with
      | some x, some y => if y.1 < x.1 then some y else some x
      | some x, none => some x
      | none, y => y) none

/-- What a MEM_READ does (R64): its frames in order, or a NAK in place of those from the first that cannot be read on. No duplicate of
it is answered from the cache (R52). -/
def memReadAct (f : HostFrame) (failAt : Option Nat) : Act := fun s =>
  match zoneChan f with
  | none => answer (nakFrame f 1 rsAddr 0) s
  | some c =>
    let l := readFrames (f.addr.toNat % 2 ^ 40) (readLen f)
    let frames := l.zipIdx.map fun e => dataFrame f l.length e.2 (memRds (s.chan c).mem e.1.1 e.1.2)
    let send := fun (k : Nat) (s : State) => (readSpans c hubReq maxTransaction (l.take k) s).each (frames.take k) transmit
    match readStop s c f failAt l with
    | none => (nakFrame f 1 rsSequence 0, send l.length s)
    | some (k, st) => (nakFrame f 1 rsSequence 0, transmit (nakFrame f 1 st 0) (send k (s.when (st = rsReset) hostReset)))

/-- MEM_WRITE (R63). -/
def execMemWrite (f : HostFrame) (s : State) : Out := onLink (fun s => request 4 1 f (memWriteChk f s) (memWriteAct f) s) s

/-- MEM_READ (R64). `failAt`: the frame whose HBM read fails its one re-read. -/
def execMemRead (f : HostFrame) (failAt : Option Nat) (s : State) : Out :=
  onLink (fun s => request 5 1 f (memReadChk f s) (memReadAct f failAt) s) s

/-! ## Batches, plans, attestation -/

/-- The descriptors of a payload. -/
def descsOf (bs : List Byte) : List (List Byte) := (List.range (bs.length / 64)).map fun i => (bs.drop (64 * i)).take 64

/-- Every stream has room for its descriptors of the batch (R66, R102). -/
def batchFits (c : Fin 9) (ds : List (List Byte)) (s : State) : Bool :=
  allStreams.all fun st => ((s.chan c).stream st).queue.length + (ds.filter fun d => dStream d = st).length ≤ 192

/-- The checks of a BATCH (R66, R102): an address with bits beside the zone's is refused with ADDR (DESIGN CHOICE, log 76). -/
def batchChk (f : HostFrame) (s : State) : Option Nak :=
  if f.plen.toNat % 64 ≠ 0 || f.plen.toNat < 64 then some (rsLength, 0)
  else match zoneChan f with
    | none => some (rsAddr, 0)
    | some c =>
      if f.addr.toNat % 2 ^ 60 ≠ 0 then some (rsAddr, 0)
      else if !s.hostKnown then some (rsNoHost, 0)
      else if !s.powered c || s.chanFenced c || s.fenced (cpage c .seq) then some (rsFenced, 0)
      else if 2 ^ 22 < f.backlog + frameBytes f then some (rsBusy, 1)
      else if !batchFits c (descsOf (body f)) s then some (rsBusy, 2)
      else none

/-- What a BATCH does (R66): its descriptors join their streams' queues. Over a disabled hub port none does (R309, log 76). -/
def batchAct (f : HostFrame) : Act := fun s =>
  match zoneChan f with
  | none => answer (ackFrame f 1 rsOk) s
  | some c =>
    if !hostPath s c then answer (ackFrame f 1 rsReset) (hostReset s) else
    let ds := descsOf (body f)
    let s := s.each allStreams fun st s =>
      s.modStream c st fun x => { x with queue := x.queue ++ (ds.filter fun d => dStream d = st).map fun d => ⟨d, false⟩ }
    let (r, s) := answer (ackFrame f 1 rsOk) s
    (r, settle c s)

/-- BATCH (R66, R102). -/
def execBatch (f : HostFrame) (s : State) : Out := onLink (fun s => request 7 1 f (batchChk f s) (batchAct f) s) s

def planChk (f : HostFrame) (s : State) : Option Nak :=
  match zoneChan f with
  | none => some (rsAddr, 0)
  | some c =>
    if !s.powered c || s.chanFenced c || s.fenced (cpage c .route) then some (rsFenced, 0)
    else if 2 ^ 22 < f.backlog + frameBytes f then some (rsBusy, 1)
    else if !(planFrame c (frFirst f) (f.addr.toNat % 2 ^ 32) (body f) s).1 then some (rsBusy, 3)
    else none

/-- ROUTE_PLAN (R70, R253). -/
def execRoutePlan (f : HostFrame) (s : State) : Out :=
  onLink (fun s => request 0xB 0 f (planChk f s) (fun s =>
    match zoneChan f with
    | none => answer (ackFrame f 0 rsOk) s
    | some c => answer (ackFrame f 0 rsOk) (planFrame c (frFirst f) (f.addr.toNat % 2 ^ 32) (body f) s).2) s) s

def attestChk (f : HostFrame) (s : State) : Option Nak :=
  if f.plen ≠ 32 then some (rsLength, 0)
  else if !s.hostKnown then some (rsNoHost, 0)
  else if !s.sec.identOk then some (rsFenced, 0)
  else if 2 ^ 22 < f.backlog + frameBytes f then some (rsBusy, 1)
  else if s.icp.attestReq.isSome then some (rsBusy, 4)
  else none

/-- ATTEST (R71, R472): the report is generated, and sent when REPORT_READY comes. -/
def execAttest (f : HostFrame) (s : State) : Out :=
  onLink (fun s => request 0xE 0 f (attestChk f s) (fun s =>
    (nakFrame f 0 rsSequence 0, s.modIcp fun i => { i with attestReq := some ⟨f.seq, body f, f.src, f.tag⟩ })) s) s

/-- The frames of a report (R71). -/
def reportFrames (q : AttestReq) (bytes : List Byte) : List TxFrame :=
  let n := (bytes.length + 8191) / 8192
  (List.range n).map fun i =>
    { dst := q.src, typ := 0xE, cls := 0, flags := BitVec.ofNat 8 (boolBit (i = 0) 1 + boolBit (i + 1 = n) 2), zone := 0, seq := 0,
      ack := q.seq, status := rsOk, addr := BitVec.ofNat 64 (8192 * i), tag := q.tag, payload := (bytes.drop (8192 * i)).take 8192 }

/-- REPORT_READY (R471, R472). -/
def execReportReady (s : State) : Out :=
  match s.icp.attestReq with
  | none => .next s
  | some q =>
    let frames := reportFrames q (reportBytes s q.nonce)
    let s := s.modIcp fun i => { i with attestReq := none, attestCache := some (q.seq, frames) }
    let s := s.modSec fun x => { x with reports := satAdd 0xFFFF x.reports 1 }
    .next (s.each frames transmit)

/-- NON_HOST_TYPE_FRAME (R47): a type the host may not send is refused with TYPE. The class of its NAK, which no row of the types gives, is the
frame's class byte modulo 2; that of a NAK for a wrong class byte is the type's (DESIGN CHOICE, log 76). -/
def execNonHostTypeFrame (f : HostFrame) (typ : BitVec 4) (s : State) : Out :=
  if ([1, 2, 4, 5, 7, 0xB, 0xC, 0xE] : List Nat).contains typ.toNat then .next s
  else
    let cls : Fin 2 := if f.cls.toNat % 2 = 1 then 1 else 0
    onLink (arrival typ.toNat cls f (some (rsType, 0)) (answer (nakFrame f cls rsType 0))) s

/-! ## The out-queue (R58 to R60) -/

/-- An ACK of the host (R49, R58): it frees the frames up to its value, and what waited for room enters the queue. -/
def hostAck (a : W32) (s : State) : State :=
  let base := s.icp.txAcked
  let n := (a - base).toNat
  if n < 1 || (s.icp.txSeq - 1 - base).toNat < n then s
  else
    let hit := fun (e : OutqEntry) => (e.frame.seq - base).toNat ≤ n
    let again := (s.icp.outq.filter fun e => hit e && 2 ≤ e.tries).length
    let (inj, s) := if again = 0 then (none, s) else takeInjection (gpage .icp) commonCover s
    let s := s.modIcp fun i => { i with txAcked := a, outq := i.outq.filter fun e => !hit e }
    let s := s.each (List.range again) fun _ => transientEvent (gpage .icp) inj.isSome
    releaseHeldOut (injectedIf inj.isSome (gpage .icp) s)

/-- ACK (R49, R58). -/
def execAck (f : HostFrame) (s : State) : Out :=
  onLink (fun s =>
    if f.bcast then s.bump (gpage .hmac) 0x120 1
    else if f.version = 1 && f.plen = 0 then hostAck f.ack s else s) s

/-- The second expiry is lasting: the host is lost (R59). -/
def hostLost (inj : Bool) (s : State) : State :=
  (lastingEvent (gpage .icp) false inj noDetail (s.modIcp fun i => { i with hostLost := true })).when inj (injectedCause (gpage .icp))

/-- RETX_TIMEOUT (R58, R59): a frame that was sent and is unacknowledged for that long is sent once more, with RETX set; the second time the
host is lost, and under an injection of mode 0b10 the first time (R90). -/
def execRetxTimeout (seq : W32) (s : State) : Out :=
  if !linkLive s || s.icp.hostLost then .next s
  else match s.icp.outq.find? fun e => e.frame.seq = seq with
    | none => .next s
    | some e =>
      if e.due.isSome then .next s
      else if 2 ≤ e.tries then
        let (inj, s) := takeInjection (gpage .icp) commonCover s
        .next (hostLost inj.isSome s)
      else if (armed s (gpage .icp)).any fun x => commonCover x.1 && x.2 = 2 then .next (hostLost true (disarm (gpage .icp) s))
      else
        let again := fun (x : OutqEntry) => if x.frame.seq = seq then { x with tries := 2, due := some true } else x
        .next (sendOutq (s.modIcp fun i => { i with outq := i.outq.map again }))

/-- OUTQ_ROOM (R59). -/
def execOutqRoom (s : State) : Out := .next (releaseHeldOut s)

/-- COAL_TIME (R67). -/
def execCoalTime (c : Fin 9) (s : State) : Out := .next (sendCompletions c s)

/-! ## Link and flow control -/

/-- ETH_LINK_DOWN (R60): responses awaiting transmission are discarded. Whether the FEC keeps its lock, and which lanes stay aligned, the spec
leaves to the line: a free value (R79, log 72). -/
def execEthLinkDown (s : State) : Out :=
  let (x, s) := s.draw
  let s := s.modIcp fun i => { i with linkUp := false, txWait := .replicate 2 [] }
  .next (if s.hostUp then s.setReg (gpage .hmac) 0x108 (x &&& 0x3FE) else s)

/-- ETH_LINK_UP (R60): the unacknowledged frames go out again, oldest first, each a fresh attempt, with RETX if it was sent before. While a
domain of the host path is stopped no link comes up (R17, R410). -/
def execEthLinkUp (s : State) : Out :=
  if !s.hostUp || s.icp.linkUp || !(s.supv.hmacRun[0] && s.supv.hmacRun[1] && s.supv.hmacRun[2]) then .next s
  else
    let fresh := fun (e : OutqEntry) => { e with tries := 1, due := some e.sentEver }
    let s := s.modIcp fun i => { i with linkUp := true, outq := if i.hostLost then i.outq else i.outq.map fresh }
    .next (sendOutq s)

/-- FRAME_FILTERED (R38, R39). -/
def execFrameFiltered (r : FilterReason) (s : State) : Out :=
  onLink (fun s =>
    s.bump (gpage .hmac) (match r with
      | .oversize => 0x11C | .undersize => 0x120 | .fcsError => 0x118 | .fecUncorrectable => 0x114 | .notAccepted => 0x120) 1) s

/-- A class may send again: the frames it held go out (R40). -/
def resumeClass (k : Fin 2) (s : State) : State := flushClass k (s.modIcp fun i => { i with paused := i.paused.set k.val false })

/-- PFC_FRAME (R40): a frame on a mapped priority holds or resumes the class. -/
def execPfcFrame (enable : BitVec 8) (quanta : List H16) (s : State) : Out :=
  onLink (fun s =>
    let named := fun (k : Fin 2) => enable.getLsbD (classPri s k)
    let s' := s.when (named 0 || named 1) fun s => s.bump (gpage .hmac) 0x124 1
    if !pfcOn s then s'
    else s'.each (List.finRange 2) fun k t =>
      if !named k then t
      else if quanta.getD (classPri s k) 0 = 0 then resumeClass k t
      else t.modIcp fun i => { i with paused := i.paused.set k.val true }) s

/-- PAUSE_QUANTA_EXPIRY (R40): the pause ends by its own time. -/
def execPauseQuantaExpiry (k : Fin 2) (s : State) : Out := onLink (resumeClass k) s

/-- PFC_REFRESH (R43): the XOFF frame again while the buffer stays above the threshold; quanta 0 once it has emptied. -/
def execPfcRefresh (k : Fin 2) (occ : Nat) (s : State) : Out :=
  onLink (fun s =>
    if pfcOn s && s.icp.xoff[k.val] && 2 ^ 21 < occ then sendPfc k 0xFFFF (s.modIcp fun i => { i with ingress := i.ingress.set k.val occ })
    else observeIngress k occ s) s

end Sys2Proof.Machine
end

