-- ==== Sys2Proof/Machine/Dispatch.lean ====
section
/-! DEFINITION. The dispatch: one arm for each command of the table. -/
namespace Sys2Proof.Machine

/-- What a command does to everything but the queue. -/
def exec (i : Instr) (s : State) : Host.Outcome State Fault Refusal :=
  match i with
  | .regRead f => Sys2Proof.Machine.execRegRead f s
  | .regWrite f => Sys2Proof.Machine.execRegWrite f s
  | .memWrite f => Sys2Proof.Machine.execMemWrite f s
  | .pfcRefresh cls occ => Sys2Proof.Machine.execPfcRefresh cls occ s
  | .memRead f failAt => Sys2Proof.Machine.execMemRead f failAt s
  | .batch f => Sys2Proof.Machine.execBatch f s
  | .routePlan f => Sys2Proof.Machine.execRoutePlan f s
  | .attest f => Sys2Proof.Machine.execAttest f s
  | .reportReady => Sys2Proof.Machine.execReportReady s
  | .ack f => Sys2Proof.Machine.execAck f s
  | .pfcFrame enable quanta => Sys2Proof.Machine.execPfcFrame enable quanta s
  | .frameFiltered r => Sys2Proof.Machine.execFrameFiltered r s
  | .ethLinkDown => Sys2Proof.Machine.execEthLinkDown s
  | .ethLinkUp => Sys2Proof.Machine.execEthLinkUp s
  | .retxTimeout seq => Sys2Proof.Machine.execRetxTimeout seq s
  | .hostLostClear => Sys2Proof.Machine.execHostLostClear s
  | .outqRoom => Sys2Proof.Machine.execOutqRoom s
  | .coalTime c => Sys2Proof.Machine.execCoalTime c s
  | .sbRead a pec => Sys2Proof.Machine.execSbRead a pec s
  | .sbWrite a v pec => Sys2Proof.Machine.execSbWrite a v pec s
  | .telem q ch inst pec => Sys2Proof.Machine.execTelem q ch inst pec s
  | .dynamicAddress a => Sys2Proof.Machine.execDynamicAddress a s
  | .smbusTimeout => Sys2Proof.Machine.execSmbusTimeout s
  | .wakeN => Sys2Proof.Machine.execWakeN s
  | .sxCoreStop => Sys2Proof.Machine.execSxCoreStop s
  | .enable pg on => Sys2Proof.Machine.execEnable pg on s
  | .fence pg on => Sys2Proof.Machine.execFence pg on s
  | .drain pg => Sys2Proof.Machine.execDrain pg s
  | .drained pg => Sys2Proof.Machine.execDrained pg s
  | .reset pg => Sys2Proof.Machine.execReset pg s
  | .resetDone pg => Sys2Proof.Machine.execResetDone pg s
  | .errStatClear pg mask => Sys2Proof.Machine.execErrStatClear pg mask s
  | .errInject pg v => Sys2Proof.Machine.execErrInject pg v s
  | .retryCntRead pg => Sys2Proof.Machine.execRetryCntRead pg s
  | .faultCntRead pg => Sys2Proof.Machine.execFaultCntRead pg s
  | .loRead p a => Sys2Proof.Machine.execLoRead p a s
  | .hiRead p a => Sys2Proof.Machine.execHiRead p a s
  | .loWrite p a v => Sys2Proof.Machine.execLoWrite p a v s
  | .hiWrite p a v => Sys2Proof.Machine.execHiWrite p a v s
  | .stakeVal c w => Sys2Proof.Machine.execStakeVal c w s
  | .allocData c w => Sys2Proof.Machine.execAllocData c w s
  | .tableData c w => Sys2Proof.Machine.execTableData c w s
  | .cbenchReadData c => Sys2Proof.Machine.execCbenchReadData c s
  | .fbookReadData p => Sys2Proof.Machine.execFbookReadData p s
  | .cairnReadData p => Sys2Proof.Machine.execCairnReadData p s
  | .registerWrite a v => Sys2Proof.Machine.execRegisterWrite a v s
  | .planeMapWrite v => Sys2Proof.Machine.execPlaneMapWrite v s
  | .feedTagWrite v => Sys2Proof.Machine.execFeedTagWrite v s
  | .recover mask => Sys2Proof.Machine.execRecover mask s
  | .recoveryDone c ok => Sys2Proof.Machine.execRecoveryDone c ok s
  | .swap => Sys2Proof.Machine.execSwap s
  | .stateReqActive p => Sys2Proof.Machine.execStateReqActive p s
  | .stateReqIdle p => Sys2Proof.Machine.execStateReqIdle p s
  | .idleReached => Sys2Proof.Machine.execIdleReached s
  | .stateReqDormant p => Sys2Proof.Machine.execStateReqDormant p s
  | .stateReqStandby p => Sys2Proof.Machine.execStateReqStandby p s
  | .leakClear p released => Sys2Proof.Machine.execLeakClear p released s
  | .tripSeen p clear => Sys2Proof.Machine.execTripSeen p clear s
  | .inputMvRead p => Sys2Proof.Machine.execInputMvRead p s
  | .inputMaRead p => Sys2Proof.Machine.execInputMaRead p s
  | .surveyChannels mask => Sys2Proof.Machine.execSurveyChannels mask s
  | .surveyModule => Sys2Proof.Machine.execSurveyModule s
  | .surveyCancel => Sys2Proof.Machine.execSurveyCancel s
  | .fbookClear p v => Sys2Proof.Machine.execFbookClear p v s
  | .cairnRelease mask => Sys2Proof.Machine.execCairnRelease mask s
  | .install ch area comp => Sys2Proof.Machine.execInstall ch area comp s
  | .installComplete readOk => Sys2Proof.Machine.execInstallComplete readOk s
  | .switch comp => Sys2Proof.Machine.execSwitch comp s
  | .commit comp => Sys2Proof.Machine.execCommit comp s
  | .recordStatRead => Sys2Proof.Machine.execRecordStatRead s
  | .attestStatRead => Sys2Proof.Machine.execAttestStatRead s
  | .staleCntRead => Sys2Proof.Machine.execStaleCntRead s
  | .dupCntRead => Sys2Proof.Machine.execDupCntRead s
  | .busyCnt0Read => Sys2Proof.Machine.execBusyCnt0Read s
  | .busyCnt1Read => Sys2Proof.Machine.execBusyCnt1Read s
  | .srcChangeCntRead => Sys2Proof.Machine.execSrcChangeCntRead s
  | .fecCorrCntRead => Sys2Proof.Machine.execFecCorrCntRead s
  | .fecUncorrCntRead => Sys2Proof.Machine.execFecUncorrCntRead s
  | .fcsErrCntRead => Sys2Proof.Machine.execFcsErrCntRead s
  | .oversizeCntRead => Sys2Proof.Machine.execOversizeCntRead s
  | .filterCntRead => Sys2Proof.Machine.execFilterCntRead s
  | .pfcRxCntRead => Sys2Proof.Machine.execPfcRxCntRead s
  | .pfcTxCntRead => Sys2Proof.Machine.execPfcTxCntRead s
  | .portEnWrite v => Sys2Proof.Machine.execPortEnWrite v s
  | .recall id => Sys2Proof.Machine.execRecall id s
  | .resetXferCntRead => Sys2Proof.Machine.execResetXferCntRead s
  | .abort c id => Sys2Proof.Machine.execAbort c id s
  | .resume c mask => Sys2Proof.Machine.execResume c mask s
  | .flush c mask => Sys2Proof.Machine.execFlush c mask s
  | .park c on => Sys2Proof.Machine.execPark c on s
  | .rampCntRead c => Sys2Proof.Machine.execRampCntRead c s
  | .domainStop c d => Sys2Proof.Machine.execDomainStop c d s
  | .domainStart c d => Sys2Proof.Machine.execDomainStart c d s
  | .arbModeChange c => Sys2Proof.Machine.execArbModeChange c s
  | .lockLong c owner => Sys2Proof.Machine.execLockLong c owner s
  | .lockLongCntRead c => Sys2Proof.Machine.execLockLongCntRead c s
  | .outstandingRead c => Sys2Proof.Machine.execOutstandingRead c s
  | .firstInvalidRearm c => Sys2Proof.Machine.execFirstInvalidRearm c s
  | .satCntRead c => Sys2Proof.Machine.execSatCntRead c s
  | .invalidCntRead c => Sys2Proof.Machine.execInvalidCntRead c s
  | .ovfCntRead c => Sys2Proof.Machine.execOvfCntRead c s
  | .closureExcessCntRead c => Sys2Proof.Machine.execClosureExcessCntRead c s
  | .busyCntRead c arr => Sys2Proof.Machine.execBusyCntRead c arr s
  | .descErrCntRead c => Sys2Proof.Machine.execDescErrCntRead c s
  | .indexRangeRearm c => Sys2Proof.Machine.execIndexRangeRearm c s
  | .structViolRearm c => Sys2Proof.Machine.execStructViolRearm c s
  | .indexRangeCntRead c => Sys2Proof.Machine.execIndexRangeCntRead c s
  | .structViolCntRead c => Sys2Proof.Machine.execStructViolCntRead c s
  | .planLateCntRead c => Sys2Proof.Machine.execPlanLateCntRead c s
  | .extraRoundCntRead c => Sys2Proof.Machine.execExtraRoundCntRead c s
  | .eccCorrCntRead c stack => Sys2Proof.Machine.execEccCorrCntRead c stack s
  | .eccUncorrCntRead c stack => Sys2Proof.Machine.execEccUncorrCntRead c stack s
  | .stackTempRead c stack => Sys2Proof.Machine.execStackTempRead c stack s
  | .linkStatRead c port => Sys2Proof.Machine.execLinkStatRead c port s
  | .replayCntRead c port => Sys2Proof.Machine.execReplayCntRead c port s
  | .forceRx c port fibres wave => Sys2Proof.Machine.execForceRx c port fibres wave s
  | .claim c plane => Sys2Proof.Machine.execClaim c plane s
  | .selectorSwitchDone plane => Sys2Proof.Machine.execSelectorSwitchDone plane s
  | .releaseIn c areas => Sys2Proof.Machine.execReleaseIn c areas s
  | .recopy c => Sys2Proof.Machine.execRecopy c s
  | .descCreate c st => Sys2Proof.Machine.execDescCreate c st s
  | .layoutCopy c st => Sys2Proof.Machine.execLayoutCopy c st s
  | .seqTable c st => Sys2Proof.Machine.execSeqTable c st s
  | .matmulPass c st => Sys2Proof.Machine.execMatmulPass c st s
  | .vector c st => Sys2Proof.Machine.execVector c st s
  | .gather c st => Sys2Proof.Machine.execGather c st s
  | .merge c st => Sys2Proof.Machine.execMerge c st s
  | .compact c st => Sys2Proof.Machine.execCompact c st s
  | .predict c st => Sys2Proof.Machine.execPredict c st s
  | .bin c st => Sys2Proof.Machine.execBin c st s
  | .routeScore c st => Sys2Proof.Machine.execRouteScore c st s
  | .routeReportCommit c => Sys2Proof.Machine.execRouteReportCommit c s
  | .planDeadline c ctx => Sys2Proof.Machine.execPlanDeadline c ctx s
  | .dispatch c st => Sys2Proof.Machine.execDispatch c st s
  | .collect c st => Sys2Proof.Machine.execCollect c st s
  | .close c st => Sys2Proof.Machine.execClose c st s
  | .exchangeSend c st => Sys2Proof.Machine.execExchangeSend c st s
  | .exchangeRecv c st => Sys2Proof.Machine.execExchangeRecv c st s
  | .reduce c st => Sys2Proof.Machine.execReduce c st s
  | .reduceRegister c => Sys2Proof.Machine.execReduceRegister c s
  | .reduceRendezvous id => Sys2Proof.Machine.execReduceRendezvous id s
  | .reduceTimeout c id => Sys2Proof.Machine.execReduceTimeout c id s
  | .update c st => Sys2Proof.Machine.execUpdate c st s
  | .platWrite c st => Sys2Proof.Machine.execPlatWrite c st s
  | .platRead c st => Sys2Proof.Machine.execPlatRead c st s
  | .triRendezvous id => Sys2Proof.Machine.execTriRendezvous id s
  | .triTimeout id => Sys2Proof.Machine.execTriTimeout id s
  | .platSession c m => Sys2Proof.Machine.execPlatSession c m s
  | .copyComplete c second => Sys2Proof.Machine.execCopyComplete c second s
  | .nandPageError c program retryOk slot reserveGone => Sys2Proof.Machine.execNandPageError c program retryOk slot reserveGone s
  | .loanPut c st => Sys2Proof.Machine.execLoanPut c st s
  | .loanGet c st => Sys2Proof.Machine.execLoanGet c st s
  | .offloadPut c st => Sys2Proof.Machine.execOffloadPut c st s
  | .offloadGet c st => Sys2Proof.Machine.execOffloadGet c st s
  | .stakeWait c st => Sys2Proof.Machine.execStakeWait c st s
  | .stakeSignal c st => Sys2Proof.Machine.execStakeSignal c st s
  | .batchFetch c st => Sys2Proof.Machine.execBatchFetch c st s
  | .fetchBurst c st => Sys2Proof.Machine.execFetchBurst c st s
  | .stagedFeedStart c u => Sys2Proof.Machine.execStagedFeedStart c u s
  | .commitRequest c u => Sys2Proof.Machine.execCommitRequest c u s
  | .commitGrant c arr => Sys2Proof.Machine.execCommitGrant c arr s
  | .descriptorCompletion c u => Sys2Proof.Machine.execDescriptorCompletion c u s
  | .fillMaxReached c arr => Sys2Proof.Machine.execFillMaxReached c arr s
  | .closureMaxWait c arr => Sys2Proof.Machine.execClosureMaxWait c arr s
  | .closureCompare c arr => Sys2Proof.Machine.execClosureCompare c arr s
  | .repeatResult c arr r1EqN r2EqR1 r2EqN => Sys2Proof.Machine.execRepeatResult c arr r1EqN r2EqR1 r2EqN s
  | .hbmUncorrectable c stack => Sys2Proof.Machine.execHbmUncorrectable c stack s
  | .hbmReread c stack addr ok answers user => Sys2Proof.Machine.execHbmReread c stack addr ok answers user s
  | .hbmWriteCrc c stack ok answers user => Sys2Proof.Machine.execHbmWriteCrc c stack ok answers user s
  | .cacheEccError c dirty ok user => Sys2Proof.Machine.execCacheEccError c dirty ok user s
  | .stackTempChange c stack temp => Sys2Proof.Machine.execStackTempChange c stack temp s
  | .mxUnresponsive c => Sys2Proof.Machine.execMxUnresponsive c s
  | .flitReceive c port flit => Sys2Proof.Machine.execFlitReceive c port flit s
  | .ident c port m => Sys2Proof.Machine.execIdent c port m s
  | .creditInit c port credits => Sys2Proof.Machine.execCreditInit c port credits s
  | .credit c port totals => Sys2Proof.Machine.execCredit c port totals s
  | .nak c port seq => Sys2Proof.Machine.execNak c port seq s
  | .switchReq c port fibre wave => Sys2Proof.Machine.execSwitchReq c port fibre wave s
  | .switchReady c port fibre wave => Sys2Proof.Machine.execSwitchReady c port fibre wave s
  | .switchAt c port fibre wave n => Sys2Proof.Machine.execSwitchAt c port fibre wave n s
  | .feedTag c port tag => Sys2Proof.Machine.execFeedTag c port tag s
  | .feedAck c port tag => Sys2Proof.Machine.execFeedAck c port tag s
  | .down c port => Sys2Proof.Machine.execDown c port s
  | .linkMsgRepeat c port => Sys2Proof.Machine.execLinkMsgRepeat c port s
  | .lossOfSignal c port => Sys2Proof.Machine.execLossOfSignal c port s
  | .holdExpiry c port => Sys2Proof.Machine.execHoldExpiry c port s
  | .windowWaitExpiry c port => Sys2Proof.Machine.execWindowWaitExpiry c port s
  | .marginLow c port fibre wave => Sys2Proof.Machine.execMarginLow c port fibre wave s
  | .laserLow c port fibre wave => Sys2Proof.Machine.execLaserLow c port fibre wave s
  | .waveLockLoss c port fibre wave => Sys2Proof.Machine.execWaveLockLoss c port fibre wave s
  | .lightDetected c port => Sys2Proof.Machine.execLightDetected c port s
  | .lockTimeout c port fibre wave => Sys2Proof.Machine.execLockTimeout c port fibre wave s
  | .bringupRetry c port => Sys2Proof.Machine.execBringupRetry c port s
  | .trainingRetry c port => Sys2Proof.Machine.execTrainingRetry c port s
  | .lockLoss d relocks => Sys2Proof.Machine.execLockLoss d relocks s
  | .freqChange d => Sys2Proof.Machine.execFreqChange d s
  | .freqDrainTimeout d => Sys2Proof.Machine.execFreqDrainTimeout d s
  | .benchmarkRead readings samples => Sys2Proof.Machine.execBenchmarkRead readings samples s
  | .datumWrite => Sys2Proof.Machine.execDatumWrite s
  | .surveyDue => Sys2Proof.Machine.execSurveyDue s
  | .resurvey d atEntry atNext fault => Sys2Proof.Machine.execResurvey d atEntry atNext fault s
  | .opHours => Sys2Proof.Machine.execOpHours s
  | .epochRecord => Sys2Proof.Machine.execEpochRecord s
  | .powerOn identOk datumBad => Sys2Proof.Machine.execPowerOn identOk datumBad s
  | .loadTimeout comp ch retryOk otherOk => Sys2Proof.Machine.execLoadTimeout comp ch retryOk otherOk s
  | .heartbeatTimeout => Sys2Proof.Machine.execHeartbeatTimeout s
  | .uvTrip => Sys2Proof.Machine.execUvTrip s
  | .uvRelease => Sys2Proof.Machine.execUvRelease s
  | .ovTrip => Sys2Proof.Machine.execOvTrip s
  | .ovRelease => Sys2Proof.Machine.execOvRelease s
  | .coolantTrip => Sys2Proof.Machine.execCoolantTrip s
  | .coolantRelease => Sys2Proof.Machine.execCoolantRelease s
  | .leakTrip => Sys2Proof.Machine.execLeakTrip s
  | .inputLow => Sys2Proof.Machine.execInputLow s
  | .coolantWarn => Sys2Proof.Machine.execCoolantWarn s
  | .phaseFail rail => Sys2Proof.Machine.execPhaseFail rail s
  | .thermalPark c hot => Sys2Proof.Machine.execThermalPark c hot s
  | .thermalTrip d => Sys2Proof.Machine.execThermalTrip d s
  | .nonHostTypeFrame f typ => Sys2Proof.Machine.execNonHostTypeFrame f typ s
  | .rampComplete c arr => Sys2Proof.Machine.execRampComplete c arr s
  | .gaugeSample samples inputMv inputMa => Sys2Proof.Machine.execGaugeSample samples inputMv inputMa s
  | .pauseQuantaExpiry cls => Sys2Proof.Machine.execPauseQuantaExpiry cls s
  | .alwaysOnPowerLoss => Sys2Proof.Machine.execAlwaysOnPowerLoss s

end Sys2Proof.Machine
end

