-- ==== Sys2Proof/Machine/Tick.lean ====
section
/-! DEFINITION. What a step does when no command waits. -/
namespace Sys2Proof.Machine

/-- The MSIDE cycles of a channel that end in the reference cycle to come (R397, R400): 11.52 at 1.8 GHz, 0.64 fewer for each entry. -/
def msideCycles (s : State) (c : Fin 9) : Nat :=
  let rate := 1152 - 64 * (s.chan c).entryNow[2]
  (s.refCycles + 1) * rate / 100 - s.refCycles * rate / 100

/-- A channel's memory path moves on: the Meridian's data path runs, replies reach their requesters, and lines held for a released stack are
written back (R317, R326, R407). -/
def memoryCycle (c : Fin 9) (s : State) : State :=
  if s.powered c then deliverReplies c (flushHeld c (busCycles c (msideCycles s c) s)) else s

/-- One 6.4 ns cycle of the reference (R400): device time advances in the states in which it runs (R401), and with it the channels' memory
paths; nothing else changes (log 1). -/
def tick (s : State) : State :=
  if s.on then
    let s := s.each allChans memoryCycle
    { s with refCycles := s.refCycles + 1 }
  else s

end Sys2Proof.Machine
end

