-- ==== Sys2Proof/WellFormed.lean ====
section
/-! DEFINITION. Which commands are well formed: those the outside world can send. The rows of the table have no encoding, so nothing
here is a bit pattern; each check says that an operand names something the spec has. `exec` is total all the same. -/
namespace Sys2Proof
open Machine

/-- What is wrong with an ill-formed command. -/
inductive IllFormed
  /-- A page that the catalogue does not have (R81, R96). -/
  | page
  /-- A frame longer than the MAC hands on (R38): such a frame is FRAME_FILTERED. -/
  | frameLength
  /-- NON_HOST_TYPE_FRAME with a type that the host sends (R45), or PFC_FRAME without its eight quanta (R40). -/
  | frameType
  /-- A pair command whose address is no half of a 64-bit pair (R94). -/
  | pairHalf
  /-- A line unit that is no flit of 272 bytes (R352). -/
  | flitLength
  /-- Not one count for each of the eight lane and class pairs (R349, R351). -/
  | creditCount
  /-- More readings than a benchmark has sites, more offsets than a die can take, or one die twice (R424 to R426). -/
  | readings
  /-- A gauge that the field book does not keep (R430). -/
  | gauge
  /-- A component beyond the six images, or the records where only an image will do (R458, R467). -/
  | component
  /-- A domain without a loop, or without a frequency of its own (R397, R410). -/
  | domain
  /-- A unit that has no feed, or a port's send engine named for what is not one (R101, R106). -/
  | unit
  /-- A slot that the plat store does not have: three of its own, two inbound (R367). -/
  | platSlot
  /-- A wavelength that a fibre does not have (R344). -/
  | wavelength
  deriving DecidableEq, Repr

/-- A page of the catalogue. -/
def pageCheck (p : Page) : Option IllFormed := if p.ok then none else some .page

/-- The length of a frame from its destination address through its FCS, untagged (R37, R38). -/
def frameCheck (f : HostFrame) : Option IllFormed := if 50 + f.payload.length ≤ 9216 then none else some .frameLength

/-- Whether an address is the wanted half of a pair of R94. -/
def halfOk (hi : Bool) (a : W32) : Bool :=
  match pageOf a with
  | some p =>
    let off := a.toNat % 4096 - (if hi then 4 else 0)
    (match p.blk, off with
      | .supv, 0x110 | .clocks, 0x100 | .dense, 0x100 | .cache, 0x100 | .cache, 0x108 | .update, 0x100 | .update, 0x108 => true
      | _, _ => false) && (!hi || 4 ≤ a.toNat % 4096)
  | none => false

def halfCheck (hi : Bool) (a : W32) : Option IllFormed := if halfOk hi a then none else some .pairHalf

def gaugesCheck (gs : List GaugeSample) : Option IllFormed :=
  if gs.all fun g => gaugeKeys.contains (g.quantity.toNat, g.chan.toNat, g.inst.toNat) then none else some .gauge

/-- A unit that descriptors feed (R106): the sequencer's own opcodes and posted windows have no feed. -/
def unitCheck (u : UnitId) : Option IllFormed :=
  match u with
  | .seq => some .unit
  | _ => none

/-- What is wrong with a command, if anything. -/
def Instr.check : Instr → Option IllFormed
  | .regRead f | .regWrite f | .memWrite f | .memRead f _ | .batch f | .routePlan f | .attest f | .ack f => frameCheck f
  | .nonHostTypeFrame f t =>
    if ([1, 2, 4, 5, 7, 0xB, 0xC, 0xE] : List Nat).contains t.toNat then some .frameType else frameCheck f
  | .pfcFrame _ q => if q.length = 8 then none else some .frameType
  | .enable p _ | .fence p _ | .drain p | .drained p | .reset p | .resetDone p | .errStatClear p _ | .errInject p _ | .retryCntRead p
  | .faultCntRead p => pageCheck p
  | .loRead _ a | .loWrite _ a _ => halfCheck false a
  | .hiRead _ a | .hiWrite _ a _ => halfCheck true a
  | .install _ _ comp => if comp.toNat ≤ 6 then none else some .component
  | .switch comp | .commit comp => if comp.toNat < 6 then none else some .component
  | .loadTimeout comp ch _ _ => if comp.toNat < 6 ∧ (ch.isNone ∨ 2 ≤ comp.toNat) then none else some .component
  | .stagedFeedStart _ u | .commitRequest _ u | .descriptorCompletion _ u => unitCheck u
  | .flitReceive _ _ b => if b.length = 272 then none else some .flitLength
  | .creditInit _ _ l => if l.length = 8 ∧ l.all (· < 65536) then none else some .creditCount
  | .credit _ _ l => if l.length = 8 then none else some .creditCount
  | .forceRx _ _ _ w => if w.toNat < 5 then none else some .wavelength
  | .lockLoss d _ => if d = .srtc then some .domain else none
  | .freqChange d | .freqDrainTimeout d =>
    match d with
    | .arith _ | .gather _ | .mside _ | .hub => none
    | _ => some .domain
  | .benchmarkRead rs gs => if rs.all (fun r => r.2.length ≤ 24) then gaugesCheck gs else some .readings
  | .gaugeSample r _ _ => gaugesCheck r.gauges
  | .resurvey _ a b _ => if a.length ≤ 16 ∧ b.length ≤ 16 ∧ (a ++ b).all (fun r => r.length ≤ 24) then none else some .readings
  | .powerOn _ bad => if bad.eraseDups.length = bad.length then none else some .readings
  | .nandPageError _ _ _ slot _ => if slot < 5 then none else some .platSlot
  | _ => none

end Sys2Proof
end

