-- ==== Sys2Proof/Safety.lean ====
section
/-! DEFINITION. What every state of the module keeps: the sparse tables of its registers and memories stand in canonical form, so that
equal contents are equal data; the plane map is legal. -/
namespace Sys2Proof.Machine

/-- A channel's memory and stakes in canonical form. -/
def Chan.wf (ch : Chan) : Bool := memWf ch.mem && spWfFrom stakeDefault 0 ch.stakes

/-- The page headers, the stored registers and every channel in canonical form. -/
abbrev State.wf (s : State) : Prop :=
  spWfFrom hdrDefault 0 s.hdrs = true ∧ spWfFrom regDefault 0 s.regs = true ∧ ∀ c, (s.chan c).wf = true

/-- The field of SUPV.PLANE_MAP for a plane. -/
def State.planeField (s : State) (k : Fin 8) : Nat := bitsOf s.supv.planeMap.toNat (4 * k.val + 3) (4 * k.val)

/-- Each plane of the map names its own channel or channel 8 (R22). -/
abbrev State.mapLegal (s : State) : Prop := ∀ k : Fin 8, s.planeField k = k.val ∨ s.planeField k = 8

/-- What every step keeps. -/
abbrev State.Inv (s : State) : Prop := s.wf ∧ s.mapLegal

/-! ## When an access is performed -/

/-- A header register of the page answers over ICP: the host link is up, the page exists, its channel can be reached (R2, R82, R92). -/
abbrev State.headerUp (s : State) (p : Page) : Prop := pathUp .icp s = true ∧ p.ok = true ∧ unreachable s p = false

/-- A block-specific register of the page answers over a path: the path reaches it, its channel can be reached and its clock domain
runs (R80, R82, R92, R485). -/
abbrev State.answersOn (path : Path) (s : State) (p : Page) (off : Nat) : Prop :=
  pathUp path s = true ∧ pathRefuses path sbReads (regAddr p off) = none ∧ p.ok = true ∧ unreachable s p = false ∧ s.domOn p = true

/-- A block-specific register of the page takes a write over a path: it answers, and its block is not fenced (R61, R485). -/
abbrev State.takesOn (path : Path) (s : State) (p : Page) (off : Nat) : Prop :=
  pathUp path s = true ∧ pathRefuses path sbWrites (regAddr p off) = none ∧ p.ok = true ∧ unreachable s p = false ∧ s.domOn p = true ∧
    ((coreForAccess path s).on && s.fenced p) = false

/-- A register access over ICP answers. -/
abbrev State.answers (s : State) (p : Page) : Prop := s.headerUp p ∧ s.domOn p = true

/-- A register write over ICP is performed. -/
abbrev State.takes (s : State) (p : Page) : Prop := s.answers p ∧ s.fenced p = false

/-- The state that a register access leaves: `st` and `v` are what it answered. -/
def State.answered (s : State) (st : H16) (v : W32) : State := { s with regOut := some (st, v) }

/-- The commands that read one register whose fields a read may clear (R7): the page, the offset and the bits cleared. -/
def counterOf : Instr → Option (Page × Nat × W32)
  | .staleCntRead => some (gpage .icp, 0x120, 0xFFFFFFFF)
  | .dupCntRead => some (gpage .icp, 0x124, 0xFFFFFFFF)
  | .busyCnt0Read => some (gpage .icp, 0x128, 0xFFFFFFFF)
  | .busyCnt1Read => some (gpage .icp, 0x12C, 0xFFFFFFFF)
  | .srcChangeCntRead => some (gpage .icp, 0x138, 0xFFFFFFFF)
  | .fecCorrCntRead => some (gpage .hmac, 0x110, 0xFFFFFFFF)
  | .fecUncorrCntRead => some (gpage .hmac, 0x114, 0xFFFFFFFF)
  | .fcsErrCntRead => some (gpage .hmac, 0x118, 0xFFFFFFFF)
  | .oversizeCntRead => some (gpage .hmac, 0x11C, 0xFFFFFFFF)
  | .filterCntRead => some (gpage .hmac, 0x120, 0xFFFFFFFF)
  | .pfcRxCntRead => some (gpage .hmac, 0x124, 0xFFFFFFFF)
  | .pfcTxCntRead => some (gpage .hmac, 0x128, 0xFFFFFFFF)
  | .resetXferCntRead => some (gpage .hub, 0x10C, 0xFFFFFFFF)
  | .rampCntRead c => some (cpage c .cpwr, 0x108, 0xFFFFFFFF)
  | .lockLongCntRead c => some (cpage c .merid, 0x108, 0xFFFF)
  | .satCntRead c => some (cpage c .numw, 0x120, 0xFFFFFFFF)
  | .invalidCntRead c => some (cpage c .numw, 0x100, 0xFFFFFFFF)
  | .ovfCntRead c => some (cpage c .numw, 0x104, 0xFFFFFFFF)
  | .closureExcessCntRead c => some (cpage c .numw, 0x11C, 0xFFFFFFFF)
  | .busyCntRead c a => some (arrPage c a, 0x10C, 0xFFFFFFFF)
  | .descErrCntRead c => some (cpage c .layout, 0x108, 0xFFFF)
  | .indexRangeCntRead c => some (cpage c .gather, 0x100, 0xFFFFFFFF)
  | .structViolCntRead c => some (cpage c .gather, 0x108, 0xFFFFFFFF)
  | .planLateCntRead c => some (cpage c .route, 0x104, 0xFFFFFFFF)
  | .extraRoundCntRead c => some (cpage c .route, 0x108, 0xFFFFFFFF)
  | .eccCorrCntRead c st => some (hbmPage c st, 0x100, 0xFFFFFFFF)
  | .eccUncorrCntRead c st => some (hbmPage c st, 0x104, 0xFFFFFFFF)
  | .stackTempRead c st => some (hbmPage c st, 0x10C, 0xFF00)
  | .replayCntRead c p => some (travPage c p, 0x110, 0xFFFFFFFF)
  | _ => none

/-! ## When a descriptor issues -/

/-- The descriptor `d` stands at the head of a stream of a channel, is the one that R105 grants now, and its unit `u` is not fenced. -/
def State.due (s : State) (c : Fin 9) (st : Fin 4) (d : List Byte) (fetched : Bool) (u : UnitId) : Prop :=
  grantOf s c = some st ∧
    (∃ q fin, headOf st ((s.chan c).stream st) = some (q, fin) ∧ q.bytes = d ∧ fin.isSome = fetched) ∧
    unitFor s c d = u ∧ dueFenced s c u d = false

/-- The issued descriptor, with what it copies (R121). -/
def State.issued (s : State) (c : Fin 9) (st : Fin 4) (d : List Byte) (fetched : Bool) (u : UnitId) : Fly :=
  ⟨d, st, fetched, (s.chan c).issueNo, u, envOf s c, .feeding, false, false, false, false, false, 0, 0, 0, []⟩

/-- The state that a granted head leaves its stream in: a BATCH_FETCH whose last descriptor it was has completed. -/
def State.taken (s : State) (c : Fin 9) (st : Fin 4) (u : UnitId) : State := endFetch c st (takeIssue c st u s)

/-- A granted head leaves its stream, `k` is done with it, and the streams settle. -/
def State.issuing (s : State) (c : Fin 9) (st : Fin 4) (u : UnitId) (k : State → State) : State := settle c (k (s.taken c st u))

/-- A granted head completes with a status at its issue. -/
def State.ending (s : State) (c : Fin 9) (st : Fin 4) (d : List Byte) (fetched : Bool) (u : UnitId) (status flags : H16) (detail : W32) : State :=
  s.issuing c st u (finishDesc c d st fetched (s.chan c).issueNo status flags detail)

/-- The commands that issue a descriptor to a unit that computes it from memory: the channel, the stream, the opcodes it takes, the
checks made at issue, and the copies taken (R99, R121). -/
def unitDesc : Instr → Option (Fin 9 × Fin 4 × (List Byte → Bool) × (State → Env → List Byte → Chk) × (State → Fly → Env))
  | .layoutCopy c st => some (c, st, opIs 0x02, fun _ => copyChk, histEnv c [18])
  | .matmulPass c st => some (c, st, opIs 0x10, fun _ => passChk, passEnv c)
  | .vector c st => some (c, st, opIs 0x11, fun _ => vectorChk, histEnv c [18])
  | .gather c st => some (c, st, opIs 0x20, fun s => gatherChk (s.chan c).mem, gatherEnv c)
  | .merge c st => some (c, st, opIs 0x21, fun _ => mergeChk, histEnv c [16])
  | .compact c st => some (c, st, fun d => opIs 0x22 d && !kPredict d, fun _ => compactChk, histEnv c [22])
  | .predict c st => some (c, st, fun d => opIs 0x22 d && kPredict d, fun _ => compactChk, plainEnv)
  | .bin c st => some (c, st, opIs 0x23, fun _ => binChk, plainEnv)
  | .update c st => some (c, st, opIs 0x48, fun _ => updateChk, plainEnv)
  | .routeScore c st => some (c, st, opIs 0x30, fun s => scoreChk (s.chan c), plainEnv)
  | .dispatch c st => some (c, st, fun d => opIs 0x31 d && (apMode d = 0 || apMode d = 3), fun s e d => applyChk (s.chan c) e (ownStation s c) d, plainEnv)
  | .collect c st => some (c, st, fun d => opIs 0x31 d && apMode d = 1, fun s e d => applyChk (s.chan c) e (ownStation s c) d, plainEnv)
  | .close c st => some (c, st, fun d => opIs 0x31 d && apMode d = 2, fun s e d => applyChk (s.chan c) e (ownStation s c) d, plainEnv)
  | _ => none

/-- The commands that issue a descriptor to the hub, the plat controller or a sending port: the checks made at issue. A loan refused
because it was recalled says so in its flags (R307). -/
def linkDesc : Instr → Option (Fin 9 × Fin 4 × Nat × (State → Env → List Byte → Chk))
  | .exchangeSend c st => some (c, st, 0x38, fun s _ d => sendChk s c d)
  | .loanPut c st => some (c, st, 0x58, fun s _ d => loanChk s c d)
  | .loanGet c st => some (c, st, 0x59, fun s _ d => loanChk s c d)
  | .offloadPut c st => some (c, st, 0x5A, fun s _ d => offloadChk s d)
  | .offloadGet c st => some (c, st, 0x5B, fun s _ d => offloadChk s d)
  | .platWrite c st => some (c, st, 0x50, fun s _ d => platWriteChk s c d)
  | .platRead c st => some (c, st, 0x51, fun s _ d => platReadChk s c d)
  | _ => none

end Sys2Proof.Machine
end

