-- ==== Sys2Proof/Certificates/Slice0/Obligations.lean ====
section
/-! DEFINITION. The statements about the model. -/

open Sys2Proof Sys2Proof.Machine

/-- For every command c, queue rest and state s whose queue is c followed by rest, step s is exec c on s with the queue rest (log 1). -/
def Obligations.StepRunsFront : Prop :=
  ∀ (c : Instr) (rest : List Instr) (s : State), s.pending = c :: rest → step s = exec c { s with pending := rest }

/-- With an empty queue and the module in Standby or unpowered a step changes nothing (R401). While it is ACTIVE, IDLE or DORMANT, device time counts one 6.4 ns reference cycle more (R400); the data path of each powered channel runs for the MSIDE cycles that end in it, and its replies reach their requesters (R325, R326, R407). No register, memory byte, channel state, stream, issued descriptor, array or port changes, nor the hub, the power, boot or supervisor state, nor a channel that is not powered. That a step on an empty queue is one cycle is the model's choice (log 1). -/
def Obligations.IdleStep : Prop :=
  ∀ s : State, s.pending = [] →
    (s.on = false → step s = .next s) ∧
    (s.on = true → ∃ t, step s = .next t ∧ t.pending = [] ∧ t.refCycles = s.refCycles + 1 ∧ t.regs = s.regs ∧ t.pwr = s.pwr ∧
      t.supv = s.supv ∧ t.sec = s.sec ∧ t.hub = s.hub ∧
      ∀ c : Fin 9, (t.chan c).mem = (s.chan c).mem ∧ (t.chan c).role = (s.chan c).role ∧ (t.chan c).stakes = (s.chan c).stakes ∧
        (t.chan c).streams = (s.chan c).streams ∧ (t.chan c).fly = (s.chan c).fly ∧ (t.chan c).arrays = (s.chan c).arrays ∧
        (t.chan c).ports = (s.chan c).ports ∧ (s.powered c = false → t.chan c = s.chan c) ∧
        (s.powered c = true → (t.chan c).merid =
          { Nat.repeat (busCycle (busRank s c) (busLastBeat s c)) (msideCycles s c) (s.chan c).merid with replies := [] }))

/-- For every command and every state, where exec answers a next state its queue is the queue before: only a step takes a command from it. -/
def Obligations.ExecKeepsQueue : Prop :=
  ∀ (i : Instr) (s t : State), exec i s = .next t → t.pending = s.pending

/-- For every state in which the header table, the register table and every channel's memory and stake table stand in canonical form (addresses strictly rising, no entry equal to what an unlisted address reads) and in which every field of SUPV.PLANE_MAP names its own channel or channel 8 (R22), the next state of a step has the same properties, whatever command is at the front. -/
def Obligations.StepKeepsInv : Prop :=
  ∀ s t : State, s.Inv → step s = .next t → t.Inv

/-- State.reset has canonical tables and a legal plane map. -/
def Obligations.ResetInv : Prop :=
  State.reset.Inv

/-- At reset no command waits; every page header is disabled and fenced with ERR_ENABLE 0x6 and zero elsewhere (R84); every channel is OFF (R25); the plane map reads 0x76543210 and no selector is on the spare or switching (R22, R24); every stored register reads its reset value (R87), among them HMAC.PFC_MAP 0x136, ICP.RETX_TIMEOUT, MERID.RANK and BEARING.STATION; no memory byte and no stake is listed; nothing was sent. Registers whose reset value the spec does not give hold the values of log 3. -/
def Obligations.ResetValues : Prop :=
  State.reset.pending = [] ∧ State.reset.sent = [] ∧
    (∀ p : Page, (State.reset.hdr p).enable = false ∧ (State.reset.hdr p).fence = true ∧ (State.reset.hdr p).errEnable = 6 ∧
      (State.reset.hdr p).errStat = 0 ∧ (State.reset.hdr p).errFirst = 0 ∧ (State.reset.hdr p).errInject = 0 ∧
      (State.reset.hdr p).retryCnt = 0 ∧ (State.reset.hdr p).faultCnt = 0 ∧ (State.reset.hdr p).epoch = 0) ∧
    (∀ c : Fin 9, (State.reset.chan c).role = .off ∧ (State.reset.chan c).mem = [] ∧ (State.reset.chan c).stakes = []) ∧
    State.reset.supv.planeMap = 0x76543210 ∧ State.reset.supv.onSpare = 0 ∧ State.reset.supv.switching = 0 ∧
    (∀ a : Nat, State.reset.regAt a = regDefault a) ∧
    State.reset.reg (gpage .hmac) 0x10C = 0x136 ∧ State.reset.reg (gpage .icp) 0x114 = 0x14 ∧
    (∀ c : Fin 9, State.reset.reg (cpage c .merid) 0x104 = 0xEAAA1BAF ∧ State.reset.reg (cpage c .bearing) 0x100 = 0x0A000000)

/-- For each of the 223 commands of the table, with any operands and from any state, exec answers a next state and leaves the queue of waiting commands as it was: no command faults, none is refused, and no data ends a run. What each next state holds is said by the statements about the command families. -/
def Obligations.EveryCommandCompletes : Prop :=
  ∀ (i : Instr) (s : State), ∃ t, exec i s = .next t ∧ t.pending = s.pending

/-- For each of the 29 commands that read one counter or capture register of the host port (STALE, DUP, BUSY0, BUSY1, SRC_CHANGE, FEC_CORR, FEC_UNCORR, FCS_ERR, OVERSIZE, FILTER, PFC_RX, PFC_TX), of the hub (RESET_XFER) or of a channel (RAMP, LOCK_LONG, SAT, INVALID, OVF, CLOSURE_EXCESS, BUSY, DESC_ERR, INDEX_RANGE, STRUCT_VIOL, PLAN_LATE, EXTRA_ROUND, ECC_CORR, ECC_UNCORR, STACK_TEMP, REPLAY): counterOf gives its page, offset and the bits that R7 calls rc. While the register answers, the command completes: it answers OK with the stored value and clears exactly those bits; nothing else of the machine changes. LOCK_LONG, DESC_ERR and STACK_TEMP keep the bits of their ro fields. So exec answers a next state for each of staleCntRead, dupCntRead, busyCnt0Read, busyCnt1Read, srcChangeCntRead, fecCorrCntRead, fecUncorrCntRead, fcsErrCntRead, oversizeCntRead, filterCntRead, pfcRxCntRead, pfcTxCntRead, resetXferCntRead, rampCntRead, lockLongCntRead, satCntRead, invalidCntRead, ovfCntRead, closureExcessCntRead, busyCntRead, descErrCntRead, indexRangeCntRead, structViolCntRead, planLateCntRead, extraRoundCntRead, eccCorrCntRead, eccUncorrCntRead, stackTempRead and replayCntRead. -/
def Obligations.CounterReadsClear : Prop :=
  ∀ (i : Instr) (p : Page) (off : Nat) (rc : W32) (s : State), counterOf i = some (p, off, rc) → s.answers p →
    exec i s = .next ((s.setReg p off (s.reg p off &&& ~~~rc)).answered rsOk (s.reg p off))

/-- On every page of the catalogue that can be reached, RETRY_CNT_READ and FAULT_CNT_READ answer OK with the header's counter and set that counter to zero (R84, access rc); no other header and nothing else changes. The block's fence and a stopped domain do not matter (R92). -/
def Obligations.HeaderCountersClear : Prop :=
  ∀ (p : Page) (s : State), s.headerUp p →
    exec (.retryCntRead p) s = .next ((s.modHdr p fun h => { h with retryCnt := 0 }).answered rsOk (s.hdr p).retryCnt) ∧
    exec (.faultCntRead p) s = .next ((s.modHdr p fun h => { h with faultCnt := 0 }).answered rsOk (s.hdr p).faultCnt)

/-- OUTSTANDING_READ, while the register answers, completes: it answers OK with the tracker's occupancy and its peak, and clears the peak; nothing else changes (R332, R336). A decision of the Meridian, no lock being in force, picks nobody only if no port requests, and otherwise a port that requests, of a rank that no requesting port exceeds, and before which, in round-robin order from the port of that rank granted last, no port of that rank requests (R325). Under a lock it picks the owner or nobody (R329). A grant hands the port's oldest transaction over, remembers the port as owner and as the last of its rank, and takes the lock if the transaction carries one. -/
def Obligations.MeridianDecides : Prop :=
  (∀ (c : Fin 9) (s : State), s.answers (cpage c .merid) →
      exec (.outstandingRead c) s = .next ((s.modMerid c fun m => { m with peak := 0 }).answered rsOk
        (w32 ((s.chan c).merid.occupancy + (s.chan c).merid.peak * 2 ^ 16)))) ∧
    (∀ (rank : W32) (m : MeridS),
      (m.lock = none →
        (decision rank m = none ↔ ∀ p, m.raised p = false) ∧
        (∀ p, decision rank m = some p → m.raised p = true ∧ (∀ q, m.raised q = true → rankOf rank q ≤ rankOf rank p) ∧
          ∀ q, m.raised q = true → rankOf rank q = rankOf rank p →
            (p.val + 15 - (m.rr[(rankOf rank p).val]).val) % 16 ≤ (q.val + 15 - (m.rr[(rankOf rank p).val]).val) % 16)) ∧
      (∀ o, m.lock = some o → decision rank m = if m.raised o then some o else none) ∧
      (∀ (p : Fin 16) (r : MRun) (l : List MRun), m.queue[p.val] = r :: l →
        let g := grantPort rank p m
        g.2 = some ⟨p, { r with count := 1 }, 0⟩ ∧ g.1.owner = p ∧ g.1.rr[(rankOf rank p).val] = p ∧
          g.1.queue[p.val] = (if r.count ≤ 1 then l else { r with count := r.count - 1 } :: l) ∧
          g.1.lock = (if r.lock then some p else m.lock) ∧ ∀ q : Fin 16, q ≠ p → g.1.queue[q.val] = m.queue[q.val]))

/-- RECORD_STAT_READ returns the records in force, the rejected count and the revocations, and clears REJECTED; ATTEST_STAT_READ returns identity state and the report count, and clears REPORTS (R474). LINK_STAT_READ returns the stored fields with the link's state and SWITCHING, and clears its rc counts (R365). INPUT_MV_READ and INPUT_MA_READ, over either path, return the reading with the minimum or peak, which starts again at 0xFFFF or 0 (R456). TRIP_SEEN as a read returns PWR.STATE and releases ALERT_N when a trip had been seen (R451, R456). Nothing else changes but the answer and, in Standby, the SX core that runs for a sideband access (R450). -/
def Obligations.StatusReads : Prop :=
  ∀ s : State,
    (s.answers (gpage .sec) →
      exec .recordStatRead s = .next ((s.modSec fun x => { x with rejected := 0 }).answered rsOk
        (w32 (s.sec.inForce.length + s.sec.rejected * 2 ^ 8 + s.sec.revoked.toNat * 2 ^ 16))) ∧
      exec .attestStatRead s = .next ((s.modSec fun x => { x with reports := 0 }).answered rsOk
        (w32 (boolBit s.sec.identOk 0 + boolBit s.icp.attestReq.isSome 1 + boolBit s.sec.keySx 2 + s.sec.reports * 2 ^ 16)))) ∧
    (∀ (c : Fin 9) (p : Fin 6), s.answers (travPage c p) →
      exec (.linkStatRead c p) s = .next ((s.setReg (travPage c p) 0x100 (s.reg (travPage c p) 0x100 &&& 0xFFFF)).answered rsOk
        (w32 ((s.reg (travPage c p) 0x100).toNat + (s.port c p).state.code + boolBit (!(s.port c p).switching.isEmpty) 4)))) ∧
    (∀ path : Path, pathUp path s = true →
      exec (.inputMvRead path) s = .next (((coreForAccess path s).modPwr fun x => { x with inputMin := 0xFFFF }).answered rsOk
        (w32 (s.pwr.inputMv.toNat + s.pwr.inputMin.toNat * 2 ^ 16))) ∧
      exec (.inputMaRead path) s = .next (((coreForAccess path s).modPwr fun x => { x with inputPeak := 0 }).answered rsOk
        (w32 (s.pwr.inputMa.toNat + s.pwr.inputPeak.toNat * 2 ^ 16))) ∧
      exec (.tripSeen path false) s = .next
        (((coreForAccess path s).modPwr fun x => { x with alert := x.alert && !x.tripSeen }).answered rsOk (w32 (pwrState (coreForAccess path s)))))

/-- A register write or read (REGISTER_WRITE, LO_READ as the plain one-register read) answers ADDR where no page of the catalogue has the address (R82); FENCED where the channel is OFF, or FAILED with an MX that does not answer (R92, R490); OK, with zero for a read, at an offset from 0x100 on that the page does not assign (R83); FENCED for a block-specific register whose clock domain is stopped (R92) and, for a write, whose block is fenced (R61). In each case nothing else of the machine changes. An offset that is not a multiple of 4 is refused with ALIGN before any page sees it. A sideband access outside the sideband's reach answers ADDR (R485). -/
def Obligations.AccessRefusals : Prop :=
  ∀ (a v : W32) (s : State),
    (pathUp .icp s = true → a.toNat % 4 ≠ 0 →
      exec (.loRead .icp a) s = .next (s.answered rsAlign 0) ∧ exec (.registerWrite a v) s = .next (s.answered rsAlign 0)) ∧
    (pathUp .icp s = true → a.toNat % 4 = 0 → pageOf a = none →
      exec (.loRead .icp a) s = .next (s.answered rsAddr 0) ∧ exec (.registerWrite a v) s = .next (s.answered rsAddr 0)) ∧
    (∀ p, pathUp .icp s = true → a.toNat % 4 = 0 → pageOf a = some p → unreachable s p = true →
      exec (.loRead .icp a) s = .next (s.answered rsFenced 0) ∧ exec (.registerWrite a v) s = .next (s.answered rsFenced 0)) ∧
    (∀ p, pathUp .icp s = true → a.toNat % 4 = 0 → pageOf a = some p → unreachable s p = false → 0x100 ≤ a.toNat % 4096 →
      (assigned p.blk (a.toNat % 4096) = false →
        exec (.loRead .icp a) s = .next (s.answered rsOk 0) ∧ exec (.registerWrite a v) s = .next (s.answered rsOk 0)) ∧
      (assigned p.blk (a.toNat % 4096) = true → s.domOn p = false →
        exec (.loRead .icp a) s = .next (s.answered rsFenced 0) ∧ exec (.registerWrite a v) s = .next (s.answered rsFenced 0)) ∧
      (assigned p.blk (a.toNat % 4096) = true → s.fenced p = true → exec (.registerWrite a v) s = .next (s.answered rsFenced 0))) ∧
    (∀ p, pageOf a = some p → pathUp .sideband s = true →
      (sbReads p (a.toNat % 4096) = false → exec (.loRead .sideband a) s = .next ((coreForAccess .sideband s).answered rsAddr 0)) ∧
      (sbWrites p (a.toNat % 4096) = false →
        exec (.loWrite .sideband a v) s = .next ((coreForAccess .sideband s).answered rsAddr 0)))

/-- For every pair of the catalogue and each path that reaches it: LO_READ answers OK with bits [31:0] of the pair's value and latches bits [63:32] of the same instant for that path; HI_READ with a latch held answers that half and releases the latch, and with none held answers the live bits [63:32] (R94). The latches of other pairs and of the other path, the pair itself and everything else are unchanged, but for the SX core that runs for a sideband access in Standby. -/
def Obligations.PairReads : Prop :=
  ∀ (path : Path) (p : Page) (lo : Nat) (s : State), pairHalf p.blk lo = some false → s.answersOn path p lo →
    exec (.loRead path (regAddr p lo)) s = .next (
      let r := pairNow p lo (coreForAccess path s)
      { r.2 with loLatch := spSet noLatch r.2.loLatch (latchKey path p lo) (some r.1.2) }.answered rsOk r.1.1) ∧
    (s.answersOn path p (lo + 4) →
      (∀ v, spGet noLatch s.loLatch (latchKey path p lo) = some v →
        exec (.hiRead path (regAddr p (lo + 4))) s = .next (
          { coreForAccess path s with loLatch := spSet noLatch s.loLatch (latchKey path p lo) none }.answered rsOk v)) ∧
      (spGet noLatch s.loLatch (latchKey path p lo) = none →
        exec (.hiRead path (regAddr p (lo + 4))) s = .next (
          let r := pairNow p lo (coreForAccess path s)
          r.2.answered rsOk r.1.2)))

/-- On UPDATE.SEED and UPDATE.STEP, the pairs that software writes: while the register takes writes, LO_WRITE changes only the held half of its path; HI_WRITE with a half held writes it and the new high half together and holds nothing any more; HI_WRITE with none held writes the high half over the current low half (R94). A write to a half of a pair that is ro is ignored (R7). Everything else is unchanged. -/
def Obligations.PairWrites : Prop :=
  ∀ (p : Page) (lo : Nat) (v : W32) (s : State), pairHalf p.blk lo = some false → s.takes p →
    (p.blk = .update →
      exec (.loWrite .icp (regAddr p lo) v) s = .next (
        { s with loHeld := spSet noLatch s.loHeld (latchKey .icp p lo) (some v) }.answered rsOk 0) ∧
      (∀ l, spGet noLatch s.loHeld (latchKey .icp p lo) = some l →
        exec (.hiWrite .icp (regAddr p (lo + 4)) v) s = .next (
          { (s.setReg p lo l).setReg p (lo + 4) v with loHeld := spSet noLatch s.loHeld (latchKey .icp p lo) none }.answered rsOk 0)) ∧
      (spGet noLatch s.loHeld (latchKey .icp p lo) = none →
        exec (.hiWrite .icp (regAddr p (lo + 4)) v) s = .next (
          { s.setReg p (lo + 4) v with loHeld := spSet noLatch s.loHeld (latchKey .icp p lo) none }.answered rsOk 0))) ∧
    (p.blk ≠ .update →
      exec (.loWrite .icp (regAddr p lo) v) s = .next (s.answered rsOk 0) ∧
      exec (.hiWrite .icp (regAddr p (lo + 4)) v) s = .next (s.answered rsOk 0))

/-- While the register answers, STAKE_VAL reads the stake that STAKE_SEL names, ALLOC_DATA the committed word of the allocation table, TABLE_DATA the bearing entry, CBENCH_READ_DATA the benchmark word, FBOOK_READ_DATA and CAIRN_READ_DATA (over either path) the recorder word that the path's own index names; the index then advances by one, wrapping at the structure's end (R97: 1,024 stakes, 16,384 allocation words, 320 bearing entries, 192 benchmark words; the sizes of the field book and of a cairn source are R440 and R437). An index past 319 of the bearing table or 191 of the benchmarks reads a free value (log 2). -/
def Obligations.IndirectReads : Prop :=
  ∀ (c : Fin 9) (s : State),
    (s.answers (cpage c .seq) →
      let i := (s.reg (cpage c .seq) 0x10C).toNat
      exec (.stakeVal c none) s = .next ((s.setReg (cpage c .seq) 0x10C (w32 (if i + 1 = 1024 then 0 else (i + 1) % 1024))).answered rsOk (s.stake c i))) ∧
    (s.answers (cpage c .layout) →
      let i := (s.reg (cpage c .layout) 0x100).toNat
      exec (.allocData c none) s = .next ((s.setReg (cpage c .layout) 0x100 (w32 (if i + 1 = 16384 then 0 else (i + 1) % 16384))).answered rsOk
        (w32 (allocWord (s.chan c) i)))) ∧
    (s.answers (cpage c .bearing) →
      let i := (s.reg (cpage c .bearing) 0x104).toNat
      let t := fun (u : State) => u.setReg (cpage c .bearing) 0x104 (w32 (if i + 1 = 320 then 0 else (i + 1) % 512))
      exec (.tableData c none) s = .next (if i < 320 then (t s).answered rsOk (w32 (bearingEntry s c i))
        else (t { s with draws := s.draws + 1 }).answered rsOk (Config.free s.draws))) ∧
    (s.answers (cpage c .cbench) →
      let i := (s.reg (cpage c .cbench) 0x100).toNat
      let t := fun (u : State) => u.setReg (cpage c .cbench) 0x100 (w32 (if i + 1 = 192 then 0 else (i + 1) % 256))
      exec (.cbenchReadData c) s = .next (if i < 192 then (t s).answered rsOk (w32 (benchWord (s.chan c).bench i))
        else (t { s with draws := s.draws + 1 }).answered rsOk (Config.free s.draws))) ∧
    (∀ path : Path, pathUp path s = true →
      exec (.fbookReadData path) s = .next ((advance path (gpage .fbook) (coreForAccess path s)).answered rsOk
        (bookWord s.book (s.idx path (gpage .fbook) 0x10C).toNat)) ∧
      exec (.cairnReadData path) s = .next ((advance path (gpage .cairn) (coreForAccess path s)).answered rsOk
        (let sel := (s.idx path (gpage .cairn) 0x104).toNat
         cairnWord s (sel / 65536) (sel % 65536))))

/-- While the register takes writes, STAKE_VAL sets the stake that STAKE_SEL names; ALLOC_DATA holds or commits one word of the allocation entry (R207, the shared operation allocWrite); TABLE_DATA sets one entry of the bearing table, unless its port is 6, its fibre 3 or a reserved bit is set, which sets CFG_REFUSED and leaves the table as it is (R342, R488). The index then advances by one (R97), whether or not the value was taken. -/
def Obligations.IndirectWrites : Prop :=
  ∀ (c : Fin 9) (v : W32) (s : State),
    (s.takes (cpage c .seq) →
      let i := (s.reg (cpage c .seq) 0x10C).toNat
      exec (.stakeVal c (some v)) s = .next (((s.setStake c i v).setReg (cpage c .seq) 0x10C (w32 (if i + 1 = 1024 then 0 else (i + 1) % 1024))).answered rsOk 0)) ∧
    (s.takes (cpage c .layout) →
      let i := (s.reg (cpage c .layout) 0x100).toNat
      exec (.allocData c (some v)) s = .next ((advance .icp (cpage c .layout) (allocWrite c (i / 4) (i % 4) v s)).answered rsOk 0)) ∧
    (s.takes (cpage c .bearing) →
      let i := (s.reg (cpage c .bearing) 0x104).toNat
      let e := v.toNat % 256
      i < 320 →
      ((bitsOf e 2 0 = 6 ∨ bitsOf e 4 3 = 3 ∨ bitsOf e 7 5 ≠ 0) →
        exec (.tableData c (some v)) s = .next ((advance .icp (cpage c .bearing) (cause (cpage c .bearing) 0 s)).answered rsOk 0)) ∧
      ((bitsOf e 2 0 ≠ 6 ∧ bitsOf e 4 3 ≠ 3 ∧ bitsOf e 7 5 = 0) → ∃ t : State,
        exec (.tableData c (some v)) s = .next ((t.setReg (cpage c .bearing) 0x104 (w32 (if i + 1 = 320 then 0 else (i + 1) % 512))).answered rsOk 0) ∧
          t = s.modChan c fun ch => { ch with bearing := spSet (fun _ => (7 : W32)) ch.bearing i (w32 e) }))

/-- On every page that can be reached, ENABLE and FENCE write BLK_CTRL with the named bit as given and the other bit as it stands, DRAIN writes DRAIN and RESET writes RESET (R84, R404, R405); the access answers OK whatever the block's fence and domain (R61, R92). What the write does to the header is the statement BlkCtrlHeader. -/
def Obligations.HeaderControlCommands : Prop :=
  ∀ (p : Page) (on : Bool) (s : State), s.headerUp p →
    exec (.enable p on) s = .next ((blkCtrlWrite .icp p (w32 (boolBit on 0 + boolBit (s.hdr p).fence 1)) s).answered rsOk 0) ∧
    exec (.fence p on) s = .next ((blkCtrlWrite .icp p (w32 (boolBit (s.hdr p).enable 0 + boolBit on 1)) s).answered rsOk 0) ∧
    exec (.drain p) s = .next ((blkCtrlWrite .icp p 4 s).answered rsOk 0) ∧
    exec (.reset p) s = .next ((blkCtrlWrite .icp p 8 s).answered rsOk 0)

/-- For every page and every state with canonical tables. While a reset runs, or where a write would clear FENCE or set ENABLE on a faulted block or a block of a FENCED or FAILED channel (R85, R490), only CFG_REFUSED is raised. Otherwise RESET on a global page disables and fences it, sets RESETTING and advances EPOCH by one (R405; a reset of HUB with no loan left to recall, which would raise its cause); DRAIN fences the block and starts a drain (R404); a plain write sets ENABLE and FENCE as written, a cleared FENCE ending a drain; an array without a valid repair record stays fenced (R181). The last clause leaves out a traverse port, whose link also goes down, a page with an armed injection, which may fire when the block is released (R90), and a sequencer whose streams hold descriptors, which may complete once it is enabled. -/
def Obligations.BlkCtrlHeader : Prop :=
  ∀ (p : Page) (v : W32) (src : Nat) (s : State), s.Inv → let h := s.hdr p
    (h.resetting = true → ctrlWrite p v src s = cause p 0 s) ∧
    (h.resetting = false →
      (v.getLsbD 3 = false → v.getLsbD 2 = false → (h.faulted || (p.blk.isChan && s.chanFenced p.chan)) = true →
        (v.getLsbD 1 = false ∨ v.getLsbD 0 = true) → ctrlWrite p v src s = cause p 0 s) ∧
      (v.getLsbD 3 = true → p.blk.isGlobal = true → (p.blk = .hub → ∀ l ∈ s.hub.loans, l.2.recalled = true) →
        (ctrlWrite p v src s).hdr p =
          { h with enable := false, fence := true, resetting := true, draining := false, drained := false, epoch := h.epoch + 1 }) ∧
      (v.getLsbD 3 = false → v.getLsbD 2 = true →
        (ctrlWrite p v src s).hdr p = { h with fence := true, draining := true, drained := false }) ∧
      (v.getLsbD 3 = false → v.getLsbD 2 = false → (h.faulted || (p.blk.isChan && s.chanFenced p.chan)) = false → p.blk ≠ .trav →
        h.errInject.getLsbD 31 = false →
        (p.blk = .seq → ∀ st : Fin 4, ((s.chan p.chan).stream st).queue = [] ∧ ((s.chan p.chan).stream st).fetch = none) →
        let fe := v.getLsbD 1 || heldFenced s p
        (ctrlWrite p v src s).hdr p =
          { h with enable := v.getLsbD 0, fence := fe, draining := h.draining && fe, drained := h.drained && fe }))

/-- DRAINED, on a draining block with no accepted request outstanding, sets DRAINED and ends the drain; nothing else changes (R404). RESET_DONE, on a resetting block, clears RESETTING, FAULTED and the armed injection, sets DRAINED, leaves the block fenced and disabled (R405), and returns the page's stored registers to their reset values (R87): stated for the blocks whose chapters keep nothing and apply no repair record. -/
def Obligations.DrainAndResetEnd : Prop :=
  ∀ (p : Page) (s : State),
    ((s.hdr p).draining = true → quiet s p = true →
      exec (.drained p) s = .next (s.modHdr p fun h => { h with draining := false, drained := true })) ∧
    (s.Inv → p.ok = true → (s.hdr p).resetting = true → ∃ t, exec (.resetDone p) s = .next t ∧
      t.hdr p = { s.hdr p with resetting := false, drained := true, faulted := false, errInject := 0, fence := true, enable := false } ∧
      (p.blk ≠ .icp → p.blk ≠ .dense → p.blk ≠ .cache → p.blk ≠ .hbm → p.blk ≠ .trav →
        ∀ off, off < 4096 → t.reg p off = regDefault (p.base + off)))

/-- ERR_STAT_CLEAR clears the causes written 1 and, with the last of them, ERR_FIRST.VALID; nothing else changes (R89, w1c). ERR_INJECT stores CAUSE and MODE; a MODE other than none arms the injection. A cause with a retry path and a mode other than 0b11 waits for its operation, as does every injection of a fenced block; otherwise the injection fires at once: INJECTED stands in ERR_STAT and with it the cause, if the block defines it (that one of a number the block leaves reserved sets INJECTED alone is the model's choice, log 27), ARMED is clear and MODE is none (R90). -/
def Obligations.ErrorRegisterWrites : Prop :=
  ∀ (p : Page) (v : W32) (s : State), s.headerUp p →
    exec (.errStatClear p v) s = .next ((s.modHdr p fun h =>
      { h with errStat := h.errStat &&& ~~~v,
               errFirst := if h.errStat &&& ~~~v = 0 then h.errFirst &&& ~~~(0x100 : W32) else h.errFirst }).answered rsOk 0) ∧
    (s.Inv → bitsOf v.toNat 9 8 = 0 →
      exec (.errInject p v) s = .next ((s.modHdr p fun h => { h with errInject := v &&& 0x31F }).answered rsOk 0)) ∧
    (s.Inv → bitsOf v.toNat 9 8 ≠ 0 →
      (s.fenced p = true ∨ (bitsOf v.toNat 9 8 ≠ 3 ∧ retryCause p (bitsOf v.toNat 4 0) = true) →
        exec (.errInject p v) s = .next ((s.modHdr p fun h => { h with errInject := (v &&& 0x31F) ||| 0x80000000 }).answered rsOk 0)) ∧
      (s.fenced p = false → (bitsOf v.toNat 9 8 = 3 ∨ retryCause p (bitsOf v.toNat 4 0) = false) → ∃ t,
        exec (.errInject p v) s = .next t ∧ (t.hdr p).errStat.getLsbD 3 = true ∧
          (causeDefined p (bitsOf v.toNat 4 0) = true → (t.hdr p).errStat.getLsbD (bitsOf v.toNat 4 0) = true) ∧
          (t.hdr p).errInject = v &&& 0x1F))

/-- On the pages whose block-specific registers only store (DENSE, GATHER, CACHE, MERID, HBM, UPDATE, CBENCH), for every single register and every value: while the register takes writes, exactly the rw bits take the value written, the w1c bits written 1 clear, and ro, wo and rc bits ignore the write (R7; which bits are which is the table regMasks). FIRST_INVALID_REARM, INDEX_RANGE_REARM and STRUCT_VIOL_REARM so clear the VALID bit of NUMW.FIRST_INVALID, GATHER.INDEX_RANGE_FIRST and GATHER.STRUCT_VIOL_FIRST and keep the captured fields (R166, R245). Nothing else changes. -/
def Obligations.StoredRegisterWrites : Prop :=
  (∀ (p : Page) (off : Nat) (v w w1c rc rst : W32) (s : State), s.takes p → off < 4096 → off % 4 = 0 → assigned p.blk off = true →
      (p.blk = .dense ∨ p.blk = .gather ∨ p.blk = .cache ∨ p.blk = .merid ∨ p.blk = .hbm ∨ p.blk = .update ∨ p.blk = .cbench) →
      pairHalf p.blk off = none → indirect p.blk off = false → regMasks p.blk off = some (w, w1c, rc, rst) →
      exec (.registerWrite (regAddr p off) v) s =
        .next ((s.setReg p off (((s.reg p off &&& ~~~w) ||| (v &&& w)) &&& ~~~(v &&& w1c))).answered rsOk 0)) ∧
    (∀ (c : Fin 9) (s : State), s.takes (cpage c .numw) →
      exec (.firstInvalidRearm c) s =
        .next ((s.setReg (cpage c .numw) 0x114 (s.reg (cpage c .numw) 0x114 &&& 0x7FFFFFFF)).answered rsOk 0)) ∧
    (∀ (c : Fin 9) (s : State), s.takes (cpage c .gather) →
      exec (.indexRangeRearm c) s =
        .next ((s.setReg (cpage c .gather) 0x104 (s.reg (cpage c .gather) 0x104 &&& 0x7FFFFFFF)).answered rsOk 0) ∧
      exec (.structViolRearm c) s =
        .next ((s.setReg (cpage c .gather) 0x10C (s.reg (cpage c .gather) 0x10C &&& 0x7FFFFFFF)).answered rsOk 0))

/-- A write of ICP.RETX_TIMEOUT outside 2 to 1,000 or of ICP.COAL_TIME above 1,000, while the page takes writes, leaves both registers, and every other stored register, as they are and sets ERR_STAT.CFG_REFUSED in ICP's header; the access itself answers OK. -/
def Obligations.IcpRangeRefused : Prop :=
  ∀ (v : W32) (s : State), s.Inv → s.takes (gpage .icp) → ∀ off : Nat,
    (off = 0x114 ∧ (v.toNat < 2 ∨ 1000 < v.toNat)) ∨ (off = 0x118 ∧ 1000 < v.toNat) → ∃ t,
    exec (.registerWrite (regAddr (gpage .icp) off) v) s = .next t ∧ t.regOut = some (rsOk, 0) ∧ t.regs = s.regs ∧
      (t.hdr (gpage .icp)).errStat = (s.hdr (gpage .icp)).errStat ||| 1

/-- On a powered channel that is not fenced: HBM_UNCORRECTABLE adds one to ECC_UNCORR_CNT, holding at its largest value (R313). HBM_REREAD that succeeds, with no injection armed on the instance, is a transient event of the instance and no more (R313). HBM_WRITE_CRC that succeeds the second time raises WRITE_CRC and is a transient (R314). CACHE_ECC_ERROR, with no injection armed on the block, is a transient on a clean line that counts the disabled way and raises its cause, and on a dirty line that re-reads it a transient (R321). LOCK_LONG of the owner of the lock in force records it, counts once per lock and raises its cause; of anybody else, or a second time, it changes nothing (R330). ARB_MODE_CHANGE brings the written mode into force while no transfer is in progress and no lock is held, and changes nothing otherwise (R328). -/
def Obligations.HbmAndCacheEvents : Prop :=
  ∀ (c : Fin 9) (st : Fin 2) (s : State), memLive s c = true →
    exec (.hbmUncorrectable c st) s = .next (s.bump (hbmPage c st) 0x104 1) ∧
    (∀ addr answers user, armed s (hbmPage c st) = none →
      exec (.hbmReread c st addr true answers user) s = .next (transientEvent (hbmPage c st) false s) ∧
      exec (.hbmWriteCrc c st true answers user) s = .next (transientEvent (hbmPage c st) false (causeAt (hbmPage c st) 17 false noDetail s))) ∧
    (armed s (cpage c .cache) = none →
      (∀ ok user, exec (.cacheEccError c false ok user) s =
        .next (cause (cpage c .cache) 16 ((transientEvent (cpage c .cache) false s).bumpField (cpage c .cache) 0x110 15 8 1))) ∧
      (∀ user, exec (.cacheEccError c true true user) s = .next (transientEvent (cpage c .cache) false s))) ∧
    (∀ owner : Fin 16, let m := (s.chan c).merid
      (m.lock = some owner → m.lockLong = false →
        exec (.lockLong c owner) s = .next (cause (cpage c .merid) 16
          (((s.modMerid c fun m => { m with lockLong := true }).bumpField (cpage c .merid) 0x108 15 0 1).setField
            (cpage c .merid) 0x108 19 16 owner.val))) ∧
      (m.lock ≠ some owner ∨ m.lockLong = true → exec (.lockLong c owner) s = .next s)) ∧
    ((s.chan c).merid.idle = true →
      exec (.arbModeChange c) s = .next (s.setField (cpage c .merid) 0x100 1 1 (s.field (cpage c .merid) 0x100 0 0))) ∧
    ((s.chan c).merid.idle = false → exec (.arbModeChange c) s = .next s)

/-- In every state with canonical tables, a transient event of a page adds one to the page's RETRY_CNT, holding at 0xFFFFFFFF, sets TRANSIENT, bit 1 of ERR_STAT, and leaves ENABLE, FENCE, FAULTED, FAULT_CNT and EPOCH as they are (R88, R414); no other page's header, no stored register, no channel state and no memory changes. -/
def Obligations.TransientEventCounts : Prop :=
  ∀ (p : Page) (inj : Bool) (s : State), s.Inv → let t := transientEvent p inj s
    (t.hdr p).retryCnt = w32 (min 0xFFFFFFFF ((s.hdr p).retryCnt.toNat + 1)) ∧ (t.hdr p).errStat = (s.hdr p).errStat ||| 2 ∧
      (t.hdr p).enable = (s.hdr p).enable ∧ (t.hdr p).fence = (s.hdr p).fence ∧ (t.hdr p).faulted = (s.hdr p).faulted ∧
      (t.hdr p).faultCnt = (s.hdr p).faultCnt ∧ (t.hdr p).epoch = (s.hdr p).epoch ∧
      (∀ q : Page, q.key ≠ p.key → t.hdr q = s.hdr q) ∧ t.regs = s.regs ∧ t.chans = s.chans ∧ t.supv = s.supv ∧ t.pwr = s.pwr

/-- HBM_REREAD and HBM_WRITE_CRC that fail again, and CACHE_ECC_ERROR on a dirty line that fails again, answer a next state in which the channel reads FENCED, or FAILED where the stack no longer answers (R313 to R315, R321), from every state in which the channel was powered and not fenced. -/
def Obligations.LastingMemoryFaults : Prop :=
  ∀ (c : Fin 9) (st : Fin 2) (addr : BitVec 40) (answers : Bool) (user : MemUser) (s : State), memLive s c = true →
    (∃ t, exec (.hbmReread c st addr false answers user) s = .next t ∧ (t.chan c).role = (if answers then .fenced else .failed)) ∧
    (∃ t, exec (.hbmWriteCrc c st false answers user) s = .next t ∧ (t.chan c).role = (if answers then .fenced else .failed)) ∧
    (∃ t, exec (.cacheEccError c true false user) s = .next t ∧ (t.chan c).role = .fenced)

/-- On a powered channel with canonical tables, STACK_TEMP_CHANGE puts the reading in STACK_TEMP.TEMP, keeps the larger of PEAK and the reading in PEAK, sets HOT exactly from 85 degrees and THROTTLE from 95, held down to 90 (R316). MX_UNRESPONSIVE makes the channel FAILED, with nothing running, queued or held in its streams and links, and its MX unanswering (R30, R120, R409). -/
def Obligations.StackTemperature : Prop :=
  ∀ (c : Fin 9) (s : State), s.powered c = true → s.Inv →
    (∀ (st : Fin 2) (temp : Byte), ∃ t, exec (.stackTempChange c st temp) s = .next t ∧
      t.field (hbmPage c st) 0x10C 7 0 = temp.toNat ∧
      t.field (hbmPage c st) 0x10C 15 8 = max temp.toNat (s.field (hbmPage c st) 0x10C 15 8) ∧
      t.field (hbmPage c st) 0x10C 16 16 = (if 85 ≤ temp.toNat then 1 else 0) ∧
      t.field (hbmPage c st) 0x10C 17 17 =
        (if 95 ≤ temp.toNat ∨ (s.field (hbmPage c st) 0x10C 17 17 = 1 ∧ 90 ≤ temp.toNat) then 1 else 0)) ∧
    (∃ t, exec (.mxUnresponsive c) s = .next t ∧ (t.chan c).role = .failed ∧ (t.chan c).answers = false ∧ (t.chan c).fly = [])

/-- On every page that can be reached, at every offset that is a multiple of 4 and that neither the common header (0x000 to 0x02C) nor the page's block-specific registers assign, a read answers OK with zero, a write answers OK, and nothing else of the machine changes. -/
def Obligations.UnassignedOffsets : Prop :=
  ∀ (p : Page) (off : Nat) (v : W32) (s : State), s.headerUp p → off < 4096 → off % 4 = 0 → 0x30 ≤ off → assigned p.blk off = false →
    exec (.loRead .icp (regAddr p off)) s = .next (s.answered rsOk 0) ∧
    exec (.registerWrite (regAddr p off) v) s = .next (s.answered rsOk 0)

/-- A write of HMAC.PFC_MAP with CLASS0_PRI, bits [2:0], equal to CLASS1_PRI, bits [6:4], while the page takes writes, leaves the register as it was and sets CFG_REFUSED in HMAC's ERR_STAT. -/
def Obligations.EqualPfcPrioritiesRefused : Prop :=
  ∀ (v : W32) (s : State), s.Inv → s.takes (gpage .hmac) → bitsOf v.toNat 2 0 = bitsOf v.toNat 6 4 → ∃ t,
    exec (.registerWrite (regAddr (gpage .hmac) 0x10C) v) s = .next t ∧ t.reg (gpage .hmac) 0x10C = s.reg (gpage .hmac) 0x10C ∧
      (t.hdr (gpage .hmac)).errStat.getLsbD 0 = true

/-- While SUPV takes writes: a value with a field other than k or 8, with two fields of 8, with a field that differs from its selector's position, or written while any selector switches, leaves the map as it is and sets MAP_REFUSED, bit 16 of SUPV's ERR_STAT; any other value becomes the map (R22, R23). In both cases the access answers OK. -/
def Obligations.PlaneMapWrites : Prop :=
  ∀ (v : W32) (s : State), s.Inv → s.takes (gpage .supv) →
    let f := fun (k : Fin 8) => bitsOf v.toNat (4 * k.val + 3) (4 * k.val)
    let refused := (∃ k : Fin 8, f k ≠ k.val ∧ f k ≠ 8) ∨ (∃ j k : Fin 8, j ≠ k ∧ f j = 8 ∧ f k = 8) ∨
      (∃ k : Fin 8, (f k = 8) ≠ (s.supv.onSpare.getLsbD k.val = true)) ∨ s.supv.switching ≠ 0
    (refused → ∃ t, exec (.planeMapWrite v) s = .next t ∧ t.regOut = some (rsOk, 0) ∧ t.supv.planeMap = s.supv.planeMap ∧
      (t.hdr (gpage .supv)).errStat.getLsbD 16 = true) ∧
    (¬refused → ∃ t, exec (.planeMapWrite v) s = .next t ∧ t.regOut = some (rsOk, 0) ∧ t.supv.planeMap = v)

/-- While SUPV takes writes: FEED_TAG_WRITE puts TAG and VALID in SUPV.FEED_TAG (R379); RECOVER of channels that no plane is mapped to and that read FENCED or FAILED, with no selector switching, no claim and no recovery of them in progress, powers them down and marks them RECOVERING, and of any other channel sets CFG_REFUSED alone (R390); SWAP with STANDBY_OK makes the other SX active (R466) and without it sets CFG_REFUSED alone (R475). RECOVERY_DONE of a recovering channel, its four images loadable from their preferred slots, ends the recovery with the channel SPARE, or FAILED where a block did not come up or a rail is gone (R390, R464). SELECTOR_SWITCH_DONE of a switching selector ends the claim with the plane connected to the channel that claimed it (R389, R24). -/
def Obligations.SupervisorCommands : Prop :=
  ∀ s : State, 
    (s.takes (gpage .supv) →
      (∀ v : W32, ∃ t, exec (.feedTagWrite v) s = .next t ∧ t.supv.feedTag = v &&& 0x8000FFFF ∧ t.supv.planeMap = s.supv.planeMap) ∧
      (∀ mask : BitVec 9, mask ≠ 0 →
        (recoverOk mask.toNat s = true → ∃ t, exec (.recover mask) s = .next t ∧
          t.supv.recovering = s.supv.recovering ||| mask) ∧
        (recoverOk mask.toNat s = false → exec (.recover mask) s = .next ((cause (gpage .supv) 0 s).answered rsOk 0))) ∧
      (s.sec.standbyOk = true → ∃ t, exec .swap s = .next t ∧ t.sec.sxActive = !s.sec.sxActive) ∧
      (s.sec.standbyOk = false → exec .swap s = .next ((cause (gpage .supv) 0 s).answered rsOk 0))) ∧
    (∀ (c : Fin 9) (ok : Bool), s.supv.recovering.getLsbD c.val = true →
      (∀ i ∈ [(2 : Fin 6), 3, 4, 5], loadable s i (s.sec.preferred.getLsbD i.val) = true) → ∃ t, exec (.recoveryDone c ok) s = .next t ∧
      t.supv.recovering.getLsbD c.val = false ∧ (t.chan c).role = (if ok && !railGone s c then .spare else .failed)) ∧
    (∀ (p : Fin 8) (x : ClaimS), s.supv.switching.getLsbD p.val = true → s.supv.claim = some x → ∃ t,
      exec (.selectorSwitchDone p) s = .next t ∧ t.supv.claim = none ∧ t.supv.switching.getLsbD p.val = false ∧
        t.supv.onSpare.getLsbD p.val = decide (x.chan = 8) ∧ t.supv.planeMap = s.supv.planeMap)

/-- UV_TRIP, OV_TRIP, COOLANT_TRIP and LEAK_TRIP each set their own bit and leave the other three as they are, set TRIP_SEEN and assert ALERT_N; from ACTIVE, IDLE or DORMANT the module then is in Standby with every channel OFF and its memory lost; in Standby or unpowered the state is kept (R448, R451). -/
def Obligations.ComparatorTrips : Prop :=
  ∀ s : State, ∃ a b c d : State, exec .uvTrip s = .next a ∧ exec .ovTrip s = .next b ∧ exec .coolantTrip s = .next c ∧ exec .leakTrip s = .next d ∧
    (a.pwr.uv = true ∧ a.pwr.ov = s.pwr.ov ∧ a.pwr.coolant = s.pwr.coolant ∧ a.pwr.leak = s.pwr.leak) ∧
    (b.pwr.ov = true ∧ b.pwr.uv = s.pwr.uv ∧ b.pwr.coolant = s.pwr.coolant ∧ b.pwr.leak = s.pwr.leak) ∧
    (c.pwr.coolant = true ∧ c.pwr.uv = s.pwr.uv ∧ c.pwr.ov = s.pwr.ov ∧ c.pwr.leak = s.pwr.leak) ∧
    (d.pwr.leak = true ∧ d.pwr.uv = s.pwr.uv ∧ d.pwr.ov = s.pwr.ov ∧ d.pwr.coolant = s.pwr.coolant) ∧
    ∀ t ∈ [a, b, c, d], t.pwr.tripSeen = true ∧ t.pwr.alert = true ∧
      (s.on = true → t.pwr.power = .standby ∧ ∀ k : Fin 9, (t.chan k).role = .off ∧ (t.chan k).mem = []) ∧
      (s.on = false → t.pwr.power = s.pwr.power ∧ t.chans = s.chans)

/-- OV_RELEASE and COOLANT_RELEASE clear their bit and wake nothing; UV_RELEASE of a tripped comparator clears it and, in Standby with neither overvoltage, coolant nor leak standing, takes a wake to Active with source 3 (R451); WAKE_N does the same with source 1 (R446, R484) and nothing where a wake is not allowed. LEAK_CLEAR, where the path's write is performed, clears the latch exactly if the sense has released (R451). TRIP_SEEN written 1 clears the mark and releases ALERT_N (R456). SX_CORE_STOP in Standby ends the core's run and drops a pending response (R450). -/
def Obligations.ReleasesAndWakes : Prop :=
  ∀ s : State,
    exec .ovRelease s = .next (s.modPwr fun x => { x with ov := false }) ∧
    exec .coolantRelease s = .next (s.modPwr fun x => { x with coolant := false }) ∧
    (s.pwr.power = .standby → s.pwr.ov = false → s.pwr.coolant = false → s.pwr.leak = false →
      exec .wakeN s = .next (s.modPwr fun x => { x with wakePending := some false, wakeSrc := 1, changing := true }) ∧
      (s.pwr.uv = true →
        exec .uvRelease s = .next (s.modPwr fun x => { x with uv := false, wakePending := some false, wakeSrc := 3, changing := true }))) ∧
    ((s.pwr.power ≠ .standby ∨ s.pwr.ov = true ∨ s.pwr.coolant = true ∨ s.pwr.leak = true) →
      exec .wakeN s = .next s ∧ (s.pwr.uv = true → exec .uvRelease s = .next (s.modPwr fun x => { x with uv := false }))) ∧
    (∀ (path : Path) (released : Bool), s.takesOn path (gpage .pwr) 0x104 →
      exec (.leakClear path released) s = .next (((coreForAccess path s).modPwr fun x => { x with leak := x.leak && !released }).answered rsOk 0)) ∧
    (∀ path : Path, s.takesOn path (gpage .pwr) 0x100 →
      exec (.tripSeen path true) s =
        .next (((coreForAccess path s).modPwr fun x => { x with alert := x.alert && !x.tripSeen, tripSeen := false }).answered rsOk 0)) ∧
    (s.pwr.power = .standby → exec .sxCoreStop s = .next (s.modPwr fun x => { x with coreRunning := false, sbResp := none }))

/-- A request that R447 refuses leaves everything unchanged but CFG_REFUSED. Accepted in a powered state: STATE_REQ_STANDBY ends in Standby, STATE_REQ_DORMANT in Dormant, STATE_REQ_ACTIVE in Active; STATE_REQ_IDLE from Dormant ends in Idle, and from Active with no plat pausing starts the transition, which IDLE_REACHED ends in Idle once no channel has a descriptor issued and no survey of a channel runs (R446). Accepted over the sideband in Standby, ACTIVE and DORMANT take a wake with source 2 (R447). -/
def Obligations.StateRequests : Prop :=
  ∀ (path : Path) (s : State), s.takesOn path (gpage .pwr) 0x104 → let u := coreForAccess path { s with draws := s.draws + 1 }
    (∀ i code, (i, code) ∈ [(Instr.stateReqActive path, 1), (.stateReqIdle path, 2), (.stateReqDormant path, 3), (.stateReqStandby path, 4)] →
      stateReqOk path code s = false → exec i s = .next ((cause (gpage .pwr) 0 u).answered rsOk 0)) ∧
    (s.on = true →
      (stateReqOk path 4 s = true → ∃ t, exec (.stateReqStandby path) s = .next t ∧ t.pwr.power = .standby) ∧
      (stateReqOk path 3 s = true → ∃ t, exec (.stateReqDormant path) s = .next t ∧ t.pwr.power = .dormant) ∧
      (stateReqOk path 1 s = true → ∃ t, exec (.stateReqActive path) s = .next t ∧ t.pwr.power = .active) ∧
      (stateReqOk path 2 s = true →
        (s.pwr.power = .dormant → ∃ t, exec (.stateReqIdle path) s = .next t ∧ t.pwr.power = .idle) ∧
        (s.pwr.power = .active → platPausing s = false → ∃ t, exec (.stateReqIdle path) s = .next t ∧ t.pwr.changing = true ∧ t.pwr.idleWanted = false))) ∧
    (s.on = false → ∀ i code dormant, (i, code, dormant) ∈ [(Instr.stateReqActive path, 1, false), (.stateReqDormant path, 3, true)] →
      stateReqOk path code s = true → ∃ t, exec i s = .next t ∧ t.pwr.wakePending = some dormant ∧ t.pwr.wakeSrc = 2 ∧ t.pwr.power = .standby) ∧
    (s.pwr.power = .active → s.pwr.changing = true → s.pwr.idleWanted = false →
      (∀ c : Fin 9, (s.chan c).fly = [] ∧ s.supv.surveyRunning.getLsbD c.val = false) →
      ∃ t, exec .idleReached s = .next t ∧ t.pwr.power = .idle ∧ t.pwr.changing = false)

/-- In a powered state INPUT_LOW and COOLANT_WARN raise their events and no more (R454); PHASE_FAIL of a rail that is not lost yet and keeps fewer than three lost phases records it, names the rail in LAST_RAIL, sets its cause and raises its event (R444); a third loss on a channel rail makes that powered channel FAILED; of a rail already lost it changes nothing. THERMAL_PARK that changes a powered channel's mark sets or clears PARK for it (R453). THERMAL_TRIP of a die of a serving channel fences it, of HX, HP or an SX puts the module into Standby (R453). HEARTBEAT_TIMEOUT with a standby SX makes it the active one (R466). OP_HOURS counts one hour (R449). ALWAYS_ON_POWER_LOSS leaves the module unpowered with no dynamic address (R442, R483). -/
def Obligations.PowerAndThermalEvents : Prop :=
  ∀ s : State, s.on = true →
    exec .inputLow s = .next (event 0x0201 0 (gpage .pwr) 0 true s) ∧
    exec .coolantWarn s = .next (event 0x020A 0 (gpage .pwr) 0 false s) ∧
    exec .opHours s = .next (s.modPwr fun x => { x with opHours := x.opHours + 1 }) ∧
    (∀ rail : Fin 58, railsGone s [rail.val] = true → exec (.phaseFail rail) s = .next s) ∧
    (∀ rail : Fin 58, railsGone s [rail.val] = false → let n := min 3 (spGet (fun _ => 0) s.pwr.phasesLost rail.val + 1)
      (n ≠ 3 → exec (.phaseFail rail) s = .next (event 0x0206 0 (gpage .pwr) rail.val true (cause (gpage .pwr) 16
        (s.modPwr fun x => { x with phasesLost := spSet (fun _ => 0) x.phasesLost rail.val n, lastRail := rail.val })))) ∧
      (n = 3 → ∀ c : Fin 9, rail.val / 6 = c.val → s.powered c = true → ∃ t, exec (.phaseFail rail) s = .next t ∧ (t.chan c).role = .failed)) ∧
    (∀ (c : Fin 9) (hot : Bool), s.powered c = true → (s.chan c).thermalPark ≠ hot →
      exec (.thermalPark c hot) s = .next (event 0x0208 0 (gpage .pwr) 0 false (cause (gpage .pwr) 17
        (setPark c (hot || s.pwr.power = .idle) (s.modChan c fun ch => { ch with thermalPark := hot }))))) ∧
    (∀ d : Die, ∃ t, exec (.thermalTrip d) s = .next t ∧
      (dieChan d = none → t.pwr.power = .standby) ∧
      (∀ c, dieChan d = some c → s.powered c = true → s.chanFenced c = false → (t.chan c).role = .fenced)) ∧
    (s.sec.standbyOk = true → ∃ t, exec .heartbeatTimeout s = .next t ∧ t.sec.sxActive = !s.sec.sxActive ∧ t.sec.standbyOk = false) ∧
    (∃ t, exec .alwaysOnPowerLoss s = .next t ∧ t.pwr.power = .unpowered ∧ t.pwr.dynAddr = none ∧ ∀ c : Fin 9, (t.chan c).role = .off)

/-- While the module has input: SB_READ of a block-specific register that the sideband reaches answers with its value and does what reading it does; SB_WRITE of one that it may write does the write and answers OK; both leave status and value for the next sideband read (R485). An address outside the sideband's reach answers ADDR, with a zero value for a read. A request whose PEC fails changes nothing but the response, status LENGTH. TELEM of a gauge with a sample answers the latest sample, of a quantity that is no gauge ADDR, of the coolant or the SRTC a free value (log 2). DYNAMIC_ADDRESS sets the address (R483). SMBUS_TIMEOUT drops a pending response (R484). In Standby the SX core runs for the access (R450). -/
def Obligations.SidebandRequests : Prop :=
  ∀ s : State, pathUp .sideband s = true → let u := coreForAccess .sideband s
    (∀ (p : Page) (off : Nat), s.answersOn .sideband p off → off < 4096 → assigned p.blk off = true →
      let r := readSpecific .sideband p off u
      exec (.sbRead (regAddr p off) true) s = .next (sbAnswer rsOk (toLE 4 r.1.toNat) (r.2.answered rsOk r.1))) ∧
    (∀ (p : Page) (off : Nat) (v : W32), s.takesOn .sideband p off → off < 4096 → assigned p.blk off = true →
      exec (.sbWrite (regAddr p off) v true) s = .next (sbAnswer rsOk [] ((writeSpecific .sideband p off v u).answered rsOk 0))) ∧
    (∀ (a v : W32) (p : Page), pageOf a = some p →
      (sbReads p (a.toNat % 4096) = false → exec (.sbRead a true) s = .next (sbAnswer rsAddr (toLE 4 0) (u.answered rsAddr 0))) ∧
      (sbWrites p (a.toNat % 4096) = false → exec (.sbWrite a v true) s = .next (sbAnswer rsAddr [] (u.answered rsAddr 0)))) ∧
    (∀ (a v : W32) (q ch inst : Byte), exec (.sbRead a false) s = .next (sbAnswer rsLength [] u) ∧
      exec (.sbWrite a v false) s = .next (sbAnswer rsLength [] u) ∧ exec (.telem q ch inst false) s = .next (sbAnswer rsLength [] u)) ∧
    (∀ (q ch inst : Byte),
      ((q = 0x10 ∨ q = 0x20) → exec (.telem q ch inst true) s =
        .next (sbAnswer rsOk (toLE 4 (Config.free s.draws).toNat) ({ u with draws := s.draws + 1 }.answered rsOk (Config.free s.draws)))) ∧
      (q ≠ 0x10 → q ≠ 0x20 → gaugeKeys.contains (q.toNat, ch.toNat, inst.toNat) = false →
        exec (.telem q ch inst true) s = .next (sbAnswer rsAddr (toLE 4 0) (u.answered rsAddr 0))) ∧
      (∀ g, q ≠ 0x10 → q ≠ 0x20 → gaugeKeys.contains (q.toNat, ch.toNat, inst.toNat) = true →
        (s.book.gauges.find? fun g => g.quantity = q && g.chan.toNat = ch.toNat && g.inst = inst) = some g →
        exec (.telem q ch inst true) s = .next (sbAnswer rsOk (toLE 4 g.latest.toNat) (u.answered rsOk g.latest)))) ∧
    (∀ a : BitVec 7, exec (.dynamicAddress a) s = .next (s.modPwr fun x => { x with dynAddr := some a })) ∧
    exec .smbusTimeout s = .next (s.modPwr fun x => { x with sbResp := none })

/-- From unpowered with valid input, or from Standby with a wake taken, with no comparator tripped and the preferred images of SX and HX loadable with an SX not marked faulted and the rails of HX and HP not lost: POWER_ON answers a next state in Active, or in Dormant if the wake asked for it, with device time started at zero, POWER_CYCLES one more, the plane map set to the selectors' positions (R489) and the transition ended (R401, R446, R449, R463). The whole sequence is one step (log 17). -/
def Obligations.PowerOnReachesService : Prop :=
  ∀ (identOk : Bool) (bad : List Die) (s : State),
    (s.pwr.power = .unpowered ∨ (s.pwr.power = .standby ∧ s.pwr.wakePending.isSome = true)) →
    s.pwr.uv = false → s.pwr.ov = false → s.pwr.coolant = false → s.pwr.leak = false →
    loadable s 0 (s.sec.preferred.getLsbD 0) = true → loadable s 1 (s.sec.preferred.getLsbD 1) = true →
    (s.sec.faultedA && s.sec.faultedB) = false → railsGone s [54, 55] = false →
    ∃ t, exec (.powerOn identOk bad) s = .next t ∧
      t.pwr.power = (if s.pwr.wakePending = some true then .dormant else .active) ∧ t.pwr.changing = false ∧ t.pwr.wakePending = none ∧
      t.pwr.powerCycles = s.pwr.powerCycles + 1 ∧ t.refCycles = 0 ∧ t.supv.planeMap = selectorMap s.supv.onSpare

/-- In a powered state with no injection armed on SEC, for each of the six components: a retry that succeeds is a transient of SEC; a load from the other slot, where that slot is loadable, makes it the active one; with no image left, SX or HX firmware takes the module to Standby and a channel image that fails on one channel makes that channel FAILED (R463). Any other component number is not a component and changes nothing. -/
def Obligations.LoadTimeouts : Prop :=
  ∀ (comp : BitVec 3) (s : State), s.on = true → armed s (gpage .sec) = none →
    (6 ≤ comp.toNat → ∀ ch r o, exec (.loadTimeout comp ch r o) s = .next s) ∧
    (∀ h : comp.toNat < 6,
      (∀ ch o, exec (.loadTimeout comp ch true o) s = .next (transientEvent (gpage .sec) false s)) ∧
      (loadable s ⟨comp.toNat, h⟩ (!s.sec.preferred.getLsbD comp.toNat) = true → ∀ ch, ∃ t,
        exec (.loadTimeout comp ch false true) s = .next t ∧ t.sec.active.getLsbD comp.toNat = !s.sec.preferred.getLsbD comp.toNat) ∧
      (comp.toNat < 2 → ∀ ch, ∃ t, exec (.loadTimeout comp ch false false) s = .next t ∧ t.pwr.power = .standby) ∧
      (2 ≤ comp.toNat → ∀ c : Fin 9, ∃ t, exec (.loadTimeout comp (some c) false false) s = .next t ∧ (t.chan c).role = .failed))

/-- While SEC takes writes: with no INSTALL running, INSTALL from a channel that can stage, of a component up to 6, starts it; SWITCH of a component whose other slot is valid makes that slot preferred; COMMIT of a component whose active slot is preferred raises its rollback counter to the image's SVN where that is higher, with an event, and otherwise changes nothing. Every other such write, and every one while an INSTALL runs, sets CFG_REFUSED and changes nothing else (R461, R467). INSTALL_COMPLETE whose container could not be read ends the INSTALL with RESULT 5 and changes no slot, no record and no counter (R467, R474). -/
def Obligations.FirmwareCommands : Prop :=
  ∀ s : State, s.takes (gpage .sec) → let refused := (cause (gpage .sec) 0 s).answered rsOk 0
    (∀ (ch : BitVec 4) (area : BitVec 9) (comp : BitVec 3),
      (s.sec.installing = none → comp.toNat ≤ 6 → ∀ h : ch.toNat < 9,
        (mayStage s ⟨ch.toNat, h⟩ = true → exec (.install ch area comp) s =
          .next ((s.modSec fun x => { x with installing := some (ch, area, comp) }).answered rsOk 0)) ∧
        (mayStage s ⟨ch.toNat, h⟩ = false → exec (.install ch area comp) s = .next refused)) ∧
      ((s.sec.installing ≠ none ∨ 6 < comp.toNat ∨ 9 ≤ ch.toNat) → exec (.install ch area comp) s = .next refused)) ∧
    (∀ comp : BitVec 3, s.sec.installing = none → ∀ h : comp.toNat < 6,
      (otherValid s ⟨comp.toNat, h⟩ = true → ∃ t, exec (.switch comp) s = .next t ∧
        t.sec.preferred.getLsbD comp.toNat = !s.sec.active.getLsbD comp.toNat ∧
        ∀ j, j ≠ comp.toNat → t.sec.preferred.getLsbD j = s.sec.preferred.getLsbD j) ∧
      (otherValid s ⟨comp.toNat, h⟩ = false → exec (.switch comp) s = .next refused) ∧
      (s.sec.active.getLsbD comp.toNat = s.sec.preferred.getLsbD comp.toNat → ∃ t, exec (.commit comp) s = .next t ∧
        t.sec.rollback[comp.toNat] = max s.sec.rollback[comp.toNat] (slotImg s ⟨comp.toNat, h⟩ (s.sec.active.getLsbD comp.toNat)).svn) ∧
      (s.sec.active.getLsbD comp.toNat ≠ s.sec.preferred.getLsbD comp.toNat → exec (.commit comp) s = .next refused)) ∧
    (∀ comp : BitVec 3, s.sec.installing ≠ none ∨ 6 ≤ comp.toNat → exec (.switch comp) s = .next refused ∧ exec (.commit comp) s = .next refused) ∧
    (s.sec.installing ≠ none → ∃ t, exec (.installComplete false) s = .next t ∧ t.sec.installing = none ∧ t.sec.result = 5 ∧
      t.sec.slotA = s.sec.slotA ∧ t.sec.slotB = s.sec.slotB ∧ t.sec.records = s.sec.records ∧ t.sec.rollback = s.sec.rollback)

/-- While the domain runs, LOCK_LOSS treats its blocks as powered down and sets the loss bits (R410). The first loss that relocks is a transient of CCLK or CLOCKS and no more. That holds while no injection is armed on the page that counts the loss. A loss that does not relock, or the second of the same domain, is lasting: a channel domain takes its channel to FENCED, a host-port domain (HMAC, HUB, HCTL) loses the host path and its clock, the core of the active SX hands over to a standby SX, and with either core no standby SX is left (R410, R466). SRTC has no loop: nothing changes. -/
def Obligations.LockLossOutcome : Prop :=
  ∀ s : State, s.on = true →
    (∀ (d : Domain) (c : Fin 9) (i : Fin 6), Domain.place d = .inl (c, i) → s.powered c = true → (s.chan c).domRun[i.val] = true →
      ((s.chan c).domOnce[i.val] = false → armed s (cpage c .cclk) = none → exec (.lockLoss d true) s =
        .next (transientEvent (cpage c .cclk) false ((s.each (domainPages c i) powerDownBlock).modChan c fun ch =>
          { ch with domLost := ch.domLost.set i.val true, domOnce := ch.domOnce.set i.val true }))) ∧
      (∀ relocks, (relocks = false ∨ (s.chan c).domOnce[i.val] = true) → (s.chan c).role ≠ .failed → ∃ t,
        exec (.lockLoss d relocks) s = .next t ∧ (t.chan c).role = .fenced)) ∧
    (∀ (d : Domain) (i : Fin 6), Domain.place d = .inr i → i.val < 5 → s.supv.hmacRun[i.val] = true →
      (s.supv.hmacOnce[i.val] = false → armed s (gpage .clocks) = none → exec (.lockLoss d true) s =
        .next (transientEvent (gpage .clocks) false ((s.each (modDomPages s i) powerDownBlock).modSupv fun v =>
          { v with hmacLost := v.hmacLost.set i.val true, hmacOnce := v.hmacOnce.set i.val true }))) ∧
      (∀ relocks, (relocks = false ∨ s.supv.hmacOnce[i.val] = true) → ∃ t, exec (.lockLoss d relocks) s = .next t ∧
        (i.val < 3 → t.icp.linkUp = false ∧ t.supv.hmacRun[i.val] = false) ∧
        (2 < i.val → t.sec.standbyOk = false ∧ t.sec.sxActive = (s.sec.sxActive ^^ (activeCore s i && s.sec.standbyOk))))) ∧
    (∀ relocks, exec (.lockLoss .srtc relocks) s = .next s)

/-- FREQ_CHANGE of ARITH, GATHER or MSIDE, with the domain running, its window open and its blocks quiet, brings the wanted entry into force (the larger of the surveyed entry and FREQ_CAP) and forgets a deferral; no header, and with it no EPOCH, no descriptor, benchmark or memory byte changes, nor a register but those of CPWR, whose PARK an ARITH change uses. FREQ_CHANGE of HUB, with every serving channel paused for a plat or the module in Idle, brings the hub entry into force and changes nothing else. FREQ_DRAIN_TIMEOUT defers the change and raises its event, code 0x0131, on CCLK or HUB; no frequency changes (R397). -/
def Obligations.FrequencyChanges : Prop :=
  (∀ (d : Domain) (c : Fin 9) (i : Fin 6) (h : i.val < 3) (s : State), Domain.place d = .inl (c, i) → s.powered c = true →
      ((s.chan c).domRun[i.val] = true → windowOpen s c = true → (∀ p ∈ domainPages c i, quiet s p = true) → ∃ t,
        exec (.freqChange d) s = .next t ∧
        (t.chan c).entryNow = (s.chan c).entryNow.set i.val (wantedEntry s c ⟨i.val, h⟩) ∧
        t.supv = { s.supv with freqWait := s.supv.freqWait.filter fun x => x ≠ d } ∧
        t.hdrs = s.hdrs ∧ (i ≠ 0 → t.regs = s.regs) ∧ (t.chan c).mem = (s.chan c).mem ∧ (t.chan c).streams = (s.chan c).streams ∧
        (t.chan c).fly = (s.chan c).fly ∧ (t.chan c).bench = (s.chan c).bench ∧ ∀ e, e ≠ c → t.chan e = s.chan e) ∧
      (∃ t, exec (.freqDrainTimeout d) s = .next t ∧ d ∈ t.supv.freqWait ∧ ∀ e, (t.chan e).entryNow = (s.chan e).entryNow)) ∧
    (∀ s : State, s.on = true →
      (s.supv.hmacRun[1] = true → quiet s (gpage .hub) = true →
        (∀ c : Fin 9, (s.chan c).role ≠ .serving ∨ (s.chan c).platPause = true ∨ s.pwr.power = .idle) →
        exec (.freqChange .hub) s = .next (s.modSupv fun v => { v with hubNow := v.hubEntry, freqWait := v.freqWait.filter fun x => x ≠ .hub })) ∧
      (∃ t, exec (.freqDrainTimeout .hub) s = .next t ∧ Domain.hub ∈ t.supv.freqWait ∧ t.supv.hubNow = s.supv.hubNow))

/-- In a powered state. BENCHMARK_READ of one reading other than 0 of a powered channel's die makes it the latest with the offset in force, and before operating hour 24 keeps it for the datum (R424, R425). DATUM_WRITE before hour 24 changes nothing; from hour 24 a die with collected samples and no datum gets one, once (R425). SURVEY_DUE asks for every die when INTERVAL units of ten hours have passed, else nothing (R427). EPOCH_RECORD at a multiple of 24 hours appends the open epoch's record (R429). GAUGE_SAMPLE keeps the input readings with their extremes (R456). It also adds the corrected codewords of that second to FEC_CORR_CNT and ECC_CORR_CNT (the model's choice, log 72) and changes no header and no channel. RESURVEY that meets a lasting fault stops the survey of the channel, and of a die without a rating table changes nothing (R426, R428). -/
def Obligations.AgeingRecords : Prop :=
  ∀ s : State, s.on = true →
    (∀ (c : Fin 9) (r : H16), s.powered c = true → ∃ t, exec (.benchmarkRead [(.dx c, [r])] []) s = .next t ∧
      (r ≠ 0 → spGet (fun _ => (0, 0)) (t.chan c).bench.latest 0 = (r, (s.chan c).bench.offset[0])) ∧
      (s.pwr.opHours.toNat < 24 → (s.chan c).bench.done.getLsbD 0 = false →
        spGet (fun _ => []) (t.chan c).bench.samples 0 = spGet (fun _ => []) (s.chan c).bench.samples 0 ++ [r]) ∧
      (t.chan c).bench.datum = (s.chan c).bench.datum) ∧
    (s.pwr.opHours.toNat < 24 → exec .datumWrite s = .next s) ∧
    (24 ≤ s.pwr.opHours.toNat → ∃ t, exec .datumWrite s = .next t ∧ ∀ (c : Fin 9) (d : Fin 4),
      ((s.chan c).bench.done.getLsbD d.val = false → (∃ e ∈ (s.chan c).bench.samples, e.1 / 24 = d.val) →
        (t.chan c).bench.done.getLsbD d.val = true) ∧
      ((s.chan c).bench.done.getLsbD d.val = true → ∀ i < 24,
        spGet (fun _ => 0) (t.chan c).bench.datum (24 * d.val + i) = spGet (fun _ => 0) (s.chan c).bench.datum (24 * d.val + i))) ∧
    (let due := s.supv.lastSurveyAll + 10 * s.field (gpage .bench) 0x100 25 16 ≤ s.pwr.opHours.toNat;
      (due → exec .surveyDue s = .next (s.modSupv fun v => { v with surveyPending := 0x3FF, lastSurveyAll := s.pwr.opHours.toNat })) ∧
      (¬due → exec .surveyDue s = .next s)) ∧
    (24 ≤ s.pwr.opHours.toNat → s.pwr.opHours.toNat % 24 = 0 →
      exec .epochRecord s = .next (writeEpoch (openEpoch s - 1) false s)) ∧
    (∀ (l : SecondReading) (mv ma : H16), ∃ t, exec (.gaugeSample l mv ma) s = .next t ∧ t.pwr.inputMv = mv ∧ t.pwr.inputMa = ma ∧
      t.pwr.inputMin = (if mv < s.pwr.inputMin then mv else s.pwr.inputMin) ∧
      t.pwr.inputPeak = (if s.pwr.inputPeak < ma then ma else s.pwr.inputPeak) ∧ t.hdrs = s.hdrs ∧
      t.regs = (countCorrected l s).regs ∧ t.chans = s.chans) ∧
    (∀ d a b, exec (.resurvey d a b true) s = .next (match dieChan d with | some c => stopSurvey c s | none => s)) ∧
    (∀ d a b, (ratingOf s d).isNone = true → exec (.resurvey d a b false) s = .next s)

/-- In a powered state with the die's rating table in force, its datum taken and not bad, the die not yet surveyed in this round, a survey of the channel asked for, and its window open (nothing issued, and the channel spare, or serving and held for the survey or in Idle): RESURVEY of a DX, GX, MX or PX whose readings pass at offset k of its present entry, and at no smaller offset, puts k in the die's offset and keeps the entries and the datum; no other channel and no memory changes, and LAST_SURVEY is the hour (R426). -/
def Obligations.ResurveyCompletes : Prop :=
  ∀ (die : Die) (c : Fin 9) (d : Fin 4) (r : Container) (atE atN : List (List H16)) (k : Nat) (s : State),
    s.on = true → benchPlace die = some (.inl (c, d)) → ratingOf s die = some r → surveyWanted s c.val = true → (s.chan c).fly = [] →
    (((s.chan c).role = .serving ∧ ((s.chan c).surveyHold = true ∨ s.pwr.power = .idle)) ∨ (s.chan c).role = .spare) →
    (s.chan c).bench.done.getLsbD d.val = true → (s.chan c).bench.bad.getLsbD d.val = false → (s.chan c).surveyed.getLsbD d.val = false →
    let b := (s.chan c).bench
    let e0 := if d = 0 then b.entryDx else if d = 1 then b.entryGx else if d = 2 then b.entryMx else 0
    let f0 := ((dieFreq die).getD (1, 0)).1
    let fe := if (dieFreq die).isSome then f0 - 100 * e0 else f0
    searchOffset (fun i => (spGet (fun _ => 0) b.datum (24 * d.val + i)).toNat) (Config.ratingAllow r.target r.gen) f0 fe
      (atE.take ((kmaxOf s die).toNat + 1)) 0 = some k →
    ∃ t, exec (.resurvey die atE atN false) s = .next t ∧ (t.chan c).bench.offset[d.val] = BitVec.ofNat 4 k ∧
      (t.chan c).bench.entryDx = b.entryDx ∧ (t.chan c).bench.entryGx = b.entryGx ∧ (t.chan c).bench.entryMx = b.entryMx ∧
      t.supv.lastSurvey = s.pwr.opHours ∧ (t.chan c).bench.datum = b.datum ∧ (t.chan c).mem = (s.chan c).mem ∧ ∀ e, e ≠ c → t.chan e = s.chan e

/-- While the pages take writes: SURVEY_CHANNELS and SURVEY_MODULE add their dies to those asked for, SURVEY_CANCEL withdraws those not running, and INTERVAL is kept (R427, R438); a zero INTERVAL refuses each as a whole. FBOOK_CLEAR with the present sequence value empties the book and advances the sequence; with any other it sets CFG_REFUSED and the book stands (R434). CAIRN_RELEASE empties exactly the named rings that are frozen (R441). -/
def Obligations.SurveyAndRecorderCommands : Prop :=
  ∀ s : State, s.Inv →
    (s.takes (gpage .bench) → let iv := s.field (gpage .bench) 0x100 25 16
      (∀ (i : Instr) (add : BitVec 10) (cancel : Bool),
        ((∃ mask : BitVec 9, i = .surveyChannels mask ∧ add = mask.setWidth 10 ∧ cancel = false) ∨
          (i = .surveyModule ∧ add = 0x200 ∧ cancel = false) ∨ (i = .surveyCancel ∧ add = 0 ∧ cancel = true)) →
        (iv = 0 → exec i s = .next ((cfgRefused (gpage .bench) s).answered rsOk 0)) ∧
        (iv ≠ 0 → ∃ t, exec i s = .next t ∧
          t.supv.surveyAsked = ((if cancel then s.supv.surveyAsked &&& s.supv.surveyRunning else s.supv.surveyAsked) ||| add) ∧
          t.field (gpage .bench) 0x100 25 16 = iv ∧ t.supv.surveyPending = s.supv.surveyPending ∧ t.chans = s.chans ∧ t.hdrs = s.hdrs))) ∧
    (∀ (path : Path) (v : W32), s.takesOn path (gpage .fbook) 0x108 → let u := coreForAccess path s
      (v = u.book.seq → exec (.fbookClear path v) s = .next ((u.modBook fun b =>
        { b with records := [], full := false, dropped := 0, seq := b.seq + 1 }).answered rsOk 0)) ∧
      (v ≠ u.book.seq → exec (.fbookClear path v) s = .next ((cfgRefused (gpage .fbook) u).answered rsOk 0))) ∧
    (∀ mask : BitVec 10, s.takes (gpage .cairn) → ∃ t, exec (.cairnRelease mask) s = .next t ∧ t.hdrs = s.hdrs ∧ t.slots = s.slots ∧
      ∀ r : Fin 10, t.rings[r.val] =
        (if mask.getLsbD r.val = true ∧ s.rings[r.val].frozen.isSome = true then .empty else s.rings[r.val]))

/-- While the pages take writes. A CLAIM that R389 allows makes the channel FILLING with the plane's selector switching and the claim recorded; one that it does not allow sets CFG_REFUSED and changes nothing else. RELEASE_IN empties the named inbound areas and no other area, image or register (R377). RECOPY queues a copy of each enabled partner. FORCE_RX of a wavelength above 3, or of a fibre whose spare is in use, is refused as a whole; with no fibre named it does nothing (R346, R365). -/
def Obligations.ClaimAndPlatCommands : Prop :=
  ∀ (c : Fin 9) (s : State),
    (s.takes (cpage c .plat) →
      (∀ p : Fin 8, (claimOk c p s = true → ∃ t, exec (.claim c p) s = .next t ∧ (t.chan c).role = .filling ∧
          t.supv.switching.getLsbD p.val = true ∧ t.supv.claim = some ⟨c, p⟩ ∧ t.supv.planeMap = s.supv.planeMap) ∧
        (claimOk c p s = false → exec (.claim c p) s = .next ((cfgRefused (cpage c .plat) s).answered rsOk 0))) ∧
      (∀ areas : BitVec 2, exec (.releaseIn c areas) s = .next ((releaseIn c areas.toNat s).answered rsOk 0) ∧
        ∀ a : Fin 2, ((releaseIn c areas.toNat s).chan c).plat.inbound[a.val] =
            (if areas.getLsbD a.val then .empty else (s.chan c).plat.inbound[a.val]) ∧
          ((releaseIn c areas.toNat s).chan c).plat.own = (s.chan c).plat.own ∧ ((releaseIn c areas.toNat s).chan c).mem = (s.chan c).mem) ∧
      exec (.recopy c) s = .next ((queueCopies c s).answered rsOk 0)) ∧
    (∀ (p : Fin 6) (fibres : BitVec 2) (wave : BitVec 3), s.takes (travPage c p) →
      exec (.forceRx c p fibres wave) s = .next ((forceRx c p fibres.toNat wave.toNat s).answered rsOk 0) ∧
      (fibres = 0 → exec (.forceRx c p fibres wave) s = .next (s.answered rsOk 0)) ∧
      (fibres ≠ 0 → (3 < wave.toNat ∨ ∃ f : Fin 2, fibres.getLsbD f.val = true ∧ spareUsed s c p f true = true) →
        exec (.forceRx c p fibres wave) s = .next ((cfgRefused (travPage c p) s).answered rsOk 0)))

/-- While the pages take writes. ABORT of an identifier that no uncompleted descriptor carries sets ABORT_MISS, bit 16 of SEQ.ERR_STAT, and has no other effect; after any other ABORT no issued descriptor with the identifier is left uncommitted (R118). FLUSH leaves each named stream empty and released, with issued descriptors unaffected; RESUME of streams that hold nothing releases exactly the named ones (R119). PARK sets or clears PARK and keeps HOLD (R191). PORT_EN_WRITE stores the ten port bits (R309). RECALL of an active loan marks it recalled, of another sets CFG_REFUSED (R307). -/
def Obligations.ChannelControlCommands : Prop :=
  ∀ s : State, s.Inv →
    (∀ c : Fin 9, s.takes (cpage c .seq) →
      (∀ id : W32,
        ((∀ f ∈ (s.chan c).fly, dId f.desc ≠ id) → (∀ st : Fin 4, (∀ q ∈ ((s.chan c).stream st).queue, dId q.bytes ≠ id) ∧
            (∀ f, ((s.chan c).stream st).fetch = some f → dId f.desc ≠ id ∧ ∀ q ∈ f.buf, dId q.bytes ≠ id)) →
          exec (.abort c id) s = .next ((cause (cpage c .seq) 16 s).answered rsOk 0)) ∧
        (∃ t, exec (.abort c id) s = .next t ∧ ∀ f ∈ (t.chan c).fly, dId f.desc = id → f.committed = true)) ∧
      (∀ mask : BitVec 4,
        (∃ t, exec (.flush c mask) s = .next t ∧ (t.chan c).fly = (s.chan c).fly ∧
          ∀ st : Fin 4, mask.getLsbD st.val = true → (t.chan c).stream st = .reset) ∧
        ((∀ st : Fin 4, ((s.chan c).stream st).queue = [] ∧ ((s.chan c).stream st).fetch = none) →
          ∃ t, exec (.resume c mask) s = .next t ∧ (t.chan c).fly = (s.chan c).fly ∧
            ∀ st : Fin 4, ((t.chan c).stream st).halted = (((s.chan c).stream st).halted && !mask.getLsbD st.val)))) ∧
    (∀ c : Fin 9, s.takes (cpage c .cpwr) → ∀ on : Bool, ∃ t, exec (.park c on) s = .next t ∧ parkSet t c = on ∧ holdSet t c = holdSet s c) ∧
    (s.takes (gpage .hub) →
      (∀ v : W32, ∃ t, exec (.portEnWrite v) s = .next t ∧ t.reg (gpage .hub) 0x100 = v &&& 0x3FF) ∧
      (∀ id : Byte, ((∃ l ∈ s.hub.loans, l.1 = id.toNat ∧ l.2.recalled = false) → ∃ t, exec (.recall id) s = .next t ∧
          (t.hdr (gpage .hub)).errStat.getLsbD 17 = true ∧ ∀ l ∈ t.hub.loans, l.1 = id.toNat → l.2.recalled = true) ∧
        ((∀ l ∈ s.hub.loans, l.1 = id.toNat → l.2.recalled = true) →
          exec (.recall id) s = .next ((cfgRefused (gpage .hub) s).answered rsOk 0))))

/-- While CCLK takes writes, for every domain but MSIDE: DOMAIN_STOP of a domain whose bit is 1 and whose blocks all read FENCED and DRAINED, none resetting, stops it and no other; with a block that does not, the write is refused as a whole (R408, R411). DOMAIN_START of a domain whose bit is 0 starts it and no other. MSIDE is never stopped: its domain runs as before after either command. A command that changes no bit stops and starts nothing. -/
def Obligations.DomainCommands : Prop :=
  ∀ (c : Fin 9) (s : State), s.takes (cpage c .cclk) → let en := s.reg (cpage c .cclk) 0x104
    (∀ d : Fin 6, d ≠ 2 → en.getLsbD d.val = true →
      (mayStop s c d = true → ∃ t, exec (.domainStop c d) s = .next t ∧ (t.chan c).domRun[d.val] = false ∧
        ∀ e : Fin 6, e ≠ d → (t.chan c).domRun[e.val] = (s.chan c).domRun[e.val]) ∧
      (mayStop s c d = false → exec (.domainStop c d) s = .next ((cfgRefused (cpage c .cclk) s).answered rsOk 0))) ∧
    (∀ d : Fin 6, d ≠ 2 → en.getLsbD d.val = false →
      ∃ t, exec (.domainStart c d) s = .next t ∧ (t.chan c).domRun[d.val] = true ∧
        ∀ e : Fin 6, e ≠ d → (t.chan c).domRun[e.val] = (s.chan c).domRun[e.val]) ∧
    (∀ (d : Fin 6) (i : Instr),
      ((i = .domainStop c d ∧ (d = 2 ∨ en.getLsbD d.val = false)) ∨ (i = .domainStart c d ∧ (d = 2 ∨ en.getLsbD d.val = true))) →
      ∃ t, exec i s = .next t ∧ t.chans = s.chans ∧ t.hdrs = s.hdrs)

/-- For LAYOUT_COPY, MATMUL_PASS, VECTOR, GATHER, MERGE, COMPACT, PREDICT, BIN, UPDATE, ROUTE_SCORE, DISPATCH, COLLECT and CLOSE, when the command's descriptor is the head that R105 grants: with the unit not fenced and the checks of R99 passed, it leaves its stream and enters its unit with the copies of R121; a check that fails completes it with that status and DETAIL and it enters no unit; with the unit fenced it completes FENCED without issuing (R120). So exec answers a next state for each of layoutCopy, matmulPass, vector, gather, merge, compact, predict, bin, update, routeScore, dispatch, collect and close; unitDesc names the checks of each. -/
def Obligations.UnitDescriptorsIssue : Prop :=
  ∀ (i : Instr) (c : Fin 9) (st : Fin 4) (isOp : List Byte → Bool) (chk : State → Env → List Byte → Chk) (copies : State → Fly → Env)
    (d : List Byte) (fetched : Bool) (u : UnitId) (s : State),
    unitDesc i = some (c, st, isOp, chk, copies) → isOp d = true →
    (s.due c st d fetched u → let s' := s.taken c st u
      let f := { s.issued c st d fetched u with env := copies s' (s.issued c st d fetched u) }
      (chk s' f.env d = none → exec i s = .next (s.issuing c st u (enter c f))) ∧
      (∀ status detail, chk s' f.env d = some (status, detail) → exec i s = .next (s.ending c st d fetched u status 0 (w32 detail)))) ∧
    (∀ q fin, grantOf s c = some st → headOf st ((s.chan c).stream st) = some (q, fin) → q.bytes = d →
      dueFenced s c (unitFor s c d) d = true →
      exec i s = .next (settle c (finishQueued c d st fin.isSome stFenced 0 (endFetch c st (popHead c st false s)))))

/-- For EXCHANGE_SEND, LOAN_PUT, LOAN_GET, OFFLOAD_PUT, OFFLOAD_GET, PLAT_WRITE and PLAT_READ, when the command's descriptor is the head that R105 grants and its unit is not fenced: with the checks passed it enters its unit; a check that fails completes it with that status and DETAIL, and with LOAN_RECALLED set where the loan was recalled (R307). So exec answers a next state for each of exchangeSend, loanPut, loanGet, offloadPut, offloadGet, platWrite and platRead; linkDesc names the checks of each. -/
def Obligations.LinkDescriptorsIssue : Prop :=
  ∀ (i : Instr) (c : Fin 9) (st : Fin 4) (op : Nat) (chk : State → Env → List Byte → Chk) (d : List Byte) (fetched : Bool) (u : UnitId) (s : State),
    linkDesc i = some (c, st, op, chk) → opIs op d = true → s.due c st d fetched u →
    let f := s.issued c st d fetched u
    let s' := s.taken c st u
    (chk s' f.env d = none → exec i s = .next (s.issuing c st u (enter c f))) ∧
    (∀ status detail, chk s' f.env d = some (status, detail) → exec i s = .next (s.ending c st d fetched u status
      (if (op = 0x58 ∨ op = 0x59) ∧ status = stOperand ∧ detail = 0x0C25 then flLoanRecalled else 0) (w32 detail)))

/-- When the descriptor is the head that R105 grants and its unit is not fenced. DESC_CREATE with a body that passes enters LAYOUT; one that fails completes with that status (R197). A REDUCE that passes enters its unit and, while it lives, registers its participant, or waits for a place (R300). An EXCHANGE_RECV that passes posts its window, at once in flight and fed, and what was held for it is looked at again (R357, R361). Each that fails its checks completes with the status and DETAIL of the check. -/
def Obligations.DescCreateReduceReceiveIssue : Prop :=
  ∀ (c : Fin 9) (st : Fin 4) (d : List Byte) (fetched : Bool) (u : UnitId) (s : State), s.due c st d fetched u →
    let f := s.issued c st d fetched u
    let s' := s.taken c st u
    (opIs 0x01 d = true →
      (createFmt d = none → exec (.descCreate c st) s = .next (s.issuing c st u (enter c f))) ∧
      (∀ status detail, createFmt d = some (status, detail) → exec (.descCreate c st) s = .next (s.ending c st d fetched u status 0 (w32 detail)))) ∧
    (opIs 0x40 d = true →
      (reduceChk s' c f.env d = none → exec (.reduce c st) s = .next (s.issuing c st u fun t =>
        let t := enter c f t
        if alive t c f.no then
          (register (rdId d) (partOf t c f) t).getD (t.modHub fun h => { h with waiting := h.waiting ++ [(rdId d, partOf t c f)] })
        else t)) ∧
      (∀ status detail, reduceChk s' c f.env d = some (status, detail) →
        exec (.reduce c st) s = .next (s.ending c st d fetched u status 0 (w32 detail)))) ∧
    (opIs 0x39 d = true →
      (recvChk s' c d = none → (s.chan c).localHeld = [] → (∀ p, (s.port c p).rxHeld = [] ∧ (s.port c p).txq = []) → ∃ t,
        exec (.exchangeRecv c st) s = .next t ∧ (∃ w, windowAt t c (rvWindow d) = some w ∧ w.no = (s.chan c).issueNo ∧ w.mode = rvMode d ∧
          w.base = rvBase d ∧ w.length = rvLength d ∧ w.expect = rvExpect d ∧ w.count = 0 ∧ w.segs = []) ∧
        (t.chan c).mem = (s.chan c).mem) ∧
      (∀ status detail, recvChk s' c d = some (status, detail) →
        exec (.exchangeRecv c st) s = .next (s.ending c st d fetched u status 0 (w32 detail))))

/-- When the descriptor is the head that R105 grants and no block the command uses is fenced. STAKE_WAIT with a clean body completes COMPLETED at once; a STAKE_SIGNAL applies its enabled entries in order and completes (R112). SEQ_TABLE loads the sixteen entries of a valid image or stores the table's image, and completes; an image with an offending entry completes OPERAND and the table stands (R121). BATCH_FETCH that passes its checks becomes its stream's list, nothing fetched yet. FETCH_BURST takes the next burst of up to 64 descriptors from memory, in order (R103). -/
def Obligations.SequencerDescriptors : Prop :=
  ∀ (c : Fin 9) (st : Fin 4) (d : List Byte) (fetched : Bool) (s : State),
    (s.due c st d fetched .seq → (∀ i : Fin 2, stackFenced s c i = false) → let done := finishDesc c d st fetched (s.chan c).issueNo stCompleted 0 0
      (opIs 0x60 d = true → stakeFmt d 0x83 = none → exec (.stakeWait c st) s = .next (s.issuing c st .seq done)) ∧
      (opIs 0x61 d = true → stakeFmt d 0xC3 = none → exec (.stakeSignal c st) s =
        .next (s.issuing c st .seq fun t => done (t.each (List.range 8) (signalEntry c d)))) ∧
      (opIs 0x08 d = true → seqTableFmt d = none →
        let img := memRds (s.chan c).mem (fld d 16 5) 512
        (bitAt (fld d 24 1) 0 = true → ∃ t, exec (.seqTable c st) s = .next t ∧ (t.chan c).seqTable = (s.chan c).seqTable ∧
          (t.chan c).mem = memWrs (s.chan c).mem (fld d 16 5) (seqTableImage (s.chan c).seqTable)) ∧
        (bitAt (fld d 24 1) 0 = false → (∀ i < 16, seqEntryBad img i = false) → ∃ t, exec (.seqTable c st) s = .next t ∧
          (t.chan c).mem = (s.chan c).mem ∧ ∀ i : Fin 16, (t.chan c).seqTable[i.val] = seqEntryOf ((img.drop (32 * i.val)).take 32)) ∧
        (bitAt (fld d 24 1) 0 = false → (∃ i < 16, seqEntryBad img i = true) → ∃ t, exec (.seqTable c st) s = .next t ∧
          (t.chan c).mem = (s.chan c).mem ∧ (t.chan c).seqTable = (s.chan c).seqTable)) ∧
      (opIs 0x68 d = true → fetchChk d = none → ∃ t, exec (.batchFetch c st) s = .next t ∧
        ((t.chan c).stream st).fetch = some ⟨d, fetched, bfAddr d, bfCount d, 0, [], false, false, (s.chan c).issueNo, false⟩)) ∧
    (∀ f, ((s.chan c).stream st).fetch = some f → 0 < f.remaining → f.buf.length ≤ 64 → (s.hdr (cpage c .seq)).enable = true →
      (∀ i : Fin 2, stackFenced s c i = false) → exec (.fetchBurst c st) s = .next (settle c
        ((seqDrain c (readSpans c (seqReq c (some f.no)) maxTransaction [(f.next, 64 * min 64 f.remaining)] s)).modStream c st fun x =>
        { x with fetch := some { f with
            next := f.next + 64 * min 64 f.remaining, remaining := f.remaining - min 64 f.remaining
            buf := f.buf ++ (List.range (min 64 f.remaining)).map fun i => ⟨memRds (s.chan c).mem (f.next + 64 * i) 64, false⟩ } })))

/-- On a channel in service whose unit runs. STAGED_FEED_START: the feeding descriptor has fed, and its unit moves on (R106). COMMIT_REQUEST lets the unit go on and then, on LAYOUT, the vector unit, GX or UPDATE, commits and grants its oldest uncommitted descriptor; on an array it commits it, and the grant follows with COMMIT_GRANT (R117, R160). COMMIT_GRANT delivers the oldest grant on its way: the pass counts; one whose EPOCH is not the array's is a stale reply (R407). DESCRIPTOR_COMPLETION of a granted descriptor of these units, or of ROUTE_SCORE, no stack being fenced and no closure work pending, takes the descriptor out of flight, and where it is the only one in its unit and no Idle request waits, writes exactly its bytes into memory (R110). -/
def Obligations.UnitsAtWork : Prop :=
  ∀ (c : Fin 9) (u : UnitId) (s : State), unitRuns s c u = true →
    (∀ f, (s.chan c).fly.find? (fun g => g.unit = u && g.phase = .feeding) = some f → f.begun = true →
      ∃ t, exec (.stagedFeedStart c u) s = .next t ∧ ∀ g ∈ (t.chan c).fly, g.no = f.no → g.phase = .fed) ∧
    (∀ f, uncommitted (goOn c u s) c u = some f →
      ((u = .layout ∨ u = .vector ∨ u = .gx ∨ u = .update) → exec (.commitRequest c u) s = .next (commitFly c f (goOn c u s)) ∧
        ∀ g ∈ ((commitFly c f (goOn c u s)).chan c).fly, g.no = f.no → g.committed = true ∧ g.granted = true) ∧
      ((u = .arrayA ∨ u = .arrayB) → ∃ t, exec (.commitRequest c u) s = .next t ∧
        ∀ g ∈ (t.chan c).fly, g.no = f.no → g.committed = true)) ∧
    (∀ (a : Fin 2) f epoch rest, u = arrUnit a → (s.chan c).arrays[a.val].grants = (epoch, f.no) :: rest → s.findFly c f.no = some f →
      (epoch = s.epochOf (arrPage c a) → ∃ t, exec (.commitGrant c a) s = .next t ∧ (t.chan c).arrays[a.val].grants = rest ∧
        ∀ g ∈ (t.chan c).fly, g.no = f.no → g.granted = true) ∧
      (epoch ≠ s.epochOf (arrPage c a) → exec (.commitGrant c a) s =
        .next (staleReplies (arrPage c a) 1 (s.modArray c a fun x => { x with grants := rest })))) ∧
    (∀ f, (u = .layout ∨ u = .vector ∨ u = .gx ∨ u = .update ∨ u = .score ∨ ((u = .arrayA ∨ u = .arrayB) ∧ underClosure s c f = false)) →
      granted s c u = some f → (∀ i : Fin 2, stackFenced s c i = false) → ∃ t, exec (.descriptorCompletion c u) s = .next t ∧
        (∀ g ∈ (t.chan c).fly, g.no ≠ f.no) ∧
        (s.pwr.idleWanted = false → (∀ g ∈ (s.chan c).fly, g.unit = u → g.no = f.no) → ∀ e : Fin 9,
          (t.chan e).mem = ((s.each f.effs (storeEff c (writeReq c u f.no))).chan e).mem))

/-- FILL_MAX_REACHED on an active array that presents nothing, in mode FILL_RAMP without HOLD, starts a ramp-down, counted in RAMP_CNT.DOWN (R189). RAMP_COMPLETE with no pass in the array ends a ramp-up in activity, where neither PARK nor mode RAMP_ONLY opens a gap at once, and a ramp-down at rest, where HOLD does not bring the array up again (R189, R194). CLOSURE_MAX_WAIT marks the pending work presented (R288). CLOSURE_COMPARE of a granted sample that has time, no stack being fenced, counts it; one not in excess ends its closure work, one in excess stays for the repeat procedure (R289). REPEAT_RESULT with R1 equal to N ends the work; with no two equal the channel is FENCED (R418, R419). -/
def Obligations.RampAndClosureEvents : Prop :=
  ∀ (c : Fin 9) (a : Fin 2) (s : State), s.Inv → let r := (s.chan c).arrays[a.val].ramp
    (s.powered c = true → rampMode s c a = 0 → r = .full → holdSet s c = false →
      presenting s c a = false → ∃ t,
        exec (.fillMaxReached c a) s = .next t ∧ (t.chan c).arrays[a.val].ramp = .rampDown ∧
        t.field (cpage c .cpwr) 0x108 31 16 = min 0xFFFF (s.field (cpage c .cpwr) 0x108 31 16 + 1) ∧ (t.chan c).mem = (s.chan c).mem) ∧
    ((∀ f ∈ (s.chan c).fly, f.unit ≠ arrUnit a) →
      (r = .rampUp → parkSet s c = false → (s.field (cpage c .cpwr) 0x100 1 0 ≠ 1 ∨ holdSet s c = true) → ∃ t, exec (.rampComplete c a) s = .next t ∧ (t.chan c).arrays[a.val].ramp = .full) ∧
      (r = .rampDown → (holdSet s c = false ∨ parkSet s c = true) → ∃ t, exec (.rampComplete c a) s = .next t ∧ (t.chan c).arrays[a.val].ramp = .parked)) ∧
    (exec (.closureMaxWait c a) s = .next (s.modArray c a fun x => { x with closure := x.closure.map fun k => { k with presented := true } })) ∧
    (unitsLive s c = true → parkSet s c = false → ∀ (f : Fly) (k : Closure), closurePass s c a = some (f, k) →
      (k.inExcess = false → f.granted = true → closureRuns s c a k = true → (∀ i : Fin 2, stackFenced s c i = false) →
        let x := sampleErr k (wideResult (s.chan c).mem f.env f.desc) (BitVec.ofNat 8 (bitsOf f.env.closureRate.toNat 15 8)).toInt
        ∃ t, exec (.closureCompare c a) s = .next t ∧
          t.field (numwPage c) 0x11C 31 16 = min 0xFFFF (s.field (numwPage c) 0x11C 31 16 + 1) ∧
          (x.2 = false → (t.chan c).arrays[a.val].closure = none) ∧
          (x.2 = true → (t.chan c).arrays[a.val].closure = some { k with inExcess := true, err := x.1 })) ∧
      (k.inExcess = true →
        (∀ r2EqR1 r2EqN, ∃ t, exec (.repeatResult c a true r2EqR1 r2EqN) s = .next t ∧ (t.chan c).arrays[a.val].closure = none) ∧
        (∀ r2EqN, ∃ t, exec (.repeatResult c a false false r2EqN) s = .next t ∧ (t.chan c).role = .fenced)))

/-- ROUTE_REPORT_COMMIT of a scored descriptor, with room in the out-queue and the host known, opens its context under the next report number, its deadline running unless PLAN_WAIT is 0; otherwise it waits (R250, R254). PLAN_DEADLINE ends a running deadline, and that of no other context. REDUCE_REGISTER registers a waiting participant of a reduction not in flight, while fewer than eight are (R300). REDUCE_RENDEZVOUS is reached when every plane named has registered and is SERVING. REDUCE_TIMEOUT ends the waiting descriptor (R299); with WAIT_MS 0 nothing times out. TRI_RENDEZVOUS with every plane registered, no port of them disabled, lets the participants meet; TRI_TIMEOUT ends every one that has not met (R386, R387). -/
def Obligations.RoutingAndRendezvousEvents : Prop :=
  (∀ (c : Fin 9) (f : Fly) (s : State), unitRuns s c .score = true → uncommitted s c .score = some f →
      ((s.outqFull = true ∨ s.hostKnown = false) → exec (.routeReportCommit c) s = .next s) ∧
      (s.outqFull = false → s.hostKnown = true → ∃ t, exec (.routeReportCommit c) s = .next t ∧
        (t.chan c).route.reportNo = (if (s.chan c).route.reportNo = 0xFFFFFFFF then 1 else (s.chan c).route.reportNo + 1) ∧
        (let k := (t.chan c).route.ctxs[(scCtx f.desc).val];
          k.isOpen = true ∧ k.reportId = (s.chan c).route.reportNo ∧ k.experts = scE f.desc ∧ k.tokens = scT f.desc ∧
            k.running = decide (s.field (cpage c .route) 0x100 13 0 ≠ 0)) ∧
        ∀ g ∈ (t.chan c).fly, g.no = f.no → g.committed = true ∧ g.granted = true)) ∧
    (∀ (c : Fin 9) (x : Fin 4) (s : State), unitsLive s c = true →
      (s.chan c).route.ctxs[x.val].isOpen = true → (s.chan c).route.ctxs[x.val].running = true → ∃ t,
        exec (.planDeadline c x) s = .next t ∧ (t.chan c).route.ctxs[x.val].running = false ∧
        ∀ y : Fin 4, y ≠ x → (t.chan c).route.ctxs[y.val] = (s.chan c).route.ctxs[y.val]) ∧
    (∀ (c : Fin 9) (id : W32) (p : RedPart) (s : State), s.hub.waiting = [(id, p)] → p.chan = c → rendezvousUsed s < 8 →
      (∀ r ∈ s.hub.reductions, r.id ≠ id) → ∃ t, exec (.reduceRegister c) s = .next t ∧ t.hub.waiting = [] ∧
        t.hub.reductions = s.hub.reductions ++ [⟨id, [p], false⟩] ∧ t.chans = s.chans) ∧
    (∀ (r : Reduction) (s : State), s.hub.reductions = [r] → r.met = false → r.parts ≠ [] → (∀ p ∈ r.parts, present s p = true) → missingPlanes r = [] →
      ((liveParts r).zipIdx.filter fun e => tooSmall s (liveParts r).length e.2 e.1) = [] →
      exec (.reduceRendezvous r.id) s = .next (s.modHub fun h => { h with reductions := [{ r with met := true }] })) ∧
    (∀ (c : Fin 9) (id : W32) (s : State),
      (s.field (gpage .hub) 0x108 15 8 = 0 → exec (.reduceTimeout c id) s = .next s ∧ exec (.triTimeout id) s = .next s) ∧
      (s.field (gpage .hub) 0x108 15 8 ≠ 0 →
        (∀ (f : Fly) (p : RedPart), s.hub.waiting = [(id, p)] → s.hub.reductions = [] → p.chan = c → p.no = f.no →
          oldest s c .reduce (fun g => g.no = f.no) = some f → ∃ t, exec (.reduceTimeout c id) s = .next t ∧ ∀ g ∈ (t.chan c).fly, g.no ≠ f.no) ∧
        (∃ t, exec (.triTimeout id) s = .next t ∧ ∀ x ∈ t.hub.tris, x.id = id → x.met = true))) ∧
    (∀ (id : W32) (x : TriWait) (l : List TriWait) (s : State),
      (triParts s id).filter (fun t => takesPart s t.chan) = x :: l →
      (∀ k : Fin 8, x.planes.getLsbD k.val = true → ∃ z ∈ x :: l, z.plane = k) → (∀ z ∈ x :: l, portOn s z.chan = true) →
      exec (.triRendezvous id) s = .next (meetTris (x :: l) s) ∧
        (∀ z ∈ x :: l, { z with met := true } ∈ (meetTris (x :: l) s).hub.tris) ∧
        (l = [] → ∀ g ∈ ((meetTris [x] s).chan x.chan).fly, g.no = x.no → g.detail = w32 (triDetail [x] x)))

/-- On a station whose PLAT is not faulted. A session request binds the area of its station, or a free one, and opens it for receiving; with neither it is refused and sets its cause (R377). An accepted answer to the session this channel opened stores the partner's feed tag and starts sending; a refused one fails the copy (R376, R380). COPY_COMPLETE of the copy being sent ends it. NAND_PAGE_ERROR that passes its retry, no injection being armed, is a transient of PLAT; a read that fails twice marks the own image unreadable, with the channel's other images as they were (R369). -/
def Obligations.PlatEvents : Prop :=
  (∀ (c : Fin 9) (st : BitVec 14) (s : State), isStation s c = true → s.chanFenced c = false → (s.hdr (platPage c)).faulted = false →
      (((s.chan c).plat.inbound[0].bound = some st ∨ ((s.chan c).plat.inbound[0].bound = none ∧ (s.chan c).plat.inbound[1].bound ≠ some st)) → ∃ t,
        exec (.platSession c (.request st)) s = .next t ∧ (t.chan c).plat.inbound[0].bound = some st ∧
        (t.chan c).plat.inbound[0].receiving = some [] ∧ (t.chan c).plat.inbound[1] = (s.chan c).plat.inbound[1]) ∧
      ((∀ i : Fin 2, (s.chan c).plat.inbound[i.val].bound ≠ none ∧ (s.chan c).plat.inbound[i.val].bound ≠ some st) → ∃ t,
        exec (.platSession c (.request st)) s = .next t ∧ (t.hdr (platPage c)).errStat.getLsbD 20 = true ∧
        (t.chan c).plat.inbound = (s.chan c).plat.inbound) ∧
      (∀ (o : CopyOut) (tag : W32), (s.chan c).plat.copyOut = some o → o.station = st → o.sending = false → s.Inv → (s.chan c).plat.copyQueue = [] →
        (∃ t, exec (.platSession c (.answer st true tag)) s = .next t ∧
          t.field (platPage c) (partnerOff o.second) 31 16 = tag.toNat % 65536) ∧
        (∃ t, exec (.platSession c (.answer st false tag)) s = .next t ∧ (t.chan c).plat.copyOut = none)) ∧
      ((s.chan c).plat.fetched = none → exec (.platSession c (.noImage st)) s = .next s) ∧
      (∀ gen, exec (.platSession c (.fetch st gen)) s = .next (sessionFetch c st gen s))) ∧
    (∀ (c : Fin 9) (o : CopyOut) (s : State), (s.chan c).plat.copyOut = some o → o.sending = true → (s.chan c).plat.copyQueue = [] →
      exec (.copyComplete c o.second) s = .next (s.modPlat c fun x =>
        { x with copyOut := none, copyValid := x.copyValid.set! (if o.second then 1 else 0) (o.gen = newestGen s c) })) ∧
    (∀ (c : Fin 9) (s : State), s.powered c = true →
      (armed s (platPage c) = none → ∀ program slot gone, exec (.nandPageError c program true slot gone) s = .next (transientEvent (platPage c) false s)) ∧
      (∀ (slot : Fin 3), ∃ t, exec (.nandPageError c false false slot.val false) s = .next t ∧
        (t.chan c).plat.own[slot.val] = (s.chan c).plat.own[slot.val].map (fun i => { i with readable := false }) ∧
        ∀ j : Fin 3, j ≠ slot → (t.chan c).plat.own[j.val] = (s.chan c).plat.own[j.val]) ∧
      ((s.chan c).plat.writing = none → ∀ slot, ∃ t, exec (.nandPageError c true false slot false) s = .next t ∧
        (t.chan c).plat.own = (s.chan c).plat.own))

/-- With the link live, for a request that is no probe and not broadcast, whose sequence is new or unmarked in the window, and that no check refuses: it is entered in the window, and REG_READ reads its registers in ascending order and answers with them; REG_WRITE writes its words in order and answers with the status; MEM_WRITE, over enabled hub ports to a channel whose stacks are in service, stores its payload at its address and answers ACK OK, or ACK RESET with the first bytes alone where the channel is fenced during it, and with none over a disabled port; MEM_READ of such a channel answers with its MEM_DATA frames; BATCH puts each descriptor at the end of its stream's queue; ROUTE_PLAN takes its fragment; ATTEST starts a report. The answer is kept for duplicates unless the request reset ICP (R50, R52, R55, R61 to R66, R70, R71, R78, R309). REPORT_READY sends the report and counts it (R472). So exec answers a next state for each of regRead, regWrite, memWrite, memRead, batch, routePlan, attest and reportReady. -/
def Obligations.HostRequestsAccepted : Prop :=
  ∀ (f : HostFrame) (s : State), linkLive s = true → f.bcast = false → frProbe f = false →
    (classify s.icp f.seq = .fresh ∨ classify s.icp f.seq = .inside) →
    let s0 := fun (k : Fin 2) => observeIngress k (ingressWith f) s
    let s1 := fun (k : Fin 2) => enterWindow f (s0 k)
    let kept := fun (k : Fin 2) (r : TxFrame) (t : State) =>
      if t.epochOf (gpage .icp) = (s0 k).epochOf (gpage .icp) then keepResponse f.seq r t else t
    (refusal 1 0 f (regChk false f s) = none → let b := readBurst (burstAddrs f (regCount false f)) f.cut (s1 0)
      exec (.regRead f) s = .next (kept 0 (response f 3 0 b.1 b.2.1) (transmit (response f 3 0 b.1 b.2.1) b.2.2))) ∧
    (refusal 2 0 f (regChk true f s) = none → let b := writeBurst (burstAddrs f (regCount true f)) (body f) f.cut (s1 0)
      exec (.regWrite f) s = .next (kept 0 (response f 3 0 b.1 []) (answerFirst (response f 3 0 b.1 []) (s1 0) b.2).2)) ∧
    (∀ c : Fin 9, zoneChan f = some c → let a := f.addr.toNat % 2 ^ 40
      (refusal 4 1 f (memWriteChk f s) = none →
        (hostPath s c = false → exec (.memWrite f) s = .next (kept 1 (ackFrame f 1 rsReset) (transmit (ackFrame f 1 rsReset) (hostReset (s1 1))))) ∧
        (∀ n, hostPath s c = true → f.cut = some n → exec (.memWrite f) s = .next (kept 1 (ackFrame f 1 rsReset)
          (transmit (ackFrame f 1 rsReset) (writeMem c hubReq a ((body f).take n) (hostReset (s1 1)))))) ∧
        (hostPath s c = true → f.cut = none → (∀ i : Fin 2, stackFenced s c i = false) → exec (.memWrite f) s = .next (kept 1 (ackFrame f 1 rsOk)
          (transmit (ackFrame f 1 rsOk) (countGet c f.tag a (body f).length
            (deliverReplies c (drainPort c 14 (writeMem c hubReq a (body f) (s1 1))))))))) ∧
      (refusal 5 1 f (memReadChk f s) = none → hostPath s c = true → f.cut = none → (∀ i : Fin 2, stackFenced s c i = false) →
        let l := readFrames a (readLen f)
        exec (.memRead f none) s = .next (kept 1 (nakFrame f 1 rsSequence 0) ((readSpans c hubReq maxTransaction l (s1 1)).each
          (l.zipIdx.map fun e => dataFrame f l.length e.2 (memRds (s.chan c).mem e.1.1 e.1.2)) transmit))) ∧
      (refusal 7 1 f (batchChk f s) = none → hostPath s c = true → ∃ t, exec (.batch f) s = .next t ∧
        ((∀ st : Fin 4, ((s.chan c).stream st).halted = true) → ∀ st : Fin 4, ((t.chan c).stream st).queue =
          ((s.chan c).stream st).queue ++ ((descsOf (body f)).filter fun d => dStream d = st).map fun d => ⟨d, false⟩)) ∧
      (refusal 0xB 0 f (planChk f s) = none → exec (.routePlan f) s = .next (kept 0 (ackFrame f 0 rsOk)
        (transmit (ackFrame f 0 rsOk) (planFrame c (frFirst f) (f.addr.toNat % 2 ^ 32) (body f) (s1 0)).2)))) ∧
    (refusal 0xE 0 f (attestChk f s) = none → ∃ t, exec (.attest f) s = .next t ∧ t.icp.attestReq = some ⟨f.seq, body f, f.src, f.tag⟩ ∧
      exec .reportReady t = .next ((reportFrames ⟨f.seq, body f, f.src, f.tag⟩ (reportBytes t (body f))).foldl (fun u r => transmit r u)
        ((t.modIcp fun i => { i with attestReq := none, attestCache := some (f.seq, reportFrames ⟨f.seq, body f, f.src, f.tag⟩ (reportBytes t (body f))) }).modSec
          fun x => { x with reports := satAdd 0xFFFF x.reports 1 })))

/-- With the link live. A numbered request that a check refuses is answered NAK with that status, is entered in the window, and changes no channel, no memory and no block; a BUSY one is counted and is not entered (R46, R50, R53). A request behind the window is dropped and counted in STALE_CNT. A duplicate other than a MEM_READ is answered from the response cache and is not executed again (R52): no channel, no memory, no supervisor and no power state changes. Every such frame is counted in the ingress buffer of its class first, which may send an XOFF (R43). A broadcast frame other than a REG_READ of zone 0 is filtered (R39). -/
def Obligations.RequestsRefusedOrRepeated : Prop :=
  ∀ (f : HostFrame) (s : State), linkLive s = true →
    ∀ (i : Instr) (typ : Nat) (cls : Fin 2) (chk : Option Nak),
      ((i = .regWrite f ∧ typ = 2 ∧ cls = 0 ∧ chk = regChk true f s) ∨ (i = .memWrite f ∧ typ = 4 ∧ cls = 1 ∧ chk = memWriteChk f s) ∨
        (i = .batch f ∧ typ = 7 ∧ cls = 1 ∧ chk = batchChk f s) ∨ (i = .routePlan f ∧ typ = 0xB ∧ cls = 0 ∧ chk = planChk f s) ∨
        (i = .attest f ∧ typ = 0xE ∧ cls = 0 ∧ chk = attestChk f s)) →
      (f.bcast = true → exec i s = .next (s.bump (gpage .hmac) 0x120 1)) ∧
      (f.bcast = false → frProbe f = false →
        (classify s.icp f.seq = .stale → exec i s = .next ((observeIngress cls (ingressWith f) s).bump (gpage .icp) 0x120 1)) ∧
        (classify s.icp f.seq = .dup → ∃ t, exec i s = .next t ∧ t.chans = s.chans ∧ t.hdrs = s.hdrs ∧ t.hub = s.hub ∧ t.supv = s.supv ∧
          t.pwr = s.pwr ∧ t.sec = s.sec ∧ t.icp.rxSeqHigh = s.icp.rxSeqHigh) ∧
        (∀ st detail, (classify s.icp f.seq = .fresh ∨ classify s.icp f.seq = .inside) → refusal typ cls f chk = some (st, detail) →
          (st = rsBusy → exec i s = .next (sendBusy f cls detail (observeIngress cls (ingressWith f) s))) ∧
          (st ≠ rsBusy → exec i s = .next (transmit (nakFrame f cls st detail) (keepResponse f.seq (nakFrame f cls st detail)
            (enterWindow f (observeIngress cls (ingressWith f) s)))))) ∧
        (∀ k, (sendBusy f cls k s).chans = s.chans ∧ (sendBusy f cls k s).icp.marks = s.icp.marks) ∧
        ((enterWindow f s).chans = s.chans ∧ (classify s.icp f.seq = .fresh → (enterWindow f s).icp.rxSeqHigh = f.seq)))

/-- An ACK that acknowledges nothing new, or more than was sent, changes nothing; one that acknowledges frames advances the value acknowledged (R58). RETX_TIMEOUT of a frame that was sent sends it once more with RETX set, and the second time the host is lost (R58, R59). ETH_LINK_DOWN drops the responses that wait, ETH_LINK_UP opens the link (R60). A PFC frame on a mapped priority holds its class until its quanta end (R40). Filtered frames are counted by their reason (R38, R39). A type that no host may send is refused with TYPE (R47). COAL_TIME sends the channel's records, HOST_LOST_CLEAR clears HOST_LOST, PFC_REFRESH keeps the buffer's level and the standing XOFF (R43, R59, R67). So exec answers a next state for each of ack, retxTimeout, ethLinkDown, ethLinkUp, pfcFrame, pauseQuantaExpiry, pfcRefresh, frameFiltered, nonHostTypeFrame, outqRoom, coalTime and hostLostClear. -/
def Obligations.HostLinkEvents : Prop :=
  ∀ s : State,
    (∃ t, exec .ethLinkDown s = .next t ∧ t.icp = { s.icp with linkUp := false, txWait := .replicate 2 [] } ∧ t.chans = s.chans ∧
      t.hdrs = s.hdrs ∧ t.sent = s.sent) ∧
    (s.hostUp = true → s.icp.linkUp = false → s.supv.hmacRun[0] = true → s.supv.hmacRun[1] = true → s.supv.hmacRun[2] = true →
      ∃ t, exec .ethLinkUp s = .next t ∧ t.icp.linkUp = true ∧ t.chans = s.chans ∧ t.hdrs = s.hdrs) ∧
    (exec .outqRoom s = .next (releaseHeldOut s) ∧ ∀ c, exec (.coalTime c) s = .next (sendCompletions c s)) ∧
    (s.takes (gpage .icp) → ∃ t, exec .hostLostClear s = .next t ∧ t.icp.hostLost = false ∧ t.chans = s.chans ∧ t.hdrs = s.hdrs) ∧
    (linkLive s = true →
      (∀ f : HostFrame, f.bcast = false → f.version = 1 → f.plen = 0 → let n := (f.ack - s.icp.txAcked).toNat
        ((n = 0 ∨ (s.icp.txSeq - 1 - s.icp.txAcked).toNat < n) → exec (.ack f) s = .next s) ∧
        (n ≠ 0 → n ≤ (s.icp.txSeq - 1 - s.icp.txAcked).toNat → ∃ t, exec (.ack f) s = .next t ∧ t.icp.txAcked = f.ack)) ∧
      (∀ (seq : W32) (e : OutqEntry), s.icp.hostLost = false → (s.icp.outq.find? fun x => x.frame.seq = seq) = some e →
        (e.tries = 1 → e.due = none → armed s (gpage .icp) = none → ∃ t, exec (.retxTimeout seq) s = .next t ∧ t.icp.hostLost = false ∧ t.chans = s.chans ∧
          (∃ x ∈ t.icp.outq, x.frame.seq = seq ∧ x.tries = 2)) ∧
        (2 ≤ e.tries → e.due = none → ∃ t, exec (.retxTimeout seq) s = .next t ∧ t.icp.hostLost = true ∧
          (t.hdr (gpage .icp)).errStat.getLsbD 2 = true)) ∧
      (∀ (r : FilterReason), exec (.frameFiltered r) s = .next (s.bump (gpage .hmac)
        (match r with | .oversize => 0x11C | .undersize => 0x120 | .fcsError => 0x118 | .fecUncorrectable => 0x114 | .notAccepted => 0x120) 1)) ∧
      (∀ (f : HostFrame) (typ : BitVec 4), typ.toNat ∉ [1, 2, 4, 5, 7, 0xB, 0xC, 0xE] → f.bcast = false → frProbe f = false →
        (classify s.icp f.seq = .fresh ∨ classify s.icp f.seq = .inside) → let k : Fin 2 := if f.cls.toNat % 2 = 1 then 1 else 0
        exec (.nonHostTypeFrame f typ) s = .next (transmit (nakFrame f k rsType 0) (keepResponse f.seq (nakFrame f k rsType 0)
          (enterWindow f (observeIngress k (ingressWith f) s))))) ∧
      (∀ (k : Fin 2) (enable : BitVec 8) (quanta : List H16), pfcOn s = true → enable.getLsbD (classPri s k) = true →
        (quanta.getD (classPri s k) 0 ≠ 0 → ∃ t, exec (.pfcFrame enable quanta) s = .next t ∧ t.icp.paused[k.val] = true) ∧
        (quanta.getD (classPri s k) 0 = 0 → ∃ t, exec (.pfcFrame enable quanta) s = .next t ∧ t.icp.paused[k.val] = false)) ∧
      (∀ k : Fin 2, exec (.pauseQuantaExpiry k) s = .next (flushClass k (s.modIcp fun i => { i with paused := i.paused.set k.val false }))) ∧
      (∀ (k : Fin 2) (occ : Nat), ∃ t, exec (.pfcRefresh k occ) s = .next t ∧ t.icp.ingress[k.val] = occ ∧
        t.icp.xoff[k.val] = (if pfcOn s then (s.icp.xoff[k.val] && !decide (occ < 2 ^ 20)) || decide (2 ^ 21 < occ) else s.icp.xoff[k.val])))

/-- On a channel in service. FLIT_RECEIVE counts nothing on a port that is not ACTIVE; a data flit that passes its CRC in link order is accepted, one out of order leaves its envelope's acknowledgements and credits and counts toward the replay awaited, the first that fails asks for a replay and leaves the order as it was, and the awaited one, or any flit of a replay, failing again fences the port (R353). Each flit but an IDLE or LINK one is followed by the IDLE flits that tell the peer what is new (R352). IDENT of the same plane and another station, in training, is taken, of another plane sets its cause and is not (R350). CREDIT_INIT after an IDENT makes the link ACTIVE (R349). CREDIT gives the difference of the totals (R351). NAK replays once from the failed flit (R353). -/
def Obligations.TraverseFlits : Prop :=
  ∀ (c : Fin 9) (p : Fin 6) (s : State), travLive s c = true → let q := s.port c p
    (∀ b : List Byte, let f := flitOf b
      (q.state ≠ .active → exec (.flitReceive c p b) s = .next s) ∧
      (q.state = .active → q.lockLost = false →
        (flitCrcOk b = true → f.kind ≠ 2 → f.kind ≠ 3 → flitInjected s c p = none →
          (f.seq ≠ q.rxSeq + 1 → exec (.flitReceive c p b) s = .next (sendIdle c p (let t := envelope c p b s
            t.when (t.port c p).nakking (flitBehind c p)))) ∧
          (f.seq = q.rxSeq + 1 → exec (.flitReceive c p b) s = .next (sendIdle c p (flitAccept c p f (envelope c p b s))))) ∧
        (flitCrcOk b = false → f.kind ≠ 2 → f.kind ≠ 3 →
          (q.nakking = false → q.retryLeft = 0 → ∃ t, exec (.flitReceive c p b) s = .next t ∧ (t.port c p).nakking = true ∧ (t.port c p).rxSeq = q.rxSeq ∧
            (t.chan c).mem = (s.chan c).mem ∧ t.hdrs = s.hdrs) ∧
          ((q.nakking = true ∧ BitVec.ofNat 12 (fld b 8 4) = q.rxSeq + 1) ∨ (q.nakking = false ∧ q.retryLeft ≠ 0) → ∃ t, exec (.flitReceive c p b) s = .next t ∧
            (t.port c p).state = .fenced)))) ∧
    (∀ m : IdentMsg, s.Inv → q.state = .training →
      (s.planeOf c ≠ some m.plane → ∃ t, exec (.ident c p m) s = .next t ∧ (t.hdr (travPage c p)).errStat.getLsbD 20 = true ∧
        (t.port c p).identOk = q.identOk ∧ (t.port c p).state = .training) ∧
      (s.planeOf c = some m.plane → m.station.toNat ≠ ownStation s c → q.peer = none → ∃ t, exec (.ident c p m) s = .next t ∧
        (t.port c p).identOk = true ∧ (t.port c p).peer = some (m.station, m.chan, m.epoch) ∧
        t.reg (travPage c p) 0x104 = w32 (m.station.toNat + m.chan.toNat * 2 ^ 16 + m.epoch.toNat * 2 ^ 20))) ∧
    (∀ l : List Nat, q.state = .training → (q.identOk = true → ∃ t, exec (.creditInit c p l) s = .next t ∧ (t.port c p).state = .active ∧
        (t.port c p).failures = 0) ∧
      (q.identOk = false → exec (.creditInit c p l) s = .next s)) ∧
    (∀ l : List H16, q.state = .active → q.txq = [] → q.credits.length = 8 → q.creditSeen.length = 8 → ∃ t,
      exec (.credit c p l) s = .next t ∧ ∀ i < 8, let d := (l.getD i (q.creditSeen.getD i 0) - q.creditSeen.getD i 0).toNat
        (t.port c p).credits.getD i 0 = q.credits.getD i 0 + (if d < 32768 then d else 0)) ∧
    (∀ n : BitVec 12, q.state = .active →
      (q.replayedOnce = true → exec (.nak c p n) s = .next s) ∧
      (q.replayedOnce = false → ∃ t, exec (.nak c p n) s = .next t ∧ (t.port c p).replay = q.replay ∧
        (t.port c p).line = q.line ++ (q.replay.filter fun x => lseqLe n x.flit.seq).map fun x => flitBytes x.flit q.rxSeq 0 0))

/-- On a channel in service. MARGIN_LOW and WAVE_LOCK_LOSS start the receiver's switch-over to the spare, SWITCH_REQ and LASER_LOW the transmitter's; a fibre whose spare is in use or being brought in for another wavelength fences the port (R346 to R348). SWITCH_READY names the link sequence 64 ahead; SWITCH_AT takes one, of a switch-over of the peer too, and once the next flit is at or past it the retired wavelength is recorded in WAVE_MAP. DOWN and LOSS_OF_SIGNAL put an ACTIVE link in HOLD, HOLD_EXPIRY drops its peer and replay buffer (R363). WINDOW_WAIT_EXPIRY discards the flit at the front with its cause (R361). LIGHT_DETECTED starts training; LOCK_TIMEOUT retires the wavelength; the first failed bring-up is tried again and the second fences the port (R349). FEED_TAG is stored and answered, FEED_ACK ends its repetition; messages without a count go on being repeated (R351); by the next repetition a named switch-over is done (the model's choice, log 74). -/
def Obligations.LinkMessagesAndEvents : Prop :=
  ∀ (c : Fin 9) (p : Fin 6) (s : State), travLive s c = true → s.Inv → let q := s.port c p
    (∀ (fb : Fin 2) (w : Fin 5), q.state = .active →
      (maySwitch s c p fb w true = true →
        exec (.marginLow c p fb w) s = .next (startLinkMsg c p 0x05 (waveBody fb w) none (addSwitch c p ⟨fb, w, true, false, none⟩ s)) ∧
        exec (.waveLockLoss c p fb w) s = .next (startLinkMsg c p 0x05 (waveBody fb w) none (addSwitch c p ⟨fb, w, true, true, none⟩ s))) ∧
      ((q.switchOf fb true).map WaveSwitch.wave = some w → ∃ t, exec (.waveLockLoss c p fb w) s = .next t ∧ (t.port c p).lockLost = true) ∧
      (maySwitch s c p fb w true = false → (q.switchOf fb true).map WaveSwitch.wave ≠ some w →
        ∀ i : Instr, (i = .marginLow c p fb w ∨ i = .waveLockLoss c p fb w) → ∃ t, exec i s = .next t ∧ (t.port c p).state = .fenced) ∧
      (∀ i : Instr, (i = .switchReq c p fb w ∨ i = .laserLow c p fb w) →
        (maySwitch s c p fb w false = true → exec i s = .next (addSwitch c p ⟨fb, w, false, false, none⟩ s)) ∧
        ((q.switchOf fb false).map WaveSwitch.wave = some w → exec i s = .next s) ∧
        (maySwitch s c p fb w false = false → (q.switchOf fb false).map WaveSwitch.wave ≠ some w → ∃ t, exec i s = .next t ∧
          (t.port c p).state = .fenced))) ∧
    (∀ (fb : Fin 2) (w : Fin 5), q.state = .active →
      (((q.switchOf fb false).any fun x => x.wave = w && x.at_.isNone) = true → exec (.switchReady c p fb w) s =
        .next (nameSwitch c p fb false (q.nextSeq + 64) (startLinkMsg c p 0x07 (waveBody fb w ++ toLE 2 (q.nextSeq + 64).toNat) none s))) ∧
      (∀ n, (maySwitch s c p fb w true = true ∨ ((q.switchOf fb true).any fun x => x.wave = w && x.at_.isNone) = true) →
        (∀ x ∈ q.switching, x.fibre = fb → x.rx = true → x.wave = w) → lseqLe n (q.rxSeq + 1) = true →
        ∃ t, exec (.switchAt c p fb w n) s = .next t ∧ t.field (travPage c p) 0x10C (waveLo fb true + 2) (waveLo fb true) = w.val ∧
          (t.hdr (travPage c p)).errStat.getLsbD 17 = true ∧ ((∀ x ∈ q.switching, x.rx = true → x.lost = true → x.fibre = fb) →
            (t.port c p).lockLost = false ∧ (q.lockLost = true → (t.port c p).nakking = true))) ∧
      (∀ n, ((q.switchOf fb true).any fun x => x.wave = w && x.at_.isNone) = true → (∀ x ∈ q.switching, x.at_ = none) →
        lseqLe n (q.rxSeq + 1) = false → exec (.switchAt c p fb w n) s = .next (nameSwitch c p fb true n s))) ∧
    (∀ tag : W32, (q.state = .active → exec (.feedTag c p tag) s = .next (sendLinkMsg c p 0x0A (toLE 4 tag.toNat)
        (s.setReg (travPage c p) 0x108 (w32 (tag.toNat % 65536 + boolBit (tag.getLsbD 31) 16))))) ∧
      exec (.feedAck c p tag) s = .next (s.modPort c p fun q => { q with msgs := q.msgs.filter fun m => !(m.code = 0x08 && m.body = toLE 4 tag.toNat) })) ∧
    (q.state = .active → (∃ t, exec (.down c p) s = .next t ∧ (t.port c p).state = .hold) ∧
      (∃ t, exec (.lossOfSignal c p) s = .next t ∧ (t.port c p).state = .hold ∧ (t.port c p).light = false)) ∧
    (∃ t, exec (.linkMsgRepeat c p) s = .next t ∧ (q.state = .active → ∀ x ∈ (t.port c p).switching, x.at_ = none) ∧
      ((∀ x ∈ q.switching, x.at_ = none) → (∀ m ∈ q.msgs, m.left = none → m ∈ (t.port c p).msgs) ∧ t.hdrs = s.hdrs ∧ t.regs = s.regs)) ∧
    ((q.state = .hold ∨ (q.state = .training ∧ q.peer.isSome = true)) → ∃ t, exec (.holdExpiry c p) s = .next t ∧ (t.port c p).replay = [] ∧ (t.port c p).peer = none ∧
      ((t.port c p).state = .off ∨ (t.port c p).state = .training)) ∧
    ((q.rxHeld = [] → exec (.windowWaitExpiry c p) s = .next s) ∧
      (q.rxHeld ≠ [] → ∃ t, exec (.windowWaitExpiry c p) s = .next t ∧ (t.hdr (travPage c p)).errStat.getLsbD 18 = true)) ∧
    ((q.state = .off ∨ q.state = .training ∨ q.state = .hold) → portWanted s c p = true → ∃ t, exec (.lightDetected c p) s = .next t ∧
      (t.port c p).state = .training ∧ (t.port c p).light = true) ∧
    (q.state = .training →
      (∀ (fb : Fin 2) (w : Fin 5), w ≠ 4 → spareUsed s c p fb true = false → exec (.lockTimeout c p fb w) s = .next (retire c p fb w true s)) ∧
      (q.light = true → ∀ i : Instr, (i = .bringupRetry c p ∨ ∃ fb w, i = .lockTimeout c p fb w ∧ spareUsed s c p fb true = true) →
        (q.failures = 0 → armed s (travPage c p) = none → ∃ t, exec i s = .next t ∧ (t.port c p).failures = 1 ∧ (t.port c p).state = .training) ∧
        (q.failures ≠ 0 → ∃ t, exec i s = .next t ∧ (t.port c p).state = .fenced)) ∧
      exec (.trainingRetry c p) s = .next (sendLinkMsg c p 0x01 (identBody s c p) s))

/-- In every state with canonical tables: a store of bytes at an address of a channel makes exactly these bytes read as written, every other byte of that channel and every byte of the others reads as before, and the memory stays canonical (R318). A memory is determined by what its bytes read as. A stake that is set reads the value, an addition adds modulo 2^32, no other stake of the channel changes, and a wait with value v is satisfied exactly when (stake - v) mod 2^32 is below 2^31 (R109 to R111). -/
def Obligations.MemoryAndStakes : Prop :=
  (∀ (c : Fin 9) (a : Nat) (bs : List Byte) (s : State), s.Inv → let t := s.store c a bs
      (∀ i, (h : i < bs.length) → memRd (t.chan c).mem (a + i) = bs[i]) ∧
      (∀ k, k < a ∨ a + bs.length ≤ k → memRd (t.chan c).mem k = memRd (s.chan c).mem k) ∧
      (∀ d : Fin 9, d ≠ c → t.chan d = s.chan d) ∧ memWf (t.chan c).mem = true) ∧
    (∀ m n : List Host.Cell, memWf m = true → memWf n = true → (∀ k, memRd m k = memRd n k) → m = n) ∧
    (∀ (c : Fin 9) (i n : Nat) (v : W32) (s : State), s.Inv →
      (s.setStake c i v).stake c i = v ∧ (s.addStake c i n).stake c i = s.stake c i + w32 n ∧
      (∀ j, j ≠ i → (s.setStake c i v).stake c j = s.stake c j ∧ (s.addStake c i n).stake c j = s.stake c j) ∧
      (stakeReached s c i n = true ↔ (s.stake c i - w32 n).toNat < 2 ^ 31))
end

