-- ==== Sys2Proof/Laws/Sparse.lean ====
section
/-! SUPPORT. Sparse tables and channel memory: reading after writing, and the canonical form that every write keeps. -/
namespace Sys2Proof.Machine

variable {α : Type} [DecidableEq α] {d : Nat → α}

/-! ## Reading and writing -/

theorem spGet_spSet_same (m : List (Nat × α)) (k : Nat) (v : α) (lo : Nat) (h : spWfFrom d lo m = true) :
    spGet d (spSet d m k v) k = v := by
  induction m generalizing lo with
  | nil => unfold spSet; split <;> simp_all [spGet]
  | cons e m ih =>
    obtain ⟨k', v'⟩ := e
    simp only [spWfFrom, Bool.and_eq_true, decide_eq_true_eq] at h
    have above : ∀ (m : List (Nat × α)) (lo : Nat), spWfFrom d lo m = true → k < lo → spGet d m k = d k := by
      intro m
      induction m with
      | nil => intros; rfl
      | cons e m ih' =>
        intro lo hw hk
        simp only [spWfFrom, Bool.and_eq_true, decide_eq_true_eq] at hw
        have hne : e.1 ≠ k := by omega
        simp only [spGet, hne, if_false]
        exact ih' _ hw.2 (by omega)
    unfold spSet
    split
    · next hlt =>
      split
      · next hv => rw [hv]; have hne : k' ≠ k := by omega
                   simp only [spGet, hne, if_false]; exact above m (k' + 1) h.2 (by omega)
      · simp [spGet]
    · split
      · next hk =>
        subst hk
        split
        · next hv => rw [hv]; exact above m (k + 1) h.2 (by omega)
        · simp [spGet]
      · next hlt hk =>
        have hne : k' ≠ k := fun h => hk h.symm
        simp only [spGet, hne, if_false]
        exact ih _ h.2

theorem spGet_spSet_ne (m : List (Nat × α)) (k j : Nat) (v : α) (h : j ≠ k) : spGet d (spSet d m k v) j = spGet d m j := by
  induction m with
  | nil => unfold spSet; split <;> simp [spGet, h.symm]
  | cons e m ih =>
    obtain ⟨k', v'⟩ := e
    unfold spSet
    split
    · split <;> simp [spGet, h.symm]
    · split
      · next hk => subst hk; split <;> simp [spGet, h.symm]
      · simp only [spGet]; split <;> simp_all

/-! ## The canonical form -/

theorem spWfFrom_mono (m : List (Nat × α)) {lo lo' : Nat} (hle : lo' ≤ lo) (h : spWfFrom d lo m = true) : spWfFrom d lo' m = true := by
  cases m with
  | nil => rfl
  | cons e m =>
    simp only [spWfFrom, Bool.and_eq_true, decide_eq_true_eq] at h ⊢
    exact ⟨⟨by omega, h.1.2⟩, h.2⟩

/-- A write keeps the canonical form. -/
theorem spSet_wf (m : List (Nat × α)) (k : Nat) (v : α) {lo : Nat} (hk : lo ≤ k) (h : spWfFrom d lo m = true) :
    spWfFrom d lo (spSet d m k v) = true := by
  induction m generalizing lo with
  | nil => unfold spSet; split <;> simp [spWfFrom, *]
  | cons e m ih =>
    obtain ⟨k', v'⟩ := e
    have h0 := h
    simp only [spWfFrom, Bool.and_eq_true, decide_eq_true_eq] at h
    unfold spSet
    split
    · next hlt =>
      split
      · exact h0
      · next hv =>
        simp only [spWfFrom, Bool.and_eq_true, decide_eq_true_eq]
        exact ⟨⟨hk, hv⟩, ⟨by omega, h.1.2⟩, h.2⟩
    · split
      · next hkk =>
        subst hkk
        split
        · exact spWfFrom_mono m (by omega) h.2
        · next hv =>
          simp only [spWfFrom, Bool.and_eq_true, decide_eq_true_eq]
          exact ⟨⟨hk, hv⟩, h.2⟩
      · next h1 h2 =>
        simp only [spWfFrom, Bool.and_eq_true, decide_eq_true_eq]
        exact ⟨h.1, ih (by omega) h.2⟩

theorem spSet_wf0 (m : List (Nat × α)) (k : Nat) (v : α) (h : spWfFrom d 0 m = true) : spWfFrom d 0 (spSet d m k v) = true :=
  spSet_wf m k v (Nat.zero_le k) h

/-- Dropping entries keeps the canonical form. -/
theorem spFilter_wf (m : List (Nat × α)) (p : Nat × α → Bool) {lo : Nat} (h : spWfFrom d lo m = true) :
    spWfFrom d lo (m.filter p) = true := by
  induction m generalizing lo with
  | nil => rfl
  | cons e m ih =>
    simp only [spWfFrom, Bool.and_eq_true, decide_eq_true_eq] at h
    simp only [List.filter]
    split
    · simp only [spWfFrom, Bool.and_eq_true, decide_eq_true_eq]
      exact ⟨h.1, ih h.2⟩
    · exact spWfFrom_mono _ (by omega) (ih h.2)

/-! ## Channel memory -/

/-- A write below a bound keeps every key below it. -/
theorem spSet_below (m : List (Nat × α)) (k top : Nat) (v : α) (hk : k < top) (h : ∀ e ∈ m, e.1 < top) :
    ∀ e ∈ spSet d m k v, e.1 < top := by
  induction m with
  | nil => unfold spSet; split <;> simp [hk]
  | cons e m ih =>
    obtain ⟨k', v'⟩ := e
    have hm : ∀ e ∈ m, e.1 < top := fun e he => h e (List.mem_cons_of_mem _ he)
    have h' : k' < top := h (k', v') List.mem_cons_self
    unfold spSet
    intro e he
    split at he
    · split at he
      · exact h e he
      · cases he with
        | head => exact hk
        | tail _ he => exact h e he
    · split at he
      · split at he
        · exact hm e he
        · cases he with
          | head => exact hk
          | tail _ he => exact hm e he
      · cases he with
        | head => exact h'
        | tail _ he => exact ih hm e he

/-- A byte written keeps a memory canonical. -/
theorem memWr_wf (m : List Host.Cell) (a : Nat) (b : Byte) (h : memWf m = true) : memWf (memWr m a b) = true := by
  simp only [memWf, Bool.and_eq_true, List.all_eq_true, decide_eq_true_eq] at h
  unfold memWr
  split
  · next ha =>
    simp only [memWf, Bool.and_eq_true, List.all_eq_true, decide_eq_true_eq]
    exact ⟨spSet_wf0 m a b h.1, spSet_below m a hbmSize b ha h.2⟩
  · simpa only [memWf, Bool.and_eq_true, List.all_eq_true, decide_eq_true_eq] using h

/-- Every write of bytes keeps a memory canonical. -/
theorem memWrs_wf (m : List Host.Cell) (a : Nat) (bs : List Byte) (h : memWf m = true) : memWf (memWrs m a bs) = true := by
  induction bs generalizing m a with
  | nil => exact h
  | cons b bs ih => exact ih _ _ (memWr_wf m a b h)

/-- A byte of the map reads as it was last written. -/
theorem memRd_memWr_same (m : List Host.Cell) (a : Nat) (b : Byte) (h : memWf m = true) (ha : a < hbmSize) :
    memRd (memWr m a b) a = b := by
  simp only [memWf, Bool.and_eq_true] at h
  simp only [memRd, memWr, if_pos ha]
  exact spGet_spSet_same m a b 0 h.1

/-- A write leaves every other byte. -/
theorem memRd_memWr_ne (m : List Host.Cell) (a j : Nat) (b : Byte) (h : j ≠ a) : memRd (memWr m a b) j = memRd m j := by
  unfold memRd memWr
  split
  · split
    · exact spGet_spSet_ne m a j b h
    · rfl
  · rfl

end Sys2Proof.Machine
end

