-- ==== Sys2Proof/Laws/Keeps.lean ====
section
/-! SUPPORT. `Keeps s t`: what every operation keeps on the way from `s` to `t`. The queue of waiting commands stands, the sparse tables
stay canonical, the plane map stays legal. One lemma per operation, in the form "what holds of s holds of the operation on s". -/
namespace Sys2Proof.Machine
set_option linter.unusedTactic false
set_option linter.unreachableTactic false
set_option linter.unnecessarySeqFocus false

structure Keeps (s t : State) : Prop where
  pending : t.pending = s.pending
  wf : s.wf → t.wf
  legal : s.mapLegal → t.mapLegal

theorem Keeps.refl (s : State) : Keeps s s := ⟨rfl, id, id⟩

theorem Keeps.trans {s t u : State} (h : Keeps s t) (k : Keeps t u) : Keeps s u :=
  ⟨k.pending.trans h.pending, k.wf ∘ h.wf, k.legal ∘ h.legal⟩

variable {r s : State}

/-- A change outside the queue, the tables, the channels and the supervisor. -/
theorem Keeps.same {t : State} (h : Keeps r s) (hp : t.pending = s.pending) (hh : t.hdrs = s.hdrs) (hr : t.regs = s.regs)
    (hc : t.chans = s.chans) (hs : t.supv.planeMap = s.supv.planeMap) : Keeps r t := by
  refine ⟨hp.trans h.pending, fun hw => ?_, fun hl => ?_⟩
  · obtain ⟨h1, h2, h3⟩ := h.wf hw
    exact ⟨hh ▸ h1, hr ▸ h2, fun c => by simpa only [State.chan, hc] using h3 c⟩
  · have := h.legal hl
    simpa only [State.mapLegal, State.planeField, hs] using this

theorem Keeps.modIcp (h : Keeps r s) (f : IcpS → IcpS) : Keeps r (s.modIcp f) := h.same rfl rfl rfl rfl rfl
theorem Keeps.modHub (h : Keeps r s) (f : HubS → HubS) : Keeps r (s.modHub f) := h.same rfl rfl rfl rfl rfl
theorem Keeps.modPwr (h : Keeps r s) (f : PwrS → PwrS) : Keeps r (s.modPwr f) := h.same rfl rfl rfl rfl rfl
theorem Keeps.modSec (h : Keeps r s) (f : SecS → SecS) : Keeps r (s.modSec f) := h.same rfl rfl rfl rfl rfl
theorem Keeps.modBook (h : Keeps r s) (f : BookS → BookS) : Keeps r (s.modBook f) := h.same rfl rfl rfl rfl rfl
theorem Keeps.modRing (h : Keeps r s) (i : Fin 10) (f : Ring → Ring) : Keeps r (s.modRing i f) := h.same rfl rfl rfl rfl rfl

theorem Keeps.modSupv (h : Keeps r s) {f : SupvS → SupvS} (hf : (f s.supv).planeMap = s.supv.planeMap) : Keeps r (s.modSupv f) :=
  h.same rfl rfl rfl rfl hf

theorem Keeps.setSent (h : Keeps r s) (x : List Sent) : Keeps r { s with sent := x } := h.same rfl rfl rfl rfl rfl
theorem Keeps.setSlots (h : Keeps r s) (x : List CairnSlot) : Keeps r { s with slots := x } := h.same rfl rfl rfl rfl rfl
theorem Keeps.setRings (h : Keeps r s) (x : Vector Ring 10) : Keeps r { s with rings := x } := h.same rfl rfl rfl rfl rfl
theorem Keeps.setRegOut (h : Keeps r s) (x : Option (H16 × W32)) : Keeps r { s with regOut := x } := h.same rfl rfl rfl rfl rfl
theorem Keeps.setLoLatch (h : Keeps r s) (x : List (Nat × Option W32)) : Keeps r { s with loLatch := x } := h.same rfl rfl rfl rfl rfl
theorem Keeps.setLoHeld (h : Keeps r s) (x : List (Nat × Option W32)) : Keeps r { s with loHeld := x } := h.same rfl rfl rfl rfl rfl
theorem Keeps.setDraws (h : Keeps r s) (x : Nat) : Keeps r { s with draws := x } := h.same rfl rfl rfl rfl rfl
theorem Keeps.setCycles (h : Keeps r s) (x : Nat) : Keeps r { s with refCycles := x } := h.same rfl rfl rfl rfl rfl

/-- A change that empties both tables of registers. -/
theorem Keeps.noTables (h : Keeps r s) {rc dr : Nat} {ll lh : List (Nat × Option W32)} {ro : Option (H16 × W32)} {se : List Sent} {ic : IcpS}
    {hu : HubS} {ri : Vector Ring 10} {sl : List CairnSlot} {bo : BookS} {sc : SecS} {pw : PwrS} :
    Keeps r ⟨s.pending, rc, dr, [], [], ll, lh, ro, se, ic, s.chans, hu, ri, sl, bo, sc, pw, s.supv⟩ :=
  ⟨h.pending, fun hw => ⟨rfl, rfl, (h.wf hw).2.2⟩, h.legal⟩

/-- A plane map as R22 allows it. -/
def MapOk (m : W32) : Prop := ∀ k : Fin 8, bitsOf m.toNat (4 * k.val + 3) (4 * k.val) = k.val ∨ bitsOf m.toNat (4 * k.val + 3) (4 * k.val) = 8

/-- A change of the plane map to one that R22 allows. -/
theorem Keeps.modSupvMap (h : Keeps r s) {f : SupvS → SupvS} (hf : MapOk (f s.supv).planeMap) : Keeps r (s.modSupv f) :=
  ⟨h.pending, fun hw => h.wf hw, fun _ => hf⟩

/-- A change of any of the parts that hold no table and no plane map. -/
theorem Keeps.any (h : Keeps r s) {rc dr : Nat} {ll lh : List (Nat × Option W32)} {ro : Option (H16 × W32)} {se : List Sent} {ic : IcpS}
    {hu : HubS} {ri : Vector Ring 10} {sl : List CairnSlot} {bo : BookS} {sc : SecS} {pw : PwrS} :
    Keeps r ⟨s.pending, rc, dr, s.hdrs, s.regs, ll, lh, ro, se, ic, s.chans, hu, ri, sl, bo, sc, pw, s.supv⟩ := h.same rfl rfl rfl rfl rfl

theorem Keeps.draw (h : Keeps r s) : Keeps r s.draw.2 := h.same rfl rfl rfl rfl rfl

/-- Channels that stay canonical. -/
theorem Keeps.chans (h : Keeps r s) {v : Vector Chan 9} (hv : ∀ c : Fin 9, (s.chan c).wf = true → v[c.val].wf = true) :
    Keeps r { s with chans := v } := by
  refine ⟨h.pending, fun hw => ?_, h.legal⟩
  obtain ⟨h1, h2, h3⟩ := h.wf hw
  exact ⟨h1, h2, fun c => hv c (h3 c)⟩

theorem Keeps.modChan (h : Keeps r s) (c : Fin 9) {f : Chan → Chan} (hf : (s.chan c).wf = true → (f (s.chan c)).wf = true) :
    Keeps r (s.modChan c f) := by
  refine h.chans fun d hd => ?_
  by_cases hne : d = c
  · subst hne
    rw [Vector.getElem_set_self]
    exact hf hd
  · have hv : c.val ≠ d.val := fun e => hne (Fin.ext e.symm)
    rw [Vector.getElem_set_ne _ _ hv]
    exact hd

theorem Keeps.mapChans (h : Keeps r s) {f : Fin 9 → Chan → Chan} (hf : ∀ c, (s.chan c).wf = true → (f c (s.chan c)).wf = true) :
    Keeps r (s.mapChans f) := by
  refine h.chans fun c hc => ?_
  rw [Vector.getElem_ofFn]
  exact hf c hc

/-- A change of a channel outside its memory and its stakes. -/
theorem Chan.wf_same {a b : Chan} (h : a.wf = true) (hm : b.mem = a.mem) (hs : b.stakes = a.stakes) : b.wf = true := by
  simpa only [Chan.wf, hm, hs] using h

/-- A change of a channel that forgets every stake. -/
theorem Chan.wf_noStakes {a b : Chan} (h : a.wf = true) (hm : b.mem = a.mem) (hs : b.stakes = []) : b.wf = true := by
  simp only [Chan.wf, Bool.and_eq_true, hm, hs] at h ⊢
  exact ⟨h.1, rfl⟩

/-- A change of a channel that forgets its memory. -/
theorem Chan.wf_noMem {a b : Chan} (h : a.wf = true) (hm : b.mem = []) (hs : b.stakes = a.stakes) : b.wf = true := by
  simp only [Chan.wf, Bool.and_eq_true, hm, hs] at h ⊢
  exact ⟨rfl, h.2⟩

/-- A channel with nothing in its memory and no stake counted. -/
theorem Chan.wf_empty {b : Chan} (hm : b.mem = []) (hs : b.stakes = []) : b.wf = true := by
  simp only [Chan.wf, hm, hs]
  rfl

theorem Keeps.modChanSame (h : Keeps r s) (c : Fin 9) {f : Chan → Chan} (hm : (f (s.chan c)).mem = (s.chan c).mem)
    (hs : (f (s.chan c)).stakes = (s.chan c).stakes) : Keeps r (s.modChan c f) :=
  h.modChan c fun hw => Chan.wf_same hw hm hs

theorem Keeps.modStream (h : Keeps r s) (c : Fin 9) (st : Fin 4) (f : Stream → Stream) : Keeps r (s.modStream c st f) :=
  h.modChanSame c rfl rfl
theorem Keeps.modPort (h : Keeps r s) (c : Fin 9) (p : Fin 6) (f : Port → Port) : Keeps r (s.modPort c p f) := h.modChanSame c rfl rfl
theorem Keeps.modArray (h : Keeps r s) (c : Fin 9) (a : Fin 2) (f : ArrayS → ArrayS) : Keeps r (s.modArray c a f) :=
  h.modChanSame c rfl rfl
theorem Keeps.modPlat (h : Keeps r s) (c : Fin 9) (f : PlatS → PlatS) : Keeps r (s.modPlat c f) := h.modChanSame c rfl rfl
theorem Keeps.modRoute (h : Keeps r s) (c : Fin 9) (f : RouteS → RouteS) : Keeps r (s.modRoute c f) := h.modChanSame c rfl rfl

/-- A write of channel memory. -/
theorem Keeps.store (h : Keeps r s) (c : Fin 9) (a : Nat) (bs : List Byte) : Keeps r (s.store c a bs) :=
  h.modChan c fun hw => by
    simp only [Chan.wf, Bool.and_eq_true] at hw ⊢
    exact ⟨memWrs_wf _ a bs hw.1, hw.2⟩

theorem Keeps.setStake (h : Keeps r s) (c : Fin 9) (i : Nat) (v : W32) : Keeps r (s.setStake c i v) :=
  h.modChan c fun hw => by
    simp only [Chan.wf, Bool.and_eq_true] at hw ⊢
    exact ⟨hw.1, spSet_wf0 _ i v hw.2⟩

theorem Keeps.addStake (h : Keeps r s) (c : Fin 9) (i n : Nat) : Keeps r (s.addStake c i n) := h.setStake c i _

theorem Keeps.modHdr (h : Keeps r s) (p : Page) (f : Hdr → Hdr) : Keeps r (s.modHdr p f) := by
  refine ⟨h.pending, fun hw => ?_, h.legal⟩
  obtain ⟨h1, h2, h3⟩ := h.wf hw
  exact ⟨spSet_wf0 _ _ _ h1, h2, h3⟩

theorem Keeps.setRegAt (h : Keeps r s) (a : Nat) (v : W32) : Keeps r (s.setRegAt a v) := by
  refine ⟨h.pending, fun hw => ?_, h.legal⟩
  obtain ⟨h1, h2, h3⟩ := h.wf hw
  exact ⟨h1, spSet_wf0 _ _ _ h2, h3⟩

theorem Keeps.setReg (h : Keeps r s) (p : Page) (off : Nat) (v : W32) : Keeps r (s.setReg p off v) := h.setRegAt _ v
theorem Keeps.bump (h : Keeps r s) (p : Page) (off n : Nat) : Keeps r (s.bump p off n) := h.setReg p off _
theorem Keeps.bumpField (h : Keeps r s) (p : Page) (off hi lo n : Nat) : Keeps r (s.bumpField p off hi lo n) := h.setReg p off _
theorem Keeps.setField (h : Keeps r s) (p : Page) (off hi lo v : Nat) : Keeps r (s.setField p off hi lo v) := h.setReg p off _
theorem Keeps.setIdx (h : Keeps r s) (path : Path) (p : Page) (off : Nat) (v : W32) : Keeps r (s.setIdx path p off v) := h.setRegAt _ v

theorem Keeps.clearRegs (h : Keeps r s) (p : Page) : Keeps r (s.clearRegs p) := by
  refine ⟨h.pending, fun hw => ?_, h.legal⟩
  obtain ⟨h1, h2, h3⟩ := h.wf hw
  exact ⟨h1, spFilter_wf _ _ h2, h3⟩

/-! ## Combinators -/

theorem Keeps.each {β : Type} (h : Keeps r s) (l : List β) {f : β → State → State} (hf : ∀ x t, Keeps r t → Keeps r (f x t)) :
    Keeps r (s.each l f) := by
  induction l generalizing s with
  | nil => exact h
  | cons x l ih => exact ih (hf x s h)

theorem Keeps.when (h : Keeps r s) (b : Bool) {f : State → State} (hf : ∀ t, Keeps r t → Keeps r (f t)) : Keeps r (s.when b f) := by
  cases b
  · exact h
  · exact hf s h

theorem Keeps.repeat (h : Keeps r s) {f : State → State} (hf : ∀ t, Keeps r t → Keeps r (f t)) (n : Nat) :
    Keeps r (Nat.repeat f n s) := by
  induction n with
  | zero => exact h
  | succ n ih => exact hf _ ih

/-! ## Operations that answer more than a state -/

/-- What an operation that may answer no state keeps. -/
def OptKeeps (r : State) (o : Option State) : Prop := ∀ t, o = some t → Keeps r t

/-- What an operation that answers a value beside the state keeps. -/
def SndKeeps {α : Type} (r : State) (p : α × State) : Prop := Keeps r p.2

/-- What a command keeps where it answers a next state. -/
def OutKeeps (r : State) (o : Host.Outcome State Fault Refusal) : Prop := ∀ t, o = .next t → Keeps r t

theorem OptKeeps.none : OptKeeps r Option.none := fun _ h => nomatch h
theorem OptKeeps.some (h : Keeps r s) : OptKeeps r (Option.some s) := fun _ e => Option.some.inj e ▸ h
theorem OptKeeps.elim {o : Option State} {t : State} (h : OptKeeps r o) (e : o = Option.some t) : Keeps r t := h t e
theorem OptKeeps.getD {o : Option State} (h : OptKeeps r o) (k : Keeps r s) : Keeps r (o.getD s) := by
  cases o with
  | none => exact k
  | some t => exact h t rfl
theorem OptKeeps.orElse {o p : Option State} (h : OptKeeps r o) (k : OptKeeps r p) : OptKeeps r (o <|> p) := by
  cases o with
  | none => exact k
  | some t => exact h

theorem SndKeeps.pair {α : Type} {a : α} (h : Keeps r s) : SndKeeps r (a, s) := h
theorem SndKeeps.elim {α : Type} {a : α} {p : α × State} {t : State} (h : SndKeeps r p) (e : p = (a, t)) : Keeps r t := by
  subst e; exact h
theorem SndKeeps.elim2 {α β : Type} {a : α} {b : β} {p : α × β × State} {t : State} (h : SndKeeps r p.2) (e : p = (a, b, t)) : Keeps r t := by
  subst e; exact h
theorem SndKeeps.snd {α : Type} {p : α × State} (h : SndKeeps r p) : Keeps r p.2 := h
theorem SndKeeps.draw (h : Keeps r s) : SndKeeps r s.draw := h.draw

theorem OutKeeps.next (h : Keeps r s) : OutKeeps r (.next s) := fun _ e => by cases e; exact h
theorem OutKeeps.fault {f : Fault} : OutKeeps r (.fault f) := fun _ e => nomatch e
theorem OutKeeps.refused {f : Refusal} : OutKeeps r (.refused f) := fun _ e => nomatch e

end Sys2Proof.Machine
end

