-- ==== Sys2Proof/Laws/KeepsMem.lean ====
section
/-! SUPPORT. What every operation of Machine/Mem.lean keeps (see Keeps). -/
namespace Sys2Proof.Machine
set_option linter.unusedTactic false
set_option linter.unreachableTactic false
set_option linter.unnecessarySeqFocus false
variable {σ s : State}

theorem keeps_makeRoom (h : Keeps σ s) (c : Fin 9) (l : Nat) : Keeps σ (makeRoom c l s) := by
  unfold makeRoom
  try extract_lets
  repeat' first
    | with_reducible exact h
    | with_reducible assumption
    | (with_reducible apply SndKeeps.snd; with_reducible first | apply SndKeeps.draw)
    | (with_reducible refine Keeps.modChanSame ?_ _ ?_ ?_; rotate_left; with_reducible rfl; with_reducible rfl)
    | (with_reducible refine Keeps.modChan ?_ _ ?_; rotate_left; focus (intro hw; (repeat' split) <;> first | (refine Chan.wf_same hw ?_ ?_ <;> with_reducible rfl) | (refine Chan.wf_noStakes hw ?_ ?_ <;> with_reducible rfl) | (refine Chan.wf_noMem hw ?_ ?_ <;> with_reducible rfl) | (exact Chan.wf_empty rfl rfl)))
    | with_reducible apply Keeps.draw
    | with_reducible apply SndKeeps.draw
    | (with_reducible apply Keeps.any; with_reducible first | exact h | assumption | refine SndKeeps.elim ?_ (by assumption))
    | split
    | extract_lets
    | (clear_value *; split)
    | ((with_reducible conv => arg 2; whnf); first | split | extract_lets)
    | with_reducible apply SndKeeps.pair
    | with_reducible exact OptKeeps.none
    | with_reducible apply OptKeeps.some
    | (with_reducible refine OptKeeps.elim ?_ (by assumption))
    | (with_reducible refine SndKeeps.elim2 ?_ (by assumption))
    | (with_reducible refine SndKeeps.elim ?_ (by assumption))
    | (dsimp only; fail_if_success extract_lets)
    | with_reducible intro _

theorem keeps_setLine (h : Keeps σ s) (c : Fin 9) (l : Nat) (x : CLine) : Keeps σ (setLine c l x s) := by
  unfold setLine
  try extract_lets
  repeat' first
    | with_reducible exact h
    | with_reducible assumption
    | (with_reducible refine Keeps.modChanSame ?_ _ ?_ ?_; rotate_left; with_reducible rfl; with_reducible rfl)
    | (with_reducible refine Keeps.modChan ?_ _ ?_; rotate_left; focus (intro hw; (repeat' split) <;> first | (refine Chan.wf_same hw ?_ ?_ <;> with_reducible rfl) | (refine Chan.wf_noStakes hw ?_ ?_ <;> with_reducible rfl) | (refine Chan.wf_noMem hw ?_ ?_ <;> with_reducible rfl) | (exact Chan.wf_empty rfl rfl)))
    | (with_reducible apply Keeps.any; with_reducible first | exact h | assumption)
    | split
    | extract_lets
    | ((with_reducible conv => arg 2; whnf); first | split | extract_lets)
    | with_reducible intro _

theorem keeps_bump64 (h : Keeps σ s) (p : Page) (off n : Nat) : Keeps σ (s.bump64 p off n) := by
  unfold State.bump64
  try extract_lets
  repeat' first
    | with_reducible exact h
    | with_reducible assumption
    | with_reducible apply Keeps.setReg
    | split
    | extract_lets
    | ((with_reducible conv => arg 2; whnf); first | split | extract_lets)
    | with_reducible intro _

theorem keeps_readLine (h : Keeps σ s) (c : Fin 9) (e : Nat × BitVec 4) : Keeps σ (readLine c e s) := by
  unfold readLine
  try extract_lets
  repeat' first
    | with_reducible exact h
    | with_reducible assumption
    | with_reducible apply keeps_makeRoom
    | with_reducible apply keeps_setLine
    | with_reducible apply keeps_bump64
    | split
    | extract_lets
    | ((with_reducible conv => arg 2; whnf); first | split | extract_lets)
    | with_reducible intro _

theorem keeps_writeLine (h : Keeps σ s) (c : Fin 9) (e : Nat × BitVec 4) : Keeps σ (writeLine c e s) := by
  unfold writeLine
  try extract_lets
  repeat' first
    | with_reducible exact h
    | with_reducible assumption
    | with_reducible apply keeps_makeRoom
    | with_reducible apply keeps_setLine
    | (with_reducible apply SndKeeps.snd; with_reducible first | apply SndKeeps.draw | apply keeps_makeRoom | apply keeps_setLine)
    | split
    | extract_lets
    | ((with_reducible conv => arg 2; whnf); first | split | extract_lets)
    | with_reducible intro _

theorem keeps_writeBackLines (h : Keeps σ s) (c : Fin 9) : Keeps σ (writeBackLines c s) := by
  unfold writeBackLines
  try extract_lets
  repeat' first
    | with_reducible exact h
    | with_reducible assumption
    | (with_reducible apply SndKeeps.snd; with_reducible first | apply SndKeeps.draw)
    | (with_reducible refine Keeps.modChanSame ?_ _ ?_ ?_; rotate_left; with_reducible rfl; with_reducible rfl)
    | (with_reducible refine Keeps.modChan ?_ _ ?_; rotate_left; focus (intro hw; (repeat' split) <;> first | (refine Chan.wf_same hw ?_ ?_ <;> with_reducible rfl) | (refine Chan.wf_noStakes hw ?_ ?_ <;> with_reducible rfl) | (refine Chan.wf_noMem hw ?_ ?_ <;> with_reducible rfl) | (exact Chan.wf_empty rfl rfl)))
    | (with_reducible apply Keeps.any; with_reducible first | exact h | assumption)
    | split
    | extract_lets
    | ((with_reducible conv => arg 2; whnf); first | split | extract_lets)
    | with_reducible intro _

theorem keeps_invalidateLines (h : Keeps σ s) (c : Fin 9) : Keeps σ (invalidateLines c s) := by
  unfold invalidateLines
  try extract_lets
  repeat' first
    | with_reducible exact h
    | with_reducible assumption
    | (with_reducible apply SndKeeps.snd; with_reducible first | apply SndKeeps.draw)
    | (with_reducible refine Keeps.modChanSame ?_ _ ?_ ?_; rotate_left; with_reducible rfl; with_reducible rfl)
    | (with_reducible refine Keeps.modChan ?_ _ ?_; rotate_left; focus (intro hw; (repeat' split) <;> first | (refine Chan.wf_same hw ?_ ?_ <;> with_reducible rfl) | (refine Chan.wf_noStakes hw ?_ ?_ <;> with_reducible rfl) | (refine Chan.wf_noMem hw ?_ ?_ <;> with_reducible rfl) | (exact Chan.wf_empty rfl rfl)))
    | (with_reducible apply Keeps.any; with_reducible first | exact h | assumption)
    | split
    | extract_lets
    | ((with_reducible conv => arg 2; whnf); first | split | extract_lets)
    | with_reducible intro _

theorem keeps_modMerid (h : Keeps σ s) (c : Fin 9) (f : MeridS → MeridS) : Keeps σ (s.modMerid c f) := by
  unfold State.modMerid
  try extract_lets
  repeat' first
    | with_reducible exact h
    | with_reducible assumption
    | (with_reducible refine Keeps.modChanSame ?_ _ ?_ ?_; rotate_left; with_reducible rfl; with_reducible rfl)
    | (with_reducible refine Keeps.modChan ?_ _ ?_; rotate_left; focus (intro hw; (repeat' split) <;> first | (refine Chan.wf_same hw ?_ ?_ <;> with_reducible rfl) | (refine Chan.wf_noStakes hw ?_ ?_ <;> with_reducible rfl) | (refine Chan.wf_noMem hw ?_ ?_ <;> with_reducible rfl) | (exact Chan.wf_empty rfl rfl)))
    | (with_reducible apply Keeps.any; with_reducible first | exact h | assumption)
    | split
    | extract_lets
    | ((with_reducible conv => arg 2; whnf); first | split | extract_lets)
    | with_reducible intro _

theorem keeps_takeReplies (h : Keeps σ s) (c : Fin 9) (stale : Page → Nat → State → State) (hstale : ∀ x0 x1 t, Keeps σ t → Keeps σ (stale x0 x1 t)) : Keeps σ (takeReplies c stale s) := by
  unfold takeReplies
  try extract_lets
  repeat' first
    | with_reducible exact h
    | with_reducible assumption
    | with_reducible apply hstale
    | with_reducible apply keeps_modMerid
    | (with_reducible apply SndKeeps.snd; with_reducible first | apply SndKeeps.draw | apply hstale | apply keeps_modMerid)
    | with_reducible refine Keeps.each ?_ _ (fun _ _ _ => ?_)
    | (with_reducible apply Keeps.any; with_reducible first | exact h | assumption | apply keeps_modMerid)
    | split
    | extract_lets
    | ((with_reducible conv => arg 2; whnf); first | split | extract_lets)
    | with_reducible intro _

theorem keeps_busCycles (h : Keeps σ s) (c : Fin 9) (n : Nat) : Keeps σ (busCycles c n s) := by
  unfold busCycles
  try extract_lets
  repeat' first
    | with_reducible exact h
    | with_reducible assumption
    | with_reducible apply keeps_modMerid
    | with_reducible refine Keeps.repeat ?_ (fun _ _ => ?_) _
    | split
    | extract_lets
    | ((with_reducible conv => arg 2; whnf); first | split | extract_lets)
    | with_reducible intro _

theorem keeps_drainPort (h : Keeps σ s) (c : Fin 9) (p : Fin 16) : Keeps σ (drainPort c p s) := by
  unfold drainPort
  try extract_lets
  repeat' first
    | with_reducible exact h
    | with_reducible assumption
    | with_reducible apply keeps_modMerid
    | split
    | extract_lets
    | ((with_reducible conv => arg 2; whnf); first | split | extract_lets)
    | with_reducible intro _

theorem keeps_endLock (h : Keeps σ s) (c : Fin 9) (p : Fin 16) : Keeps σ (endLock c p s) := by
  unfold endLock
  try extract_lets
  repeat' first
    | with_reducible exact h
    | with_reducible assumption
    | with_reducible apply keeps_modMerid
    | (with_reducible apply Keeps.any; with_reducible first | exact h | assumption | apply keeps_modMerid)
    | split
    | extract_lets
    | ((with_reducible conv => arg 2; whnf); first | split | extract_lets)
    | with_reducible intro _

theorem keeps_withdrawPage (h : Keeps σ s) (p : Page) : Keeps σ (withdrawPage p s) := by
  unfold withdrawPage
  try extract_lets
  repeat' first
    | with_reducible exact h
    | with_reducible assumption
    | with_reducible apply keeps_modMerid
    | with_reducible apply Keeps.draw
    | with_reducible apply SndKeeps.draw
    | (with_reducible apply Keeps.any; with_reducible first | exact h | assumption | apply keeps_modMerid)
    | split
    | extract_lets
    | ((with_reducible conv => arg 2; whnf); first | split | extract_lets)
    | with_reducible intro _

theorem keeps_requestRuns (h : Keeps σ s) (c : Fin 9) (p : Fin 16) (l : List MRun) : Keeps σ (requestRuns c p l s) := by
  unfold requestRuns
  try extract_lets
  repeat' first
    | with_reducible exact h
    | with_reducible assumption
    | with_reducible apply keeps_modMerid
    | (with_reducible apply Keeps.any; with_reducible first | exact h | assumption | apply keeps_modMerid)
    | split
    | extract_lets
    | ((with_reducible conv => arg 2; whnf); first | split | extract_lets)
    | with_reducible intro _

theorem keeps_flushHeld (h : Keeps σ s) (c : Fin 9) : Keeps σ (flushHeld c s) := by
  unfold flushHeld
  try extract_lets
  repeat' first
    | with_reducible exact h
    | with_reducible assumption
    | with_reducible apply keeps_writeBackLines
    | split
    | extract_lets
    | ((with_reducible conv => arg 2; whnf); first | split | extract_lets)
    | with_reducible intro _

theorem keeps_readSpans (h : Keeps σ s) (c : Fin 9) (q : Requester) (unit : Nat) (l : List Span) : Keeps σ (readSpans c q unit l s) := by
  unfold readSpans
  try extract_lets
  repeat' first
    | with_reducible exact h
    | with_reducible assumption
    | with_reducible apply keeps_flushHeld
    | with_reducible apply keeps_requestRuns
    | with_reducible apply keeps_readLine
    | (with_reducible apply SndKeeps.snd; with_reducible first | apply SndKeeps.draw | apply keeps_flushHeld | apply keeps_requestRuns | apply keeps_readLine)
    | with_reducible refine Keeps.each ?_ _ (fun _ _ _ => ?_)
    | split
    | extract_lets
    | ((with_reducible conv => arg 2; whnf); first | split | extract_lets)
    | with_reducible intro _

theorem keeps_writeMem (h : Keeps σ s) (c : Fin 9) (q : Requester) (a : Nat) (bs : List Byte) : Keeps σ (writeMem c q a bs s) := by
  unfold writeMem
  try extract_lets
  repeat' first
    | with_reducible exact h
    | with_reducible assumption
    | with_reducible apply keeps_flushHeld
    | with_reducible apply keeps_requestRuns
    | with_reducible apply Keeps.store
    | with_reducible apply keeps_writeLine
    | with_reducible refine Keeps.each ?_ _ (fun _ _ _ => ?_)
    | split
    | extract_lets
    | ((with_reducible conv => arg 2; whnf); first | split | extract_lets)
    | with_reducible intro _

theorem keeps_lockedUpdate (h : Keeps σ s) (c : Fin 9) (q : Requester) (a : Nat) (f : List Byte → List Byte) (n : Nat) : Keeps σ (lockedUpdate c q a f n s) := by
  unfold lockedUpdate
  try extract_lets
  repeat' first
    | with_reducible exact h
    | with_reducible assumption
    | with_reducible apply keeps_requestRuns
    | with_reducible apply keeps_readLine
    | with_reducible apply Keeps.store
    | with_reducible apply keeps_writeLine
    | with_reducible apply keeps_modMerid
    | with_reducible refine Keeps.each ?_ _ (fun _ _ _ => ?_)
    | split
    | extract_lets
    | ((with_reducible conv => arg 2; whnf); first | split | extract_lets)
    | with_reducible intro _

end Sys2Proof.Machine
end

