-- ==== Sys2Proof/Laws/KeepsEvents.lean ====
section
/-! SUPPORT. What every operation of Machine/Events.lean keeps (see Keeps). -/
namespace Sys2Proof.Machine
set_option linter.unusedTactic false
set_option linter.unreachableTactic false
set_option linter.unnecessarySeqFocus false
variable {σ s : State}

theorem keeps_putFrame (h : Keeps σ s) (f : TxFrame) : Keeps σ (putFrame f s) := by
  unfold putFrame
  try extract_lets
  repeat' first
    | with_reducible exact h
    | with_reducible assumption
    | (with_reducible apply Keeps.any; with_reducible first | exact h | assumption)
    | split
    | extract_lets
    | ((with_reducible conv => arg 2; whnf); first | split | extract_lets)
    | with_reducible intro _

theorem keeps_transmit (h : Keeps σ s) (f : TxFrame) : Keeps σ (transmit f s) := by
  unfold transmit
  try extract_lets
  repeat' first
    | with_reducible exact h
    | with_reducible assumption
    | with_reducible apply Keeps.modIcp
    | with_reducible apply keeps_putFrame
    | (with_reducible apply Keeps.any; with_reducible first | exact h | assumption | apply Keeps.modIcp | apply keeps_putFrame)
    | split
    | extract_lets
    | ((with_reducible conv => arg 2; whnf); first | split | extract_lets)
    | with_reducible intro _

theorem keeps_sendOutq (h : Keeps σ s)  : Keeps σ (sendOutq s) := by
  unfold sendOutq
  try extract_lets
  repeat' first
    | with_reducible exact h
    | with_reducible assumption
    | with_reducible apply Keeps.modIcp
    | with_reducible apply keeps_putFrame
    | with_reducible refine Keeps.each ?_ _ (fun _ _ _ => ?_)
    | (with_reducible apply Keeps.any; with_reducible first | exact h | assumption | apply Keeps.modIcp | apply keeps_putFrame)
    | split
    | extract_lets
    | ((with_reducible conv => arg 2; whnf); first | split | extract_lets)
    | with_reducible intro _

theorem keeps_enqueueTx (h : Keeps σ s) (f : TxFrame) (src : Option (Fin 9 × Nat × Nat)) : Keeps σ (enqueueTx f src s) := by
  unfold enqueueTx
  try extract_lets
  repeat' first
    | with_reducible exact h
    | with_reducible assumption
    | with_reducible apply keeps_sendOutq
    | with_reducible apply Keeps.modIcp
    | (with_reducible apply Keeps.any; with_reducible first | exact h | assumption | apply keeps_sendOutq | apply Keeps.modIcp)
    | split
    | extract_lets
    | ((with_reducible conv => arg 2; whnf); first | split | extract_lets)
    | with_reducible intro _

theorem keeps_sendEvent (h : Keeps σ s) (e : EventRec) : Keeps σ (sendEvent e s) := by
  unfold sendEvent
  try extract_lets
  repeat' first
    | with_reducible exact h
    | with_reducible assumption
    | with_reducible apply keeps_enqueueTx
    | with_reducible apply Keeps.modIcp
    | (with_reducible apply Keeps.any; with_reducible first | exact h | assumption | apply keeps_enqueueTx | apply Keeps.modIcp)
    | split
    | extract_lets
    | ((with_reducible conv => arg 2; whnf); first | split | extract_lets)
    | with_reducible intro _

theorem keeps_ringAdd (h : Keeps σ s) (i : Fin 10) (e : CairnE) : Keeps σ (ringAdd i e s) := by
  unfold ringAdd
  try extract_lets
  repeat' first
    | with_reducible exact h
    | with_reducible assumption
    | with_reducible apply Keeps.modRing
    | (with_reducible apply Keeps.any; with_reducible first | exact h | assumption | apply Keeps.modRing)
    | split
    | extract_lets
    | (clear_value *; split)
    | ((with_reducible conv => arg 2; whnf); first | split | extract_lets)
    | with_reducible apply SndKeeps.pair
    | with_reducible exact OptKeeps.none
    | with_reducible apply OptKeeps.some
    | (with_reducible refine OptKeeps.elim ?_ (by assumption))
    | (with_reducible refine SndKeeps.elim2 ?_ (by assumption))
    | (with_reducible refine SndKeeps.elim ?_ (by assumption))
    | (dsimp only; fail_if_success extract_lets)
    | with_reducible intro _

theorem keeps_cairn (h : Keeps σ s) (e : CairnE) (toGlobal : Bool) : Keeps σ (cairn e toGlobal s) := by
  unfold cairn
  try extract_lets
  repeat' first
    | with_reducible exact h
    | with_reducible assumption
    | with_reducible apply keeps_ringAdd
    | split
    | extract_lets
    | ((with_reducible conv => arg 2; whnf); first | split | extract_lets)
    | with_reducible intro _

theorem keeps_eventNoNote (h : Keeps σ s) (code sev : Nat) (zone block inst : Nat) (inj : Bool) : Keeps σ (eventNoNote code sev zone block inst inj s) := by
  unfold eventNoNote
  try extract_lets
  repeat' first
    | with_reducible exact h
    | with_reducible assumption
    | with_reducible apply keeps_sendEvent
    | with_reducible apply keeps_cairn
    | split
    | extract_lets
    | ((with_reducible conv => arg 2; whnf); first | split | extract_lets)
    | with_reducible intro _

theorem keeps_bookAppend (h : Keeps σ s) (r : List Byte) : Keeps σ (bookAppend r s) := by
  unfold bookAppend
  try extract_lets
  repeat' first
    | with_reducible exact h
    | with_reducible assumption
    | with_reducible apply Keeps.modBook
    | with_reducible apply keeps_eventNoNote
    | with_reducible refine Keeps.when ?_ _ (fun _ _ => ?_)
    | (with_reducible apply Keeps.any; with_reducible first | exact h | assumption | apply Keeps.modBook | apply keeps_eventNoNote)
    | split
    | extract_lets
    | ((with_reducible conv => arg 2; whnf); first | split | extract_lets)
    | with_reducible intro _

theorem keeps_note (h : Keeps σ s) (code zone inst block : Nat) (detail : List Byte) : Keeps σ (note code zone inst block detail s) := by
  unfold note
  try extract_lets
  repeat' first
    | with_reducible exact h
    | with_reducible assumption
    | with_reducible apply keeps_bookAppend
    | split
    | extract_lets
    | ((with_reducible conv => arg 2; whnf); first | split | extract_lets)
    | with_reducible intro _

theorem keeps_event (h : Keeps σ s) (code sev : Nat) (p : Page) (inst : Nat) (withNote : Bool) : Keeps σ (event code sev p inst withNote s) := by
  unfold event
  try extract_lets
  repeat' first
    | with_reducible exact h
    | with_reducible assumption
    | with_reducible apply keeps_eventNoNote
    | with_reducible apply keeps_note
    | with_reducible refine Keeps.when ?_ _ (fun _ _ => ?_)
    | split
    | extract_lets
    | ((with_reducible conv => arg 2; whnf); first | split | extract_lets)
    | with_reducible intro _

theorem keeps_bookCount (h : Keeps σ s) (p : Page) (t l st : Nat) : Keeps σ (bookCount p t l st s) := by
  unfold bookCount
  try extract_lets
  repeat' first
    | with_reducible exact h
    | with_reducible assumption
    | with_reducible apply Keeps.modBook
    | (with_reducible apply SndKeeps.snd; with_reducible first | apply SndKeeps.draw)
    | (with_reducible apply Keeps.any; with_reducible first | exact h | assumption | apply Keeps.modBook | refine SndKeeps.elim ?_ (by assumption))
    | split
    | extract_lets
    | ((with_reducible conv => arg 2; whnf); first | split | extract_lets)
    | with_reducible apply SndKeeps.pair
    | with_reducible exact OptKeeps.none
    | with_reducible apply OptKeeps.some
    | (with_reducible refine OptKeeps.elim ?_ (by assumption))
    | (with_reducible refine SndKeeps.elim2 ?_ (by assumption))
    | (with_reducible refine SndKeeps.elim ?_ (by assumption))
    | (dsimp only; fail_if_success extract_lets)
    | with_reducible intro _

theorem keeps_bookTotal (h : Keeps σ s) (c : Fin 9) (i n : Nat) : Keeps σ (bookTotal c i n s) := by
  unfold bookTotal
  try extract_lets
  repeat' first
    | with_reducible exact h
    | with_reducible assumption
    | with_reducible apply Keeps.modBook
    | with_reducible apply OptKeeps.getD
    | (with_reducible apply Keeps.any; with_reducible first | exact h | assumption | apply Keeps.modBook)
    | split
    | extract_lets
    | ((with_reducible conv => arg 2; whnf); first | split | extract_lets)
    | with_reducible intro _

theorem keeps_freezeRing (h : Keeps σ s) (i : Fin 10) (code : Nat) (kind : Nat) : Keeps σ (freezeRing i code kind s) := by
  unfold freezeRing
  try extract_lets
  repeat' first
    | with_reducible exact h
    | with_reducible assumption
    | with_reducible apply Keeps.modRing
    | with_reducible apply keeps_eventNoNote
    | (with_reducible apply Keeps.any; with_reducible first | exact h | assumption | apply Keeps.modRing | apply keeps_eventNoNote)
    | split
    | extract_lets
    | (clear_value *; split)
    | ((with_reducible conv => arg 2; whnf); first | split | extract_lets)
    | with_reducible apply SndKeeps.pair
    | with_reducible exact OptKeeps.none
    | with_reducible apply OptKeeps.some
    | (with_reducible refine OptKeeps.elim ?_ (by assumption))
    | (with_reducible refine SndKeeps.elim2 ?_ (by assumption))
    | (with_reducible refine SndKeeps.elim ?_ (by assumption))
    | (dsimp only; fail_if_success extract_lets)
    | with_reducible intro _

theorem keeps_causeAt (h : Keeps σ s) (p : Page) (n : Nat) (inj : Bool) (detail : List Byte) : Keeps σ (causeAt p n inj detail s) := by
  unfold causeAt
  try extract_lets
  repeat' first
    | with_reducible exact h
    | with_reducible assumption
    | with_reducible apply Keeps.modHdr
    | with_reducible apply keeps_cairn
    | with_reducible apply keeps_sendEvent
    | with_reducible apply keeps_note
    | with_reducible refine Keeps.when ?_ _ (fun _ _ => ?_)
    | split
    | extract_lets
    | ((with_reducible conv => arg 2; whnf); first | split | extract_lets)
    | with_reducible intro _

theorem keeps_cause (h : Keeps σ s) (p : Page) (n : Nat) : Keeps σ (cause p n s) := by
  unfold cause
  try extract_lets
  repeat' first
    | with_reducible exact h
    | with_reducible assumption
    | with_reducible apply keeps_causeAt
    | split
    | extract_lets
    | ((with_reducible conv => arg 2; whnf); first | split | extract_lets)
    | with_reducible intro _

theorem keeps_staleReplies (h : Keeps σ s) (p : Page) (n : Nat) : Keeps σ (staleReplies p n s) := by
  unfold staleReplies
  try extract_lets
  repeat' first
    | with_reducible exact h
    | with_reducible assumption
    | with_reducible apply keeps_bookCount
    | with_reducible apply keeps_cause
    | with_reducible refine Keeps.repeat ?_ (fun _ _ => ?_) _
    | split
    | extract_lets
    | ((with_reducible conv => arg 2; whnf); first | split | extract_lets)
    | with_reducible intro _

theorem keeps_deliverReplies (h : Keeps σ s) (c : Fin 9) : Keeps σ (deliverReplies c s) := by
  unfold deliverReplies
  try extract_lets
  repeat' first
    | with_reducible exact h
    | with_reducible assumption
    | with_reducible apply keeps_takeReplies
    | with_reducible apply keeps_staleReplies
    | split
    | extract_lets
    | ((with_reducible conv => arg 2; whnf); first | split | extract_lets)
    | with_reducible intro _

theorem keeps_cfgRefused (h : Keeps σ s) (p : Page) : Keeps σ (cfgRefused p s) := by
  unfold cfgRefused
  try extract_lets
  repeat' first
    | with_reducible exact h
    | with_reducible assumption
    | with_reducible apply keeps_cause
    | split
    | extract_lets
    | ((with_reducible conv => arg 2; whnf); first | split | extract_lets)
    | with_reducible intro _

theorem keeps_transientEvent (h : Keeps σ s) (p : Page) (inj : Bool) : Keeps σ (transientEvent p inj s) := by
  unfold transientEvent
  try extract_lets
  repeat' first
    | with_reducible exact h
    | with_reducible assumption
    | with_reducible apply Keeps.modHdr
    | with_reducible apply keeps_bookCount
    | with_reducible apply keeps_causeAt
    | (with_reducible apply Keeps.any; with_reducible first | exact h | assumption | apply Keeps.modHdr | apply keeps_bookCount | apply keeps_causeAt)
    | split
    | extract_lets
    | ((with_reducible conv => arg 2; whnf); first | split | extract_lets)
    | with_reducible intro _

theorem keeps_stopSurvey (h : Keeps σ s) (c : Fin 9) : Keeps σ (stopSurvey c s) := by
  unfold stopSurvey
  try extract_lets
  repeat' first
    | with_reducible exact h
    | with_reducible assumption
    | (with_reducible refine Keeps.modChanSame ?_ _ ?_ ?_; rotate_left; with_reducible rfl; with_reducible rfl)
    | (with_reducible refine Keeps.modChan ?_ _ ?_; rotate_left; focus (intro hw; (repeat' split) <;> first | (refine Chan.wf_same hw ?_ ?_ <;> with_reducible rfl) | (refine Chan.wf_noStakes hw ?_ ?_ <;> with_reducible rfl) | (refine Chan.wf_noMem hw ?_ ?_ <;> with_reducible rfl) | (exact Chan.wf_empty rfl rfl)))
    | (with_reducible refine Keeps.modSupv ?_ ?_; rotate_left; focus ((repeat' split) <;> with_reducible rfl))
    | (with_reducible apply Keeps.any; with_reducible first | exact h | assumption)
    | split
    | extract_lets
    | (clear_value *; split)
    | ((with_reducible conv => arg 2; whnf); first | split | extract_lets)
    | with_reducible apply SndKeeps.pair
    | with_reducible exact OptKeeps.none
    | with_reducible apply OptKeeps.some
    | (with_reducible refine OptKeeps.elim ?_ (by assumption))
    | (with_reducible refine SndKeeps.elim2 ?_ (by assumption))
    | (with_reducible refine SndKeeps.elim ?_ (by assumption))
    | (dsimp only; fail_if_success extract_lets)
    | with_reducible intro _

theorem keeps_lastingEvent (h : Keeps σ s) (p : Page) (fenceIt inj : Bool) (detail : List Byte) : Keeps σ (lastingEvent p fenceIt inj detail s) := by
  unfold lastingEvent
  try extract_lets
  repeat' first
    | with_reducible exact h
    | with_reducible assumption
    | with_reducible apply Keeps.modHdr
    | with_reducible apply keeps_bookCount
    | with_reducible apply keeps_causeAt
    | with_reducible apply keeps_stopSurvey
    | with_reducible apply keeps_freezeRing
    | (with_reducible refine Keeps.modChanSame ?_ _ ?_ ?_; rotate_left; with_reducible rfl; with_reducible rfl)
    | (with_reducible refine Keeps.modChan ?_ _ ?_; rotate_left; focus (intro hw; (repeat' split) <;> first | (refine Chan.wf_same hw ?_ ?_ <;> with_reducible rfl) | (refine Chan.wf_noStakes hw ?_ ?_ <;> with_reducible rfl) | (refine Chan.wf_noMem hw ?_ ?_ <;> with_reducible rfl) | (exact Chan.wf_empty rfl rfl)))
    | (with_reducible apply Keeps.any; with_reducible first | exact h | assumption | apply Keeps.modHdr | apply keeps_bookCount | apply keeps_causeAt | apply keeps_stopSurvey | apply keeps_freezeRing)
    | split
    | extract_lets
    | ((with_reducible conv => arg 2; whnf); first | split | extract_lets)
    | with_reducible intro _

theorem keeps_control (h : Keeps σ s) (code : Nat) (p : Page) (src : Nat) (v : W32) : Keeps σ (control code p src v s) := by
  unfold control
  try extract_lets
  repeat' first
    | with_reducible exact h
    | with_reducible assumption
    | with_reducible apply keeps_cairn
    | split
    | extract_lets
    | ((with_reducible conv => arg 2; whnf); first | split | extract_lets)
    | with_reducible intro _

theorem keeps_disarm (h : Keeps σ s) (p : Page) : Keeps σ (disarm p s) := by
  unfold disarm
  try extract_lets
  repeat' first
    | with_reducible exact h
    | with_reducible assumption
    | with_reducible apply Keeps.modHdr
    | (with_reducible apply Keeps.any; with_reducible first | exact h | assumption | apply Keeps.modHdr)
    | split
    | extract_lets
    | ((with_reducible conv => arg 2; whnf); first | split | extract_lets)
    | with_reducible intro _

theorem keeps_injectedCause (h : Keeps σ s) (p : Page) : Keeps σ (injectedCause p s) := by
  unfold injectedCause
  try extract_lets
  repeat' first
    | with_reducible exact h
    | with_reducible assumption
    | with_reducible apply keeps_causeAt
    | split
    | extract_lets
    | ((with_reducible conv => arg 2; whnf); first | split | extract_lets)
    | with_reducible intro _

theorem keeps_injectedIf (h : Keeps σ s) (inj : Bool) (p : Page) : Keeps σ (injectedIf inj p s) := by
  unfold injectedIf
  try extract_lets
  repeat' first
    | with_reducible exact h
    | with_reducible assumption
    | with_reducible apply keeps_injectedCause
    | with_reducible refine Keeps.when ?_ _ (fun _ _ => ?_)
    | split
    | extract_lets
    | ((with_reducible conv => arg 2; whnf); first | split | extract_lets)
    | with_reducible intro _

theorem keeps_fireCause (h : Keeps σ s) (p : Page) (n : Nat) : Keeps σ (fireCause p n s) := by
  unfold fireCause
  try extract_lets
  repeat' first
    | with_reducible exact h
    | with_reducible assumption
    | with_reducible apply keeps_disarm
    | with_reducible apply keeps_injectedCause
    | with_reducible apply keeps_causeAt
    | with_reducible refine Keeps.when ?_ _ (fun _ _ => ?_)
    | split
    | extract_lets
    | ((with_reducible conv => arg 2; whnf); first | split | extract_lets)
    | with_reducible intro _

theorem keeps_takeInjection (h : Keeps σ s) (p : Page) (covers : Nat → Bool) : SndKeeps σ (takeInjection p covers s) := by
  unfold takeInjection
  try extract_lets
  repeat' first
    | with_reducible exact h
    | with_reducible assumption
    | with_reducible apply keeps_disarm
    | with_reducible apply SndKeeps.pair
    | (with_reducible apply SndKeeps.snd; with_reducible first | apply SndKeeps.draw | apply keeps_disarm)
    | split
    | extract_lets
    | (clear_value *; split)
    | ((with_reducible conv => arg 2; whnf); first | split | extract_lets)
    | with_reducible exact OptKeeps.none
    | with_reducible apply OptKeeps.some
    | (with_reducible refine OptKeeps.elim ?_ (by assumption))
    | (with_reducible refine SndKeeps.elim2 ?_ (by assumption))
    | (with_reducible refine SndKeeps.elim ?_ (by assumption))
    | (dsimp only; fail_if_success extract_lets)
    | with_reducible intro _

theorem keeps_fireIfReleased (h : Keeps σ s) (p : Page) : Keeps σ (fireIfReleased p s) := by
  unfold fireIfReleased
  try extract_lets
  repeat' first
    | with_reducible exact h
    | with_reducible assumption
    | with_reducible apply keeps_fireCause
    | split
    | extract_lets
    | (clear_value *; split)
    | ((with_reducible conv => arg 2; whnf); first | split | extract_lets)
    | with_reducible apply SndKeeps.pair
    | with_reducible exact OptKeeps.none
    | with_reducible apply OptKeeps.some
    | (with_reducible refine OptKeeps.elim ?_ (by assumption))
    | (with_reducible refine SndKeeps.elim2 ?_ (by assumption))
    | (with_reducible refine SndKeeps.elim ?_ (by assumption))
    | (dsimp only; fail_if_success extract_lets)
    | with_reducible intro _

end Sys2Proof.Machine
end

