-- ==== Sys2Proof/Laws/KeepsEffects.lean ====
section
/-! SUPPORT. What every operation of Machine/Effects.lean keeps (see Keeps). -/
namespace Sys2Proof.Machine
set_option linter.unusedTactic false
set_option linter.unreachableTactic false
set_option linter.unnecessarySeqFocus false
variable {σ s : State}

theorem keeps_capture (h : Keeps σ s) (p : Page) (off : Nat) (v : W32) : Keeps σ (capture p off v s) := by
  unfold capture
  try extract_lets
  repeat' first
    | with_reducible exact h
    | with_reducible assumption
    | with_reducible apply Keeps.setReg
    | split
    | extract_lets
    | ((with_reducible conv => arg 2; whnf); first | split | extract_lets)
    | with_reducible intro _

theorem keeps_countSat (h : Keeps σ s) (c : Fin 9) (n : Nat) : Keeps σ (countSat c n s) := by
  unfold countSat
  try extract_lets
  repeat' first
    | with_reducible exact h
    | with_reducible assumption
    | with_reducible apply keeps_bookTotal
    | with_reducible apply keeps_cause
    | with_reducible apply Keeps.bump
    | split
    | extract_lets
    | ((with_reducible conv => arg 2; whnf); first | split | extract_lets)
    | with_reducible intro _

theorem keeps_countEff (h : Keeps σ s) (c : Fin 9) (e : Eff) : Keeps σ (countEff c e s) := by
  unfold countEff
  try extract_lets
  repeat' first
    | with_reducible exact h
    | with_reducible assumption
    | exact fun _ k => k
    | with_reducible apply keeps_countSat
    | with_reducible apply keeps_cause
    | with_reducible apply Keeps.bumpField
    | with_reducible apply Keeps.bump
    | with_reducible apply Keeps.setReg
    | with_reducible apply keeps_capture
    | split
    | extract_lets
    | (clear_value *; split)
    | ((with_reducible conv => arg 2; whnf); first | split | extract_lets)
    | with_reducible apply SndKeeps.pair
    | with_reducible exact OptKeeps.none
    | with_reducible apply OptKeeps.some
    | (with_reducible refine OptKeeps.elim ?_ (by assumption))
    | (with_reducible refine SndKeeps.elim2 ?_ (by assumption))
    | (with_reducible refine SndKeeps.elim ?_ (by assumption))
    | (dsimp only; fail_if_success extract_lets)
    | with_reducible intro _

theorem keeps_lateEff (h : Keeps σ s) (c : Fin 9) (e : Eff) : Keeps σ (lateEff c e s) := by
  unfold lateEff
  try extract_lets
  repeat' first
    | with_reducible exact h
    | with_reducible assumption
    | with_reducible apply keeps_cause
    | with_reducible apply keeps_capture
    | with_reducible apply Keeps.bump
    | with_reducible apply keeps_countSat
    | with_reducible apply keeps_bookTotal
    | split
    | extract_lets
    | (clear_value *; split)
    | ((with_reducible conv => arg 2; whnf); first | split | extract_lets)
    | with_reducible apply SndKeeps.pair
    | with_reducible exact OptKeeps.none
    | with_reducible apply OptKeeps.some
    | (with_reducible refine OptKeeps.elim ?_ (by assumption))
    | (with_reducible refine SndKeeps.elim2 ?_ (by assumption))
    | (with_reducible refine SndKeeps.elim ?_ (by assumption))
    | (dsimp only; fail_if_success extract_lets)
    | with_reducible intro _

theorem keeps_putAll (h : Keeps σ s) (c : Fin 9) (q : Requester) (puts : List (Nat × List Byte)) : Keeps σ (putAll c q puts s) := by
  unfold putAll
  try extract_lets
  repeat' first
    | with_reducible exact h
    | with_reducible assumption
    | with_reducible apply keeps_writeMem
    | (with_reducible apply SndKeeps.snd; with_reducible first | apply SndKeeps.draw | apply keeps_writeMem)
    | with_reducible refine Keeps.each ?_ _ (fun _ _ _ => ?_)
    | split
    | extract_lets
    | ((with_reducible conv => arg 2; whnf); first | split | extract_lets)
    | with_reducible intro _

theorem keeps_storeEff (h : Keeps σ s) (c : Fin 9) (q : Requester) (e : Eff) : Keeps σ (storeEff c q e s) := by
  unfold storeEff
  try extract_lets
  repeat' first
    | with_reducible exact h
    | with_reducible assumption
    | with_reducible apply Keeps.store
    | with_reducible apply keeps_writeMem
    | with_reducible apply keeps_putAll
    | with_reducible apply keeps_deliverReplies
    | with_reducible apply keeps_drainPort
    | with_reducible apply keeps_countSat
    | split
    | extract_lets
    | (clear_value *; split)
    | ((with_reducible conv => arg 2; whnf); first | split | extract_lets)
    | with_reducible apply SndKeeps.pair
    | with_reducible exact OptKeeps.none
    | with_reducible apply OptKeeps.some
    | (with_reducible refine OptKeeps.elim ?_ (by assumption))
    | (with_reducible refine SndKeeps.elim2 ?_ (by assumption))
    | (with_reducible refine SndKeeps.elim ?_ (by assumption))
    | (dsimp only; fail_if_success extract_lets)
    | with_reducible intro _

theorem keeps_maybeStore (h : Keeps σ s) (c : Fin 9) (q : Requester) (e : Eff) : Keeps σ (maybeStore c q e s) := by
  unfold maybeStore
  try extract_lets
  repeat' first
    | with_reducible exact h
    | with_reducible assumption
    | with_reducible apply keeps_putAll
    | with_reducible apply Keeps.store
    | with_reducible apply keeps_storeEff
    | (with_reducible apply SndKeeps.snd; with_reducible first | apply SndKeeps.draw | apply keeps_putAll | apply keeps_storeEff)
    | with_reducible apply Keeps.draw
    | with_reducible apply SndKeeps.draw
    | split
    | extract_lets
    | (clear_value *; split)
    | ((with_reducible conv => arg 2; whnf); first | split | extract_lets)
    | with_reducible apply SndKeeps.pair
    | with_reducible exact OptKeeps.none
    | with_reducible apply OptKeeps.some
    | (with_reducible refine OptKeeps.elim ?_ (by assumption))
    | (with_reducible refine SndKeeps.elim2 ?_ (by assumption))
    | (with_reducible refine SndKeeps.elim ?_ (by assumption))
    | (dsimp only; fail_if_success extract_lets)
    | with_reducible intro _

end Sys2Proof.Machine
end

