-- ==== Sys2Proof/Laws/KeepsDesc.lean ====
section
/-! SUPPORT. What every operation of Machine/Desc.lean keeps (see Keeps). -/
namespace Sys2Proof.Machine
set_option linter.unusedTactic false
set_option linter.unreachableTactic false
set_option linter.unnecessarySeqFocus false
variable {σ s : State}

theorem keeps_sendCompletions (h : Keeps σ s) (c : Fin 9) : Keeps σ (sendCompletions c s) := by
  unfold sendCompletions
  try extract_lets
  repeat' first
    | with_reducible exact h
    | with_reducible assumption
    | with_reducible apply keeps_enqueueTx
    | (with_reducible refine Keeps.modChanSame ?_ _ ?_ ?_; rotate_left; with_reducible rfl; with_reducible rfl)
    | (with_reducible refine Keeps.modChan ?_ _ ?_; rotate_left; focus (intro hw; (repeat' split) <;> first | (refine Chan.wf_same hw ?_ ?_ <;> with_reducible rfl) | (refine Chan.wf_noStakes hw ?_ ?_ <;> with_reducible rfl) | (refine Chan.wf_noMem hw ?_ ?_ <;> with_reducible rfl) | (exact Chan.wf_empty rfl rfl)))
    | (with_reducible apply Keeps.any; with_reducible first | exact h | assumption | apply keeps_enqueueTx)
    | split
    | extract_lets
    | ((with_reducible conv => arg 2; whnf); first | split | extract_lets)
    | with_reducible intro _

theorem keeps_deliverRecord (h : Keeps σ s) (c : Fin 9) (r : CompRec) : Keeps σ (deliverRecord c r s) := by
  unfold deliverRecord
  try extract_lets
  repeat' first
    | with_reducible exact h
    | with_reducible assumption
    | with_reducible apply keeps_sendCompletions
    | (with_reducible refine Keeps.modChanSame ?_ _ ?_ ?_; rotate_left; with_reducible rfl; with_reducible rfl)
    | (with_reducible refine Keeps.modChan ?_ _ ?_; rotate_left; focus (intro hw; (repeat' split) <;> first | (refine Chan.wf_same hw ?_ ?_ <;> with_reducible rfl) | (refine Chan.wf_noStakes hw ?_ ?_ <;> with_reducible rfl) | (refine Chan.wf_noMem hw ?_ ?_ <;> with_reducible rfl) | (exact Chan.wf_empty rfl rfl)))
    | (with_reducible apply Keeps.any; with_reducible first | exact h | assumption | apply keeps_sendCompletions)
    | split
    | extract_lets
    | ((with_reducible conv => arg 2; whnf); first | split | extract_lets)
    | with_reducible intro _

theorem keeps_createRejected (h : Keeps σ s) (c : Fin 9) (detail : Nat) : Keeps σ (createRejected c detail s) := by
  unfold createRejected
  try extract_lets
  repeat' first
    | with_reducible exact h
    | with_reducible assumption
    | with_reducible apply keeps_cause
    | with_reducible apply Keeps.bumpField
    | with_reducible apply Keeps.setField
    | split
    | extract_lets
    | ((with_reducible conv => arg 2; whnf); first | split | extract_lets)
    | with_reducible intro _

theorem keeps_dropSet (h : Keeps σ s) (c : Fin 9) (a : Fin 2) (no : Nat) : Keeps σ (dropSet c a no s) := by
  unfold dropSet
  try extract_lets
  repeat' first
    | with_reducible exact h
    | with_reducible assumption
    | with_reducible apply Keeps.modArray
    | (with_reducible apply Keeps.any; with_reducible first | exact h | assumption | apply Keeps.modArray)
    | split
    | extract_lets
    | (clear_value *; split)
    | ((with_reducible conv => arg 2; whnf); first | split | extract_lets)
    | with_reducible apply SndKeeps.pair
    | with_reducible exact OptKeeps.none
    | with_reducible apply OptKeeps.some
    | (with_reducible refine OptKeeps.elim ?_ (by assumption))
    | (with_reducible refine SndKeeps.elim2 ?_ (by assumption))
    | (with_reducible refine SndKeeps.elim ?_ (by assumption))
    | (dsimp only; fail_if_success extract_lets)
    | with_reducible intro _

theorem keeps_discardHeld (h : Keeps σ s) (c : Fin 9) (d : List Byte) (no : Nat) : Keeps σ (discardHeld c d no s) := by
  unfold discardHeld
  try extract_lets
  repeat' first
    | with_reducible exact h
    | with_reducible assumption
    | with_reducible apply keeps_dropSet
    | split
    | extract_lets
    | (clear_value *; split)
    | ((with_reducible conv => arg 2; whnf); first | split | extract_lets)
    | with_reducible apply SndKeeps.pair
    | with_reducible exact OptKeeps.none
    | with_reducible apply OptKeeps.some
    | (with_reducible refine OptKeeps.elim ?_ (by assumption))
    | (with_reducible refine SndKeeps.elim2 ?_ (by assumption))
    | (with_reducible refine SndKeeps.elim ?_ (by assumption))
    | (dsimp only; fail_if_success extract_lets)
    | with_reducible intro _

theorem keeps_finishDesc (h : Keeps σ s) (c : Fin 9) (d : List Byte) (st : Fin 4) (fetched : Bool) (no : Nat) (status flags : H16) (detail : W32) : Keeps σ (finishDesc c d st fetched no status flags detail s) := by
  unfold finishDesc
  try extract_lets
  repeat' first
    | with_reducible exact h
    | with_reducible assumption
    | with_reducible apply Keeps.addStake
    | with_reducible apply keeps_discardHeld
    | with_reducible apply keeps_createRejected
    | with_reducible apply keeps_cause
    | with_reducible apply Keeps.modStream
    | with_reducible apply keeps_cairn
    | with_reducible apply keeps_deliverRecord
    | with_reducible refine Keeps.when ?_ _ (fun _ _ => ?_)
    | (with_reducible apply Keeps.any; with_reducible first | exact h | assumption | apply Keeps.addStake | apply keeps_discardHeld | apply keeps_createRejected | apply keeps_cause | apply Keeps.modStream | apply keeps_cairn | apply keeps_deliverRecord)
    | split
    | extract_lets
    | ((with_reducible conv => arg 2; whnf); first | split | extract_lets)
    | with_reducible intro _

theorem keeps_finishQueued (h : Keeps σ s) (c : Fin 9) (d : List Byte) (st : Fin 4) (fetched : Bool) (status : H16) (detail : W32) : Keeps σ (finishQueued c d st fetched status detail s) := by
  unfold finishQueued
  try extract_lets
  repeat' first
    | with_reducible exact h
    | with_reducible assumption
    | with_reducible apply keeps_finishDesc
    | split
    | extract_lets
    | ((with_reducible conv => arg 2; whnf); first | split | extract_lets)
    | with_reducible intro _

theorem keeps_modFly (h : Keeps σ s) (c : Fin 9) (no : Nat) (g : Fly → Fly) : Keeps σ (s.modFly c no g) := by
  unfold State.modFly
  try extract_lets
  repeat' first
    | with_reducible exact h
    | with_reducible assumption
    | (with_reducible refine Keeps.modChanSame ?_ _ ?_ ?_; rotate_left; with_reducible rfl; with_reducible rfl)
    | (with_reducible refine Keeps.modChan ?_ _ ?_; rotate_left; focus (intro hw; (repeat' split) <;> first | (refine Chan.wf_same hw ?_ ?_ <;> with_reducible rfl) | (refine Chan.wf_noStakes hw ?_ ?_ <;> with_reducible rfl) | (refine Chan.wf_noMem hw ?_ ?_ <;> with_reducible rfl) | (exact Chan.wf_empty rfl rfl)))
    | (with_reducible apply Keeps.any; with_reducible first | exact h | assumption)
    | split
    | extract_lets
    | ((with_reducible conv => arg 2; whnf); first | split | extract_lets)
    | with_reducible intro _

theorem keeps_dropFly (h : Keeps σ s) (c : Fin 9) (no : Nat) : Keeps σ (s.dropFly c no) := by
  unfold State.dropFly
  try extract_lets
  repeat' first
    | with_reducible exact h
    | with_reducible assumption
    | (with_reducible apply SndKeeps.snd; with_reducible first | apply SndKeeps.draw)
    | (with_reducible refine Keeps.modChanSame ?_ _ ?_ ?_; rotate_left; with_reducible rfl; with_reducible rfl)
    | (with_reducible refine Keeps.modChan ?_ _ ?_; rotate_left; focus (intro hw; (repeat' split) <;> first | (refine Chan.wf_same hw ?_ ?_ <;> with_reducible rfl) | (refine Chan.wf_noStakes hw ?_ ?_ <;> with_reducible rfl) | (refine Chan.wf_noMem hw ?_ ?_ <;> with_reducible rfl) | (exact Chan.wf_empty rfl rfl)))
    | (with_reducible apply Keeps.any; with_reducible first | exact h | assumption)
    | split
    | extract_lets
    | ((with_reducible conv => arg 2; whnf); first | split | extract_lets)
    | with_reducible intro _

theorem keeps_endPlat (h : Keeps σ s) (c : Fin 9) (f : Fly) (status : H16) : Keeps σ (endPlat c f status s) := by
  unfold endPlat
  try extract_lets
  repeat' first
    | with_reducible exact h
    | with_reducible assumption
    | with_reducible apply Keeps.modPlat
    | with_reducible apply keeps_cause
    | (with_reducible apply Keeps.any; with_reducible first | exact h | assumption | apply Keeps.modPlat | apply keeps_cause)
    | split
    | extract_lets
    | ((with_reducible conv => arg 2; whnf); first | split | extract_lets)
    | with_reducible intro _

theorem keeps_countBusy (h : Keeps σ s) (c : Fin 9) (a : Fin 2) (cycles : Nat) : Keeps σ (countBusy c a cycles s) := by
  unfold countBusy
  try extract_lets
  repeat' first
    | with_reducible exact h
    | with_reducible assumption
    | with_reducible apply Keeps.bump
    | with_reducible apply Keeps.modArray
    | (with_reducible apply Keeps.any; with_reducible first | exact h | assumption | apply Keeps.bump | apply Keeps.modArray)
    | split
    | extract_lets
    | ((with_reducible conv => arg 2; whnf); first | split | extract_lets)
    | with_reducible intro _

theorem keeps_countPresented (h : Keeps σ s) (c : Fin 9) (f : Fly) : Keeps σ (countPresented c f s) := by
  unfold countPresented
  try extract_lets
  repeat' first
    | with_reducible exact h
    | with_reducible assumption
    | with_reducible apply keeps_countBusy
    | (with_reducible apply SndKeeps.snd; with_reducible first | apply SndKeeps.draw | apply keeps_countBusy)
    | with_reducible refine Keeps.each ?_ _ (fun _ _ _ => ?_)
    | with_reducible apply Keeps.draw
    | with_reducible apply SndKeeps.draw
    | split
    | extract_lets
    | (clear_value *; split)
    | ((with_reducible conv => arg 2; whnf); first | split | extract_lets)
    | with_reducible apply SndKeeps.pair
    | with_reducible exact OptKeeps.none
    | with_reducible apply OptKeeps.some
    | (with_reducible refine OptKeeps.elim ?_ (by assumption))
    | (with_reducible refine SndKeeps.elim2 ?_ (by assumption))
    | (with_reducible refine SndKeeps.elim ?_ (by assumption))
    | (dsimp only; fail_if_success extract_lets)
    | with_reducible intro _

theorem keeps_countGrant (h : Keeps σ s) (c : Fin 9) (f : Fly) : Keeps σ (countGrant c f s) := by
  unfold countGrant
  try extract_lets
  repeat' first
    | with_reducible exact h
    | with_reducible assumption
    | with_reducible apply keeps_countEff
    | with_reducible refine Keeps.each ?_ _ (fun _ _ _ => ?_)
    | split
    | extract_lets
    | ((with_reducible conv => arg 2; whnf); first | split | extract_lets)
    | with_reducible intro _

theorem keeps_cutDrain (h : Keeps σ s) (c : Fin 9) (q : Requester) (l : List Eff) : SndKeeps σ (cutDrain c q l s) := by
  induction l generalizing s with
  | nil => exact h
  | cons e l ih =>
    cases e <;>
      first
      | exact ih (keeps_maybeStore h c q _)
      | exact SndKeeps.pair (SndKeeps.snd (ih h.draw))
      | exact SndKeeps.pair (SndKeeps.snd (ih (keeps_countSat h.draw c _)))

theorem keeps_endFly (h : Keeps σ s) (c : Fin 9) (f : Fly) (status flags : H16) (detail : W32) : Keeps σ (endFly c f status flags detail s) := by
  unfold endFly
  try extract_lets
  repeat' first
    | with_reducible exact h
    | with_reducible assumption
    | with_reducible apply keeps_countPresented
    | with_reducible apply keeps_countGrant
    | with_reducible apply keeps_lateEff
    | with_reducible apply keeps_cutDrain
    | with_reducible apply Keeps.bump
    | with_reducible apply keeps_endPlat
    | with_reducible apply keeps_finishDesc
    | with_reducible apply keeps_dropFly
    | (with_reducible apply SndKeeps.snd; with_reducible first | apply SndKeeps.draw | apply keeps_countPresented | apply keeps_countGrant | apply keeps_lateEff | apply keeps_cutDrain | apply keeps_endPlat | apply keeps_finishDesc | apply keeps_dropFly)
    | with_reducible refine Keeps.each ?_ _ (fun _ _ _ => ?_)
    | with_reducible refine Keeps.when ?_ _ (fun _ _ => ?_)
    | split
    | extract_lets
    | ((with_reducible conv => arg 2; whnf); first | split | extract_lets)
    | with_reducible apply SndKeeps.pair
    | with_reducible exact OptKeeps.none
    | with_reducible apply OptKeeps.some
    | (with_reducible refine OptKeeps.elim ?_ (by assumption))
    | (with_reducible refine SndKeeps.elim2 ?_ (by assumption))
    | (with_reducible refine SndKeeps.elim ?_ (by assumption))
    | (dsimp only; fail_if_success extract_lets)
    | with_reducible intro _

theorem keeps_endFlies (h : Keeps σ s) (c : Fin 9) (p : Fly → Bool) (status flags : H16) : Keeps σ (endFlies c p status flags s) := by
  unfold endFlies
  try extract_lets
  repeat' first
    | with_reducible exact h
    | with_reducible assumption
    | with_reducible apply keeps_endFly
    | with_reducible refine Keeps.each ?_ _ (fun _ _ _ => ?_)
    | split
    | extract_lets
    | ((with_reducible conv => arg 2; whnf); first | split | extract_lets)
    | with_reducible intro _

theorem keeps_countGrants (h : Keeps σ s) (c : Fin 9) : Keeps σ (countGrants c s) := by
  unfold countGrants
  try extract_lets
  repeat' first
    | with_reducible exact h
    | with_reducible assumption
    | with_reducible apply keeps_countGrant
    | with_reducible refine Keeps.each ?_ _ (fun _ _ _ => ?_)
    | (with_reducible refine Keeps.modChanSame ?_ _ ?_ ?_; rotate_left; with_reducible rfl; with_reducible rfl)
    | (with_reducible refine Keeps.modChan ?_ _ ?_; rotate_left; focus (intro hw; (repeat' split) <;> first | (refine Chan.wf_same hw ?_ ?_ <;> with_reducible rfl) | (refine Chan.wf_noStakes hw ?_ ?_ <;> with_reducible rfl) | (refine Chan.wf_noMem hw ?_ ?_ <;> with_reducible rfl) | (exact Chan.wf_empty rfl rfl)))
    | (with_reducible apply Keeps.any; with_reducible first | exact h | assumption | apply keeps_countGrant)
    | split
    | extract_lets
    | ((with_reducible conv => arg 2; whnf); first | split | extract_lets)
    | with_reducible intro _

theorem keeps_sweepReduction (h : Keeps σ s) (r : Reduction) : Keeps σ (sweepReduction r s) := by
  unfold sweepReduction
  try extract_lets
  repeat' first
    | with_reducible exact h
    | with_reducible assumption
    | with_reducible apply keeps_endFlies
    | with_reducible apply Keeps.modHub
    | with_reducible refine Keeps.each ?_ _ (fun _ _ _ => ?_)
    | (with_reducible apply Keeps.any; with_reducible first | exact h | assumption | apply keeps_endFlies | apply Keeps.modHub)
    | split
    | extract_lets
    | ((with_reducible conv => arg 2; whnf); first | split | extract_lets)
    | with_reducible intro _

theorem keeps_sweepTri (h : Keeps σ s) (id : W32) : Keeps σ (sweepTri id s) := by
  unfold sweepTri
  try extract_lets
  repeat' first
    | with_reducible exact h
    | with_reducible assumption
    | exact fun _ k => k
    | with_reducible apply keeps_endFlies
    | with_reducible apply Keeps.modHub
    | with_reducible refine Keeps.each ?_ _ (fun _ _ _ => ?_)
    | (with_reducible apply Keeps.any; with_reducible first | exact h | assumption | apply keeps_endFlies | apply Keeps.modHub)
    | split
    | extract_lets
    | ((with_reducible conv => arg 2; whnf); first | split | extract_lets)
    | with_reducible intro _

theorem keeps_sweep (h : Keeps σ s)  : Keeps σ (sweep s) := by
  unfold sweep
  try extract_lets
  repeat' first
    | with_reducible exact h
    | with_reducible assumption
    | with_reducible apply keeps_sweepReduction
    | with_reducible apply keeps_sweepTri
    | with_reducible apply Keeps.modHub
    | (with_reducible apply SndKeeps.snd; with_reducible first | apply SndKeeps.draw | apply keeps_sweepReduction | apply keeps_sweepTri)
    | with_reducible refine Keeps.each ?_ _ (fun _ _ _ => ?_)
    | split
    | extract_lets
    | ((with_reducible conv => arg 2; whnf); first | split | extract_lets)
    | with_reducible intro _

theorem keeps_endFetch (h : Keeps σ s) (c : Fin 9) (st : Fin 4) : Keeps σ (endFetch c st s) := by
  unfold endFetch
  try extract_lets
  repeat' first
    | with_reducible exact h
    | with_reducible assumption
    | with_reducible apply Keeps.modStream
    | with_reducible apply keeps_finishDesc
    | (with_reducible apply Keeps.any; with_reducible first | exact h | assumption | apply Keeps.modStream | apply keeps_finishDesc)
    | split
    | extract_lets
    | (clear_value *; split)
    | ((with_reducible conv => arg 2; whnf); first | split | extract_lets)
    | with_reducible apply SndKeeps.pair
    | with_reducible exact OptKeeps.none
    | with_reducible apply OptKeeps.some
    | (with_reducible refine OptKeeps.elim ?_ (by assumption))
    | (with_reducible refine SndKeeps.elim2 ?_ (by assumption))
    | (with_reducible refine SndKeeps.elim ?_ (by assumption))
    | (dsimp only; fail_if_success extract_lets)
    | with_reducible intro _

theorem keeps_failFetch (h : Keeps σ s) (c : Fin 9) (st : Fin 4) (status : H16) : Keeps σ (failFetch c st status s) := by
  unfold failFetch
  try extract_lets
  repeat' first
    | with_reducible exact h
    | with_reducible assumption
    | with_reducible apply Keeps.modStream
    | with_reducible apply keeps_finishDesc
    | (with_reducible apply Keeps.any; with_reducible first | exact h | assumption | apply Keeps.modStream | apply keeps_finishDesc)
    | split
    | extract_lets
    | (clear_value *; split)
    | ((with_reducible conv => arg 2; whnf); first | split | extract_lets)
    | with_reducible apply SndKeeps.pair
    | with_reducible exact OptKeeps.none
    | with_reducible apply OptKeeps.some
    | (with_reducible refine OptKeeps.elim ?_ (by assumption))
    | (with_reducible refine SndKeeps.elim2 ?_ (by assumption))
    | (with_reducible refine SndKeeps.elim ?_ (by assumption))
    | (dsimp only; fail_if_success extract_lets)
    | with_reducible intro _

theorem keeps_popHead (h : Keeps σ s) (c : Fin 9) (st : Fin 4) (issues : Bool) : Keeps σ (popHead c st issues s) := by
  unfold popHead
  try extract_lets
  repeat' first
    | with_reducible exact h
    | with_reducible assumption
    | with_reducible apply Keeps.modStream
    | (with_reducible apply Keeps.any; with_reducible first | exact h | assumption | apply Keeps.modStream)
    | split
    | extract_lets
    | (clear_value *; split)
    | ((with_reducible conv => arg 2; whnf); first | split | extract_lets)
    | with_reducible apply SndKeeps.pair
    | with_reducible exact OptKeeps.none
    | with_reducible apply OptKeeps.some
    | (with_reducible refine OptKeeps.elim ?_ (by assumption))
    | (with_reducible refine SndKeeps.elim2 ?_ (by assumption))
    | (with_reducible refine SndKeeps.elim ?_ (by assumption))
    | (dsimp only; fail_if_success extract_lets)
    | with_reducible intro _

theorem keeps_settleStream (h : Keeps σ s) (c : Fin 9) (st : Fin 4) (n : Nat) : Keeps σ (settleStream c st n s) := by
  induction n generalizing s with
  | zero => exact h
  | succ n ih =>
  unfold settleStream
  try extract_lets
  repeat' first
    | with_reducible exact h
    | with_reducible assumption
    | with_reducible apply keeps_finishQueued
    | with_reducible apply keeps_endFetch
    | with_reducible apply keeps_popHead
    | with_reducible apply ih
    | split
    | extract_lets
    | (clear_value *; split)
    | ((with_reducible conv => arg 2; whnf); first | split | extract_lets)
    | with_reducible apply SndKeeps.pair
    | with_reducible exact OptKeeps.none
    | with_reducible apply OptKeeps.some
    | (with_reducible refine OptKeeps.elim ?_ (by assumption))
    | (with_reducible refine SndKeeps.elim2 ?_ (by assumption))
    | (with_reducible refine SndKeeps.elim ?_ (by assumption))
    | (dsimp only; fail_if_success extract_lets)
    | with_reducible intro _

theorem keeps_settle (h : Keeps σ s) (c : Fin 9) : Keeps σ (settle c s) := by
  unfold settle
  try extract_lets
  repeat' first
    | with_reducible exact h
    | with_reducible assumption
    | with_reducible apply keeps_settleStream
    | with_reducible refine Keeps.each ?_ _ (fun _ _ _ => ?_)
    | split
    | extract_lets
    | ((with_reducible conv => arg 2; whnf); first | split | extract_lets)
    | with_reducible intro _

theorem keeps_takeIssue (h : Keeps σ s) (c : Fin 9) (st : Fin 4) (u : UnitId) : Keeps σ (takeIssue c st u s) := by
  unfold takeIssue
  try extract_lets
  repeat' first
    | with_reducible exact h
    | with_reducible assumption
    | with_reducible apply keeps_popHead
    | (with_reducible refine Keeps.modChanSame ?_ _ ?_ ?_; rotate_left; with_reducible rfl; with_reducible rfl)
    | (with_reducible refine Keeps.modChan ?_ _ ?_; rotate_left; focus (intro hw; (repeat' split) <;> first | (refine Chan.wf_same hw ?_ ?_ <;> with_reducible rfl) | (refine Chan.wf_noStakes hw ?_ ?_ <;> with_reducible rfl) | (refine Chan.wf_noMem hw ?_ ?_ <;> with_reducible rfl) | (exact Chan.wf_empty rfl rfl)))
    | (with_reducible apply Keeps.any; with_reducible first | exact h | assumption | apply keeps_popHead)
    | split
    | extract_lets
    | ((with_reducible conv => arg 2; whnf); first | split | extract_lets)
    | with_reducible intro _

theorem keeps_issueHead (h : Keeps σ s) (c : Fin 9) (st : Fin 4) (isOp : List Byte → Bool) (k : Fly → State → State) (hk : ∀ x0 t, Keeps σ t → Keeps σ (k x0 t)) : Keeps σ (issueHead c st isOp k s) := by
  unfold issueHead
  try extract_lets
  repeat' first
    | with_reducible exact h
    | with_reducible assumption
    | with_reducible apply hk
    | with_reducible apply keeps_settle
    | with_reducible apply keeps_finishQueued
    | with_reducible apply keeps_endFetch
    | with_reducible apply keeps_popHead
    | with_reducible apply keeps_takeIssue
    | split
    | extract_lets
    | (clear_value *; split)
    | ((with_reducible conv => arg 2; whnf); first | split | extract_lets)
    | with_reducible apply SndKeeps.pair
    | with_reducible exact OptKeeps.none
    | with_reducible apply OptKeeps.some
    | (with_reducible refine OptKeeps.elim ?_ (by assumption))
    | (with_reducible refine SndKeeps.elim2 ?_ (by assumption))
    | (with_reducible refine SndKeeps.elim ?_ (by assumption))
    | (dsimp only; fail_if_success extract_lets)
    | with_reducible intro _

theorem keeps_enterUnit (h : Keeps σ s) (c : Fin 9) (f : Fly) : Keeps σ (enterUnit c f s) := by
  unfold enterUnit
  try extract_lets
  repeat' first
    | with_reducible exact h
    | with_reducible assumption
    | (with_reducible refine Keeps.modChanSame ?_ _ ?_ ?_; rotate_left; with_reducible rfl; with_reducible rfl)
    | (with_reducible refine Keeps.modChan ?_ _ ?_; rotate_left; focus (intro hw; (repeat' split) <;> first | (refine Chan.wf_same hw ?_ ?_ <;> with_reducible rfl) | (refine Chan.wf_noStakes hw ?_ ?_ <;> with_reducible rfl) | (refine Chan.wf_noMem hw ?_ ?_ <;> with_reducible rfl) | (exact Chan.wf_empty rfl rfl)))
    | (with_reducible apply Keeps.any; with_reducible first | exact h | assumption)
    | split
    | extract_lets
    | ((with_reducible conv => arg 2; whnf); first | split | extract_lets)
    | with_reducible intro _

theorem keeps_refuseAt (h : Keeps σ s) (c : Fin 9) (f : Fly) (status flags : H16) (detail : Nat) : Keeps σ (refuseAt c f status flags detail s) := by
  unfold refuseAt
  try extract_lets
  repeat' first
    | with_reducible exact h
    | with_reducible assumption
    | with_reducible apply keeps_finishDesc
    | split
    | extract_lets
    | ((with_reducible conv => arg 2; whnf); first | split | extract_lets)
    | with_reducible intro _

theorem keeps_resetDescriptors (h : Keeps σ s) (c : Fin 9) : Keeps σ (resetDescriptors c s) := by
  unfold resetDescriptors
  try extract_lets
  repeat' first
    | with_reducible exact h
    | with_reducible assumption
    | with_reducible apply keeps_countGrants
    | with_reducible apply keeps_endFlies
    | with_reducible apply Keeps.modStream
    | with_reducible apply keeps_finishDesc
    | with_reducible apply keeps_finishQueued
    | with_reducible apply keeps_sweep
    | with_reducible refine Keeps.each ?_ _ (fun _ _ _ => ?_)
    | with_reducible refine Keeps.when ?_ _ (fun _ _ => ?_)
    | split
    | extract_lets
    | (clear_value *; split)
    | ((with_reducible conv => arg 2; whnf); first | split | extract_lets)
    | with_reducible apply SndKeeps.pair
    | with_reducible exact OptKeeps.none
    | with_reducible apply OptKeeps.some
    | (with_reducible refine OptKeeps.elim ?_ (by assumption))
    | (with_reducible refine SndKeeps.elim2 ?_ (by assumption))
    | (with_reducible refine SndKeeps.elim ?_ (by assumption))
    | (dsimp only; fail_if_success extract_lets)
    | with_reducible intro _

theorem keeps_endUnit (h : Keeps σ s) (c : Fin 9) (u : UnitId) (failed : Option Nat) : Keeps σ (endUnit c u failed s) := by
  unfold endUnit
  try extract_lets
  repeat' first
    | with_reducible exact h
    | with_reducible assumption
    | with_reducible apply keeps_endFly
    | with_reducible apply keeps_sweep
    | with_reducible refine Keeps.each ?_ _ (fun _ _ _ => ?_)
    | (with_reducible apply Keeps.any; with_reducible first | exact h | assumption | apply keeps_endFly | apply keeps_sweep)
    | split
    | extract_lets
    | (clear_value *; split)
    | ((with_reducible conv => arg 2; whnf); first | split | extract_lets)
    | with_reducible apply SndKeeps.pair
    | with_reducible exact OptKeeps.none
    | with_reducible apply OptKeeps.some
    | (with_reducible refine OptKeeps.elim ?_ (by assumption))
    | (with_reducible refine SndKeeps.elim2 ?_ (by assumption))
    | (with_reducible refine SndKeeps.elim ?_ (by assumption))
    | (dsimp only; fail_if_success extract_lets)
    | with_reducible intro _

theorem keeps_endOwners (h : Keeps σ s) (c : Fin 9) (p : MRun → Bool) : Keeps σ (endOwners c p s) := by
  unfold endOwners
  try extract_lets
  repeat' first
    | with_reducible exact h
    | with_reducible assumption
    | with_reducible apply keeps_sweep
    | with_reducible apply keeps_endFlies
    | split
    | extract_lets
    | ((with_reducible conv => arg 2; whnf); first | split | extract_lets)
    | with_reducible intro _

end Sys2Proof.Machine
end

