-- ==== Sys2Proof/Laws/KeepsFence.lean ====
section
/-! SUPPORT. What every operation of Machine/Fence.lean keeps (see Keeps). -/
namespace Sys2Proof.Machine
set_option linter.unusedTactic false
set_option linter.unreachableTactic false
set_option linter.unnecessarySeqFocus false
variable {σ s : State}

theorem keeps_setRole (h : Keeps σ s) (c : Fin 9) (r : Role) (severe : Bool) : Keeps σ (setRole c r severe s) := by
  unfold setRole
  try extract_lets
  repeat' first
    | with_reducible exact h
    | with_reducible assumption
    | with_reducible apply keeps_eventNoNote
    | with_reducible apply keeps_note
    | with_reducible apply keeps_freezeRing
    | with_reducible refine Keeps.when ?_ _ (fun _ _ => ?_)
    | (with_reducible refine Keeps.modChanSame ?_ _ ?_ ?_; rotate_left; with_reducible rfl; with_reducible rfl)
    | (with_reducible refine Keeps.modChan ?_ _ ?_; rotate_left; focus (intro hw; (repeat' split) <;> first | (refine Chan.wf_same hw ?_ ?_ <;> with_reducible rfl) | (refine Chan.wf_noStakes hw ?_ ?_ <;> with_reducible rfl) | (refine Chan.wf_noMem hw ?_ ?_ <;> with_reducible rfl) | (exact Chan.wf_empty rfl rfl)))
    | (with_reducible apply Keeps.any; with_reducible first | exact h | assumption | apply keeps_eventNoNote | apply keeps_note | apply keeps_freezeRing)
    | split
    | extract_lets
    | ((with_reducible conv => arg 2; whnf); first | split | extract_lets)
    | with_reducible intro _

theorem keeps_noSpareCheck (h : Keeps σ s) (c : Fin 9) : Keeps σ (noSpareCheck c s) := by
  unfold noSpareCheck
  try extract_lets
  repeat' first
    | with_reducible exact h
    | with_reducible assumption
    | with_reducible apply keeps_event
    | split
    | extract_lets
    | (clear_value *; split)
    | ((with_reducible conv => arg 2; whnf); first | split | extract_lets)
    | with_reducible apply SndKeeps.pair
    | with_reducible exact OptKeeps.none
    | with_reducible apply OptKeeps.some
    | (with_reducible refine OptKeeps.elim ?_ (by assumption))
    | (with_reducible refine SndKeeps.elim2 ?_ (by assumption))
    | (with_reducible refine SndKeeps.elim ?_ (by assumption))
    | (dsimp only; fail_if_success extract_lets)
    | with_reducible intro _

theorem keeps_recallLoans (h : Keeps σ s) (p : Nat → Loan → Bool) : Keeps σ (recallLoans p s) := by
  unfold recallLoans
  try extract_lets
  repeat' first
    | with_reducible exact h
    | with_reducible assumption
    | with_reducible apply Keeps.modHub
    | with_reducible apply keeps_sweep
    | with_reducible apply keeps_endFlies
    | with_reducible apply keeps_setRole
    | with_reducible apply keeps_eventNoNote
    | with_reducible apply keeps_cause
    | (with_reducible apply SndKeeps.snd; with_reducible first | apply SndKeeps.draw | apply keeps_sweep | apply keeps_endFlies | apply keeps_setRole | apply keeps_eventNoNote | apply keeps_cause)
    | with_reducible refine Keeps.each ?_ _ (fun _ _ _ => ?_)
    | with_reducible refine Keeps.when ?_ _ (fun _ _ => ?_)
    | (with_reducible apply Keeps.any; with_reducible first | exact h | assumption | apply Keeps.modHub | apply keeps_sweep | apply keeps_endFlies | apply keeps_setRole | apply keeps_eventNoNote | apply keeps_cause)
    | split
    | extract_lets
    | ((with_reducible conv => arg 2; whnf); first | split | extract_lets)
    | with_reducible intro _

theorem keeps_endSends (h : Keeps σ s) (c : Fin 9) (p : Fin 6) (lost : List TxFlit) (status : H16) : Keeps σ (endSends c p lost status s) := by
  unfold endSends
  try extract_lets
  repeat' first
    | with_reducible exact h
    | with_reducible assumption
    | with_reducible apply keeps_sweep
    | with_reducible apply keeps_endFlies
    | split
    | extract_lets
    | ((with_reducible conv => arg 2; whnf); first | split | extract_lets)
    | with_reducible intro _

theorem keeps_copyFail (h : Keeps σ s) (c : Fin 9) : Keeps σ (copyFail c s) := by
  unfold copyFail
  try extract_lets
  repeat' first
    | with_reducible exact h
    | with_reducible assumption
    | with_reducible apply Keeps.modPlat
    | with_reducible apply keeps_eventNoNote
    | with_reducible apply keeps_cause
    | (with_reducible apply Keeps.any; with_reducible first | exact h | assumption | apply Keeps.modPlat | apply keeps_eventNoNote | apply keeps_cause)
    | split
    | extract_lets
    | (clear_value *; split)
    | ((with_reducible conv => arg 2; whnf); first | split | extract_lets)
    | with_reducible apply SndKeeps.pair
    | with_reducible exact OptKeeps.none
    | with_reducible apply OptKeeps.some
    | (with_reducible refine OptKeeps.elim ?_ (by assumption))
    | (with_reducible refine SndKeeps.elim2 ?_ (by assumption))
    | (with_reducible refine SndKeeps.elim ?_ (by assumption))
    | (dsimp only; fail_if_success extract_lets)
    | with_reducible intro _

theorem keeps_returnCredit (h : Keeps σ s) (c : Fin 9) (p : Fin 6) (lane : Fin 4) (cls : Fin 2) : Keeps σ (returnCredit c p lane cls s) := by
  unfold returnCredit
  try extract_lets
  repeat' first
    | with_reducible exact h
    | with_reducible assumption
    | with_reducible apply Keeps.modPort
    | (with_reducible apply Keeps.any; with_reducible first | exact h | assumption | apply Keeps.modPort)
    | split
    | extract_lets
    | ((with_reducible conv => arg 2; whnf); first | split | extract_lets)
    | with_reducible intro _

theorem keeps_leaveBuffer (h : Keeps σ s) (c : Fin 9) (t : TxFlit) : Keeps σ (leaveBuffer c t s) := by
  unfold leaveBuffer
  try extract_lets
  repeat' first
    | with_reducible exact h
    | with_reducible assumption
    | with_reducible apply keeps_returnCredit
    | split
    | extract_lets
    | (clear_value *; split)
    | ((with_reducible conv => arg 2; whnf); first | split | extract_lets)
    | with_reducible apply SndKeeps.pair
    | with_reducible exact OptKeeps.none
    | with_reducible apply OptKeeps.some
    | (with_reducible refine OptKeeps.elim ?_ (by assumption))
    | (with_reducible refine SndKeeps.elim2 ?_ (by assumption))
    | (with_reducible refine SndKeeps.elim ?_ (by assumption))
    | (dsimp only; fail_if_success extract_lets)
    | with_reducible intro _

theorem keeps_discardPort (h : Keeps σ s) (c : Fin 9) (p : Fin 6) (status : H16) : Keeps σ (discardPort c p status s) := by
  unfold discardPort
  try extract_lets
  repeat' first
    | with_reducible exact h
    | with_reducible assumption
    | with_reducible apply Keeps.modPort
    | with_reducible apply keeps_leaveBuffer
    | with_reducible apply Keeps.bumpField
    | with_reducible apply keeps_cause
    | with_reducible apply keeps_copyFail
    | with_reducible apply keeps_endSends
    | with_reducible refine Keeps.each ?_ _ (fun _ _ _ => ?_)
    | with_reducible refine Keeps.when ?_ _ (fun _ _ => ?_)
    | (with_reducible apply Keeps.any; with_reducible first | exact h | assumption | apply Keeps.modPort | apply keeps_leaveBuffer | apply Keeps.bumpField | apply keeps_cause | apply keeps_copyFail | apply keeps_endSends)
    | split
    | extract_lets
    | ((with_reducible conv => arg 2; whnf); first | split | extract_lets)
    | with_reducible intro _

theorem keeps_sendLinkMsg (h : Keeps σ s) (c : Fin 9) (p : Fin 6) (code : Byte) (body : List Byte) : Keeps σ (sendLinkMsg c p code body s) := by
  unfold sendLinkMsg
  try extract_lets
  repeat' first
    | with_reducible exact h
    | with_reducible assumption
    | with_reducible apply Keeps.modPort
    | (with_reducible apply Keeps.any; with_reducible first | exact h | assumption | apply Keeps.modPort)
    | split
    | extract_lets
    | ((with_reducible conv => arg 2; whnf); first | split | extract_lets)
    | with_reducible intro _

theorem keeps_startLinkMsg (h : Keeps σ s) (c : Fin 9) (p : Fin 6) (code : Byte) (body : List Byte) (left : Option Nat) : Keeps σ (startLinkMsg c p code body left s) := by
  unfold startLinkMsg
  try extract_lets
  repeat' first
    | with_reducible exact h
    | with_reducible assumption
    | with_reducible apply keeps_sendLinkMsg
    | with_reducible apply Keeps.modPort
    | (with_reducible apply Keeps.any; with_reducible first | exact h | assumption | apply keeps_sendLinkMsg | apply Keeps.modPort)
    | split
    | extract_lets
    | ((with_reducible conv => arg 2; whnf); first | split | extract_lets)
    | with_reducible intro _

theorem keeps_forgetPeer (h : Keeps σ s) (c : Fin 9) (p : Fin 6) : Keeps σ (forgetPeer c p s) := by
  unfold forgetPeer
  try extract_lets
  repeat' first
    | with_reducible exact h
    | with_reducible assumption
    | with_reducible apply keeps_discardPort
    | with_reducible apply Keeps.modPort
    | (with_reducible apply Keeps.any; with_reducible first | exact h | assumption | apply keeps_discardPort | apply Keeps.modPort)
    | split
    | extract_lets
    | ((with_reducible conv => arg 2; whnf); first | split | extract_lets)
    | with_reducible intro _

theorem keeps_linkDown (h : Keeps σ s) (c : Fin 9) (p : Fin 6) : Keeps σ (linkDown c p s) := by
  unfold linkDown
  try extract_lets
  repeat' first
    | with_reducible exact h
    | with_reducible assumption
    | with_reducible apply Keeps.modPort
    | with_reducible apply Keeps.bumpField
    | with_reducible apply keeps_cause
    | with_reducible apply keeps_eventNoNote
    | with_reducible apply keeps_forgetPeer
    | with_reducible refine Keeps.when ?_ _ (fun _ _ => ?_)
    | (with_reducible apply Keeps.any; with_reducible first | exact h | assumption | apply Keeps.modPort | apply Keeps.bumpField | apply keeps_cause | apply keeps_eventNoNote | apply keeps_forgetPeer)
    | split
    | extract_lets
    | ((with_reducible conv => arg 2; whnf); first | split | extract_lets)
    | with_reducible intro _

theorem keeps_takeDown (h : Keeps σ s) (c : Fin 9) (p : Fin 6) : Keeps σ (takeDown c p s) := by
  unfold takeDown
  try extract_lets
  repeat' first
    | with_reducible exact h
    | with_reducible assumption
    | with_reducible apply keeps_startLinkMsg
    | with_reducible apply keeps_linkDown
    | split
    | extract_lets
    | ((with_reducible conv => arg 2; whnf); first | split | extract_lets)
    | with_reducible intro _

theorem keeps_portDown (h : Keeps σ s) (c : Fin 9) (p : Fin 6) (status : H16) : Keeps σ (portDown c p status s) := by
  unfold portDown
  try extract_lets
  repeat' first
    | with_reducible exact h
    | with_reducible assumption
    | with_reducible apply keeps_discardPort
    | with_reducible apply keeps_takeDown
    | with_reducible apply Keeps.modPort
    | (with_reducible apply Keeps.any; with_reducible first | exact h | assumption | apply keeps_discardPort | apply keeps_takeDown | apply Keeps.modPort)
    | split
    | extract_lets
    | ((with_reducible conv => arg 2; whnf); first | split | extract_lets)
    | with_reducible intro _

theorem keeps_releaseLock (h : Keeps σ s) (p : Page) : Keeps σ (releaseLock p s) := by
  unfold releaseLock
  try extract_lets
  repeat' first
    | with_reducible exact h
    | with_reducible assumption
    | with_reducible apply keeps_endLock
    | split
    | extract_lets
    | (clear_value *; split)
    | ((with_reducible conv => arg 2; whnf); first | split | extract_lets)
    | with_reducible apply SndKeeps.pair
    | with_reducible exact OptKeeps.none
    | with_reducible apply OptKeeps.some
    | (with_reducible refine OptKeeps.elim ?_ (by assumption))
    | (with_reducible refine SndKeeps.elim2 ?_ (by assumption))
    | (with_reducible refine SndKeeps.elim ?_ (by assumption))
    | (dsimp only; fail_if_success extract_lets)
    | with_reducible intro _

theorem keeps_stackEnds (h : Keeps σ s) (p : Page) : Keeps σ (stackEnds p s) := by
  unfold stackEnds
  try extract_lets
  repeat' first
    | with_reducible exact h
    | with_reducible assumption
    | with_reducible apply keeps_endOwners
    | split
    | extract_lets
    | ((with_reducible conv => arg 2; whnf); first | split | extract_lets)
    | with_reducible intro _

theorem keeps_stackReleased (h : Keeps σ s) (p : Page) : Keeps σ (stackReleased p s) := by
  unfold stackReleased
  try extract_lets
  repeat' first
    | with_reducible exact h
    | with_reducible assumption
    | (with_reducible refine Keeps.modChanSame ?_ _ ?_ ?_; rotate_left; with_reducible rfl; with_reducible rfl)
    | (with_reducible refine Keeps.modChan ?_ _ ?_; rotate_left; focus (intro hw; (repeat' split) <;> first | (refine Chan.wf_same hw ?_ ?_ <;> with_reducible rfl) | (refine Chan.wf_noStakes hw ?_ ?_ <;> with_reducible rfl) | (refine Chan.wf_noMem hw ?_ ?_ <;> with_reducible rfl) | (exact Chan.wf_empty rfl rfl)))
    | (with_reducible apply Keeps.any; with_reducible first | exact h | assumption)
    | split
    | extract_lets
    | ((with_reducible conv => arg 2; whnf); first | split | extract_lets)
    | with_reducible intro _

theorem keeps_cacheReset (h : Keeps σ s) (c : Fin 9) : Keeps σ (cacheReset c s) := by
  unfold cacheReset
  try extract_lets
  repeat' first
    | with_reducible exact h
    | with_reducible assumption
    | with_reducible apply keeps_invalidateLines
    | with_reducible apply keeps_writeBackLines
    | with_reducible apply keeps_endOwners
    | with_reducible apply keeps_modMerid
    | (with_reducible apply SndKeeps.snd; with_reducible first | apply SndKeeps.draw | apply keeps_invalidateLines | apply keeps_writeBackLines | apply keeps_endOwners | apply keeps_modMerid)
    | with_reducible refine Keeps.when ?_ _ (fun _ _ => ?_)
    | (with_reducible refine Keeps.modChanSame ?_ _ ?_ ?_; rotate_left; with_reducible rfl; with_reducible rfl)
    | (with_reducible refine Keeps.modChan ?_ _ ?_; rotate_left; focus (intro hw; (repeat' split) <;> first | (refine Chan.wf_same hw ?_ ?_ <;> with_reducible rfl) | (refine Chan.wf_noStakes hw ?_ ?_ <;> with_reducible rfl) | (refine Chan.wf_noMem hw ?_ ?_ <;> with_reducible rfl) | (exact Chan.wf_empty rfl rfl)))
    | (with_reducible apply Keeps.any; with_reducible first | exact h | assumption | apply keeps_invalidateLines | apply keeps_writeBackLines | apply keeps_endOwners | apply keeps_modMerid)
    | split
    | extract_lets
    | ((with_reducible conv => arg 2; whnf); first | split | extract_lets)
    | with_reducible intro _

theorem keeps_meridReset (h : Keeps σ s) (c : Fin 9) : Keeps σ (meridReset c s) := by
  unfold meridReset
  try extract_lets
  repeat' first
    | with_reducible exact h
    | with_reducible assumption
    | with_reducible apply keeps_endUnit
    | with_reducible apply keeps_failFetch
    | with_reducible apply keeps_modMerid
    | with_reducible refine Keeps.each ?_ _ (fun _ _ _ => ?_)
    | with_reducible refine Keeps.when ?_ _ (fun _ _ => ?_)
    | split
    | extract_lets
    | ((with_reducible conv => arg 2; whnf); first | split | extract_lets)
    | with_reducible intro _

theorem keeps_takeFill (h : Keeps σ s) (c : Fin 9) (a : Fin 2) : Keeps σ (takeFill c a s) := by
  unfold takeFill
  try extract_lets
  repeat' first
    | with_reducible exact h
    | with_reducible assumption
    | with_reducible apply Keeps.modArray
    | (with_reducible apply Keeps.any; with_reducible first | exact h | assumption | apply Keeps.modArray)
    | split
    | extract_lets
    | ((with_reducible conv => arg 2; whnf); first | split | extract_lets)
    | with_reducible intro _

theorem keeps_rampDown (h : Keeps σ s) (c : Fin 9) (a : Fin 2) : Keeps σ (rampDown c a s) := by
  unfold rampDown
  try extract_lets
  repeat' first
    | with_reducible exact h
    | with_reducible assumption
    | with_reducible apply Keeps.modArray
    | with_reducible apply Keeps.bumpField
    | (with_reducible apply Keeps.any; with_reducible first | exact h | assumption | apply Keeps.modArray | apply Keeps.bumpField)
    | split
    | extract_lets
    | ((with_reducible conv => arg 2; whnf); first | split | extract_lets)
    | with_reducible intro _

theorem keeps_rampUp (h : Keeps σ s) (c : Fin 9) (a : Fin 2) : Keeps σ (rampUp c a s) := by
  unfold rampUp
  try extract_lets
  repeat' first
    | with_reducible exact h
    | with_reducible assumption
    | with_reducible apply Keeps.bumpField
    | with_reducible apply Keeps.modArray
    | (with_reducible apply Keeps.any; with_reducible first | exact h | assumption | apply Keeps.bumpField | apply Keeps.modArray)
    | split
    | extract_lets
    | ((with_reducible conv => arg 2; whnf); first | split | extract_lets)
    | with_reducible intro _

theorem keeps_openGap (h : Keeps σ s) (c : Fin 9) (a : Fin 2) : Keeps σ (openGap c a s) := by
  unfold openGap
  try extract_lets
  repeat' first
    | with_reducible exact h
    | with_reducible assumption
    | with_reducible apply keeps_takeFill
    | with_reducible apply keeps_rampDown
    | split
    | extract_lets
    | ((with_reducible conv => arg 2; whnf); first | split | extract_lets)
    | with_reducible intro _

theorem keeps_holdUp (h : Keeps σ s) (c : Fin 9) (a : Fin 2) : Keeps σ (holdUp c a s) := by
  unfold holdUp
  try extract_lets
  repeat' first
    | with_reducible exact h
    | with_reducible assumption
    | with_reducible apply keeps_rampDown
    | with_reducible apply keeps_rampUp
    | split
    | extract_lets
    | ((with_reducible conv => arg 2; whnf); first | split | extract_lets)
    | with_reducible intro _

theorem keeps_withGaps (h : Keeps σ s) (c : Fin 9) (k : State → State) (hk : ∀  t, Keeps σ t → Keeps σ (k  t)) : Keeps σ (withGaps c k s) := by
  unfold withGaps
  try extract_lets
  repeat' first
    | with_reducible exact h
    | with_reducible assumption
    | with_reducible apply hk
    | with_reducible apply keeps_openGap
    | with_reducible refine Keeps.each ?_ _ (fun _ _ _ => ?_)
    | split
    | extract_lets
    | ((with_reducible conv => arg 2; whnf); first | split | extract_lets)
    | with_reducible intro _

theorem keeps_endClosures (h : Keeps σ s) (c : Fin 9) (units : List UnitId) : Keeps σ (endClosures c units s) := by
  unfold endClosures
  try extract_lets
  repeat' first
    | with_reducible exact h
    | with_reducible assumption
    | with_reducible apply keeps_endFly
    | with_reducible refine Keeps.each ?_ _ (fun _ _ _ => ?_)
    | split
    | extract_lets
    | ((with_reducible conv => arg 2; whnf); first | split | extract_lets)
    | with_reducible intro _

theorem keeps_abandonInstall (h : Keeps σ s)  : Keeps σ (abandonInstall s) := by
  unfold abandonInstall
  try extract_lets
  repeat' first
    | with_reducible exact h
    | with_reducible assumption
    | with_reducible apply Keeps.modSec
    | (with_reducible apply SndKeeps.snd; with_reducible first | apply SndKeeps.draw)
    | (with_reducible apply Keeps.any; with_reducible first | exact h | assumption | apply Keeps.modSec)
    | split
    | extract_lets
    | (clear_value *; split)
    | ((with_reducible conv => arg 2; whnf); first | split | extract_lets)
    | with_reducible apply SndKeeps.pair
    | with_reducible exact OptKeeps.none
    | with_reducible apply OptKeeps.some
    | (with_reducible refine OptKeeps.elim ?_ (by assumption))
    | (with_reducible refine SndKeeps.elim2 ?_ (by assumption))
    | (with_reducible refine SndKeeps.elim ?_ (by assumption))
    | (dsimp only; fail_if_success extract_lets)
    | with_reducible intro _

theorem keeps_stopGlobal (h : Keeps σ s) (b : Blk) : Keeps σ (stopGlobal b s) := by
  unfold stopGlobal
  try extract_lets
  repeat' first
    | with_reducible exact h
    | with_reducible assumption
    | with_reducible apply keeps_abandonInstall
    | with_reducible apply keeps_stopSurvey
    | with_reducible refine Keeps.each ?_ _ (fun _ _ _ => ?_)
    | (with_reducible refine Keeps.modSupv ?_ ?_; rotate_left; focus ((repeat' split) <;> with_reducible rfl))
    | (with_reducible apply Keeps.any; with_reducible first | exact h | assumption | apply keeps_abandonInstall | apply keeps_stopSurvey)
    | split
    | extract_lets
    | (clear_value *; split)
    | ((with_reducible conv => arg 2; whnf); first | split | extract_lets)
    | with_reducible apply SndKeeps.pair
    | with_reducible exact OptKeeps.none
    | with_reducible apply OptKeeps.some
    | (with_reducible refine OptKeeps.elim ?_ (by assumption))
    | (with_reducible refine SndKeeps.elim2 ?_ (by assumption))
    | (with_reducible refine SndKeeps.elim ?_ (by assumption))
    | (dsimp only; fail_if_success extract_lets)
    | with_reducible intro _

theorem keeps_stopBlock (h : Keeps σ s) (p : Page) : Keeps σ (stopBlock p s) := by
  unfold stopBlock
  try extract_lets
  repeat' first
    | with_reducible exact h
    | with_reducible assumption
    | with_reducible apply keeps_releaseLock
    | with_reducible apply keeps_withdrawPage
    | with_reducible apply keeps_endClosures
    | with_reducible apply keeps_endUnit
    | with_reducible apply keeps_withGaps
    | with_reducible apply keeps_resetDescriptors
    | with_reducible apply keeps_rampDown
    | with_reducible apply Keeps.modArray
    | with_reducible apply keeps_endFlies
    | with_reducible apply keeps_meridReset
    | with_reducible apply keeps_portDown
    | with_reducible apply keeps_takeDown
    | with_reducible apply Keeps.modPlat
    | with_reducible apply keeps_recallLoans
    | with_reducible apply Keeps.modHub
    | with_reducible apply keeps_sweep
    | with_reducible apply Keeps.modIcp
    | with_reducible apply keeps_cacheReset
    | with_reducible apply keeps_stackEnds
    | with_reducible apply keeps_stopGlobal
    | with_reducible refine Keeps.each ?_ _ (fun _ _ _ => ?_)
    | with_reducible refine Keeps.when ?_ _ (fun _ _ => ?_)
    | (with_reducible refine Keeps.modChanSame ?_ _ ?_ ?_; rotate_left; with_reducible rfl; with_reducible rfl)
    | (with_reducible refine Keeps.modChan ?_ _ ?_; rotate_left; focus (intro hw; (repeat' split) <;> first | (refine Chan.wf_same hw ?_ ?_ <;> with_reducible rfl) | (refine Chan.wf_noStakes hw ?_ ?_ <;> with_reducible rfl) | (refine Chan.wf_noMem hw ?_ ?_ <;> with_reducible rfl) | (exact Chan.wf_empty rfl rfl)))
    | with_reducible apply Keeps.draw
    | with_reducible apply SndKeeps.draw
    | (with_reducible apply Keeps.any; with_reducible first | exact h | assumption | apply keeps_releaseLock | apply keeps_withdrawPage | apply keeps_endClosures | apply keeps_endUnit | apply keeps_withGaps | apply keeps_resetDescriptors | apply keeps_rampDown | apply Keeps.modArray | apply keeps_endFlies | apply keeps_meridReset | apply keeps_portDown | apply keeps_takeDown | apply Keeps.modPlat | apply keeps_recallLoans | apply Keeps.modHub | apply keeps_sweep | apply Keeps.modIcp | apply keeps_cacheReset | apply keeps_stackEnds | apply keeps_stopGlobal)
    | split
    | extract_lets
    | (clear_value *; split)
    | ((with_reducible conv => arg 2; whnf); first | split | extract_lets)
    | with_reducible apply SndKeeps.pair
    | with_reducible exact OptKeeps.none
    | with_reducible apply OptKeeps.some
    | (with_reducible refine OptKeeps.elim ?_ (by assumption))
    | (with_reducible refine SndKeeps.elim2 ?_ (by assumption))
    | (with_reducible refine SndKeeps.elim ?_ (by assumption))
    | (dsimp only; fail_if_success extract_lets)
    | with_reducible intro _

theorem keeps_beginReset (h : Keeps σ s) (p : Page) : Keeps σ (beginReset p s) := by
  unfold beginReset
  try extract_lets
  repeat' first
    | with_reducible exact h
    | with_reducible assumption
    | with_reducible apply Keeps.modHdr
    | with_reducible apply keeps_stopBlock
    | (with_reducible apply Keeps.any; with_reducible first | exact h | assumption | apply Keeps.modHdr | apply keeps_stopBlock)
    | split
    | extract_lets
    | ((with_reducible conv => arg 2; whnf); first | split | extract_lets)
    | with_reducible intro _

theorem keeps_initBlock (h : Keeps σ s) (p : Page) : Keeps σ (initBlock p s) := by
  unfold initBlock
  try extract_lets
  repeat' first
    | with_reducible exact h
    | with_reducible assumption
    | with_reducible apply Keeps.clearRegs
    | with_reducible apply Keeps.setReg
    | with_reducible apply Keeps.modArray
    | with_reducible apply keeps_modMerid
    | with_reducible apply Keeps.modSec
    | with_reducible apply Keeps.modPwr
    | (with_reducible apply SndKeeps.snd; with_reducible first | apply SndKeeps.draw | apply keeps_modMerid)
    | with_reducible refine Keeps.each ?_ _ (fun _ _ _ => ?_)
    | (with_reducible refine Keeps.modChanSame ?_ _ ?_ ?_; rotate_left; with_reducible rfl; with_reducible rfl)
    | (with_reducible refine Keeps.modChan ?_ _ ?_; rotate_left; focus (intro hw; (repeat' split) <;> first | (refine Chan.wf_same hw ?_ ?_ <;> with_reducible rfl) | (refine Chan.wf_noStakes hw ?_ ?_ <;> with_reducible rfl) | (refine Chan.wf_noMem hw ?_ ?_ <;> with_reducible rfl) | (exact Chan.wf_empty rfl rfl)))
    | (with_reducible refine Keeps.modSupv ?_ ?_; rotate_left; focus ((repeat' split) <;> with_reducible rfl))
    | (with_reducible apply Keeps.any; with_reducible first | exact h | assumption | apply Keeps.clearRegs | apply Keeps.setReg | apply Keeps.modArray | apply keeps_modMerid | apply Keeps.modSec | apply Keeps.modPwr | refine SndKeeps.elim ?_ (by assumption))
    | split
    | extract_lets
    | (clear_value *; split)
    | ((with_reducible conv => arg 2; whnf); first | split | extract_lets)
    | with_reducible apply SndKeeps.pair
    | with_reducible exact OptKeeps.none
    | with_reducible apply OptKeeps.some
    | (with_reducible refine OptKeeps.elim ?_ (by assumption))
    | (with_reducible refine SndKeeps.elim2 ?_ (by assumption))
    | (with_reducible refine SndKeeps.elim ?_ (by assumption))
    | (dsimp only; fail_if_success extract_lets)
    | with_reducible intro _

theorem keeps_endReset (h : Keeps σ s) (p : Page) : Keeps σ (endReset p s) := by
  unfold endReset
  try extract_lets
  repeat' first
    | with_reducible exact h
    | with_reducible assumption
    | with_reducible apply Keeps.modHdr
    | with_reducible apply keeps_initBlock
    | (with_reducible apply Keeps.any; with_reducible first | exact h | assumption | apply Keeps.modHdr | apply keeps_initBlock)
    | split
    | extract_lets
    | ((with_reducible conv => arg 2; whnf); first | split | extract_lets)
    | with_reducible intro _

theorem keeps_powerDownBlock (h : Keeps σ s) (p : Page) : Keeps σ (powerDownBlock p s) := by
  unfold powerDownBlock
  try extract_lets
  repeat' first
    | with_reducible exact h
    | with_reducible assumption
    | with_reducible apply keeps_endReset
    | with_reducible apply keeps_beginReset
    | split
    | extract_lets
    | ((with_reducible conv => arg 2; whnf); first | split | extract_lets)
    | with_reducible intro _

theorem keeps_releaseBlock (h : Keeps σ s) (p : Page) : Keeps σ (releaseBlock p s) := by
  unfold releaseBlock
  try extract_lets
  repeat' first
    | with_reducible exact h
    | with_reducible assumption
    | with_reducible apply Keeps.modHdr
    | (with_reducible apply Keeps.any; with_reducible first | exact h | assumption | apply Keeps.modHdr)
    | split
    | extract_lets
    | ((with_reducible conv => arg 2; whnf); first | split | extract_lets)
    | with_reducible intro _

theorem keeps_lastingFence (h : Keeps σ s) (p : Page) (inj : Bool) (failed : Option Nat) (detail : List Byte) : Keeps σ (lastingFence p inj failed detail s) := by
  unfold lastingFence
  try extract_lets
  repeat' first
    | with_reducible exact h
    | with_reducible assumption
    | with_reducible apply keeps_lastingEvent
    | with_reducible apply Keeps.modHdr
    | with_reducible apply keeps_releaseLock
    | with_reducible apply keeps_rampDown
    | with_reducible apply Keeps.modArray
    | with_reducible apply keeps_portDown
    | with_reducible apply Keeps.modPort
    | with_reducible apply keeps_withGaps
    | with_reducible apply keeps_endUnit
    | with_reducible apply keeps_stackEnds
    | with_reducible refine Keeps.each ?_ _ (fun _ _ _ => ?_)
    | with_reducible refine Keeps.when ?_ _ (fun _ _ => ?_)
    | (with_reducible apply Keeps.any; with_reducible first | exact h | assumption | apply keeps_lastingEvent | apply Keeps.modHdr | apply keeps_releaseLock | apply keeps_rampDown | apply Keeps.modArray | apply keeps_portDown | apply Keeps.modPort | apply keeps_withGaps | apply keeps_endUnit | apply keeps_stackEnds)
    | split
    | extract_lets
    | ((with_reducible conv => arg 2; whnf); first | split | extract_lets)
    | with_reducible intro _

theorem keeps_stopChannel (h : Keeps σ s) (c : Fin 9) (failed : Option Nat) : Keeps σ (stopChannel c failed s) := by
  unfold stopChannel
  try extract_lets
  repeat' first
    | with_reducible exact h
    | with_reducible assumption
    | with_reducible apply keeps_countGrants
    | with_reducible apply keeps_endFly
    | with_reducible apply keeps_resetDescriptors
    | with_reducible apply keeps_portDown
    | with_reducible apply keeps_rampDown
    | with_reducible apply keeps_stopSurvey
    | with_reducible refine Keeps.each ?_ _ (fun _ _ _ => ?_)
    | (with_reducible refine Keeps.modChanSame ?_ _ ?_ ?_; rotate_left; with_reducible rfl; with_reducible rfl)
    | (with_reducible refine Keeps.modChan ?_ _ ?_; rotate_left; focus (intro hw; (repeat' split) <;> first | (refine Chan.wf_same hw ?_ ?_ <;> with_reducible rfl) | (refine Chan.wf_noStakes hw ?_ ?_ <;> with_reducible rfl) | (refine Chan.wf_noMem hw ?_ ?_ <;> with_reducible rfl) | (exact Chan.wf_empty rfl rfl)))
    | (with_reducible apply Keeps.any; with_reducible first | exact h | assumption | apply keeps_countGrants | apply keeps_endFly | apply keeps_resetDescriptors | apply keeps_portDown | apply keeps_rampDown | apply keeps_stopSurvey)
    | split
    | extract_lets
    | ((with_reducible conv => arg 2; whnf); first | split | extract_lets)
    | with_reducible intro _

theorem keeps_resetPorts (h : Keeps σ s) (c : Fin 9) : Keeps σ (resetPorts c s) := by
  unfold resetPorts
  try extract_lets
  repeat' first
    | with_reducible exact h
    | with_reducible assumption
    | with_reducible apply keeps_initBlock
    | with_reducible apply Keeps.modHdr
    | with_reducible refine Keeps.each ?_ _ (fun _ _ _ => ?_)
    | (with_reducible apply Keeps.any; with_reducible first | exact h | assumption | apply keeps_initBlock | apply Keeps.modHdr)
    | split
    | extract_lets
    | ((with_reducible conv => arg 2; whnf); first | split | extract_lets)
    | with_reducible intro _

theorem keeps_sourceLost (h : Keeps σ s) (c : Fin 9) : Keeps σ (sourceLost c s) := by
  unfold sourceLost
  try extract_lets
  repeat' first
    | with_reducible exact h
    | with_reducible assumption
    | with_reducible apply keeps_sweep
    | with_reducible apply keeps_endFly
    | with_reducible refine Keeps.each ?_ _ (fun _ _ _ => ?_)
    | split
    | extract_lets
    | ((with_reducible conv => arg 2; whnf); first | split | extract_lets)
    | with_reducible intro _

theorem keeps_fenceChannel (h : Keeps σ s) (c : Fin 9) (r : Role) (severe : Bool) (failed : Option Nat) : Keeps σ (fenceChannel c r severe failed s) := by
  unfold fenceChannel
  try extract_lets
  repeat' first
    | with_reducible exact h
    | with_reducible assumption
    | with_reducible apply keeps_setRole
    | with_reducible apply keeps_recallLoans
    | with_reducible apply keeps_stopChannel
    | with_reducible apply keeps_sourceLost
    | with_reducible apply Keeps.modHdr
    | with_reducible apply keeps_resetPorts
    | with_reducible apply keeps_control
    | with_reducible apply keeps_noSpareCheck
    | with_reducible refine Keeps.each ?_ _ (fun _ _ _ => ?_)
    | with_reducible refine Keeps.when ?_ _ (fun _ _ => ?_)
    | (with_reducible apply Keeps.any; with_reducible first | exact h | assumption | apply keeps_setRole | apply keeps_recallLoans | apply keeps_stopChannel | apply keeps_sourceLost | apply Keeps.modHdr | apply keeps_resetPorts | apply keeps_control | apply keeps_noSpareCheck)
    | split
    | extract_lets
    | ((with_reducible conv => arg 2; whnf); first | split | extract_lets)
    | with_reducible intro _

theorem keeps_powerDownChan (h : Keeps σ s) (c : Fin 9) : Keeps σ (powerDownChan c s) := by
  unfold powerDownChan
  try extract_lets
  repeat' first
    | with_reducible exact h
    | with_reducible assumption
    | with_reducible apply keeps_recallLoans
    | with_reducible apply keeps_setRole
    | with_reducible apply keeps_sourceLost
    | with_reducible apply keeps_stopChannel
    | with_reducible apply keeps_noSpareCheck
    | with_reducible apply keeps_initBlock
    | with_reducible refine Keeps.each ?_ _ (fun _ _ _ => ?_)
    | with_reducible refine Keeps.when ?_ _ (fun _ _ => ?_)
    | (with_reducible refine Keeps.modChanSame ?_ _ ?_ ?_; rotate_left; with_reducible rfl; with_reducible rfl)
    | (with_reducible refine Keeps.modChan ?_ _ ?_; rotate_left; focus (intro hw; (repeat' split) <;> first | (refine Chan.wf_same hw ?_ ?_ <;> with_reducible rfl) | (refine Chan.wf_noStakes hw ?_ ?_ <;> with_reducible rfl) | (refine Chan.wf_noMem hw ?_ ?_ <;> with_reducible rfl) | (exact Chan.wf_empty rfl rfl)))
    | (with_reducible apply Keeps.any; with_reducible first | exact h | assumption | apply keeps_recallLoans | apply keeps_setRole | apply keeps_sourceLost | apply keeps_stopChannel | apply keeps_noSpareCheck | apply keeps_initBlock)
    | split
    | extract_lets
    | ((with_reducible conv => arg 2; whnf); first | split | extract_lets)
    | with_reducible intro _

theorem keeps_powerUpChan (h : Keeps σ s) (c : Fin 9) (r : Role) : Keeps σ (powerUpChan c r s) := by
  unfold powerUpChan
  try extract_lets
  repeat' first
    | with_reducible exact h
    | with_reducible assumption
    | with_reducible apply Keeps.modHdr
    | with_reducible apply keeps_releaseBlock
    | with_reducible apply keeps_initBlock
    | with_reducible apply Keeps.clearRegs
    | with_reducible apply keeps_cause
    | with_reducible apply Keeps.modPlat
    | with_reducible apply keeps_setRole
    | with_reducible refine Keeps.each ?_ _ (fun _ _ _ => ?_)
    | with_reducible refine Keeps.when ?_ _ (fun _ _ => ?_)
    | (with_reducible refine Keeps.modChanSame ?_ _ ?_ ?_; rotate_left; with_reducible rfl; with_reducible rfl)
    | (with_reducible refine Keeps.modChan ?_ _ ?_; rotate_left; focus (intro hw; (repeat' split) <;> first | (refine Chan.wf_same hw ?_ ?_ <;> with_reducible rfl) | (refine Chan.wf_noStakes hw ?_ ?_ <;> with_reducible rfl) | (refine Chan.wf_noMem hw ?_ ?_ <;> with_reducible rfl) | (exact Chan.wf_empty rfl rfl)))
    | (with_reducible apply Keeps.any; with_reducible first | exact h | assumption | apply Keeps.modHdr | apply keeps_releaseBlock | apply keeps_initBlock | apply Keeps.clearRegs | apply keeps_cause | apply Keeps.modPlat | apply keeps_setRole)
    | split
    | extract_lets
    | ((with_reducible conv => arg 2; whnf); first | split | extract_lets)
    | with_reducible intro _

theorem keeps_ctrlEffects (h : Keeps σ s) (p : Page) (was drain : Bool) : Keeps σ (ctrlEffects p was drain s) := by
  unfold ctrlEffects
  try extract_lets
  repeat' first
    | with_reducible exact h
    | with_reducible assumption
    | with_reducible apply keeps_releaseLock
    | with_reducible apply keeps_takeDown
    | with_reducible apply keeps_withGaps
    | with_reducible apply keeps_stackEnds
    | with_reducible apply keeps_stackReleased
    | with_reducible apply keeps_settle
    | with_reducible refine Keeps.when ?_ _ (fun _ _ => ?_)
    | split
    | extract_lets
    | ((with_reducible conv => arg 2; whnf); first | split | extract_lets)
    | with_reducible intro _

theorem keeps_ctrlWrite (h : Keeps σ s) (p : Page) (v : W32) (src : Nat) : Keeps σ (ctrlWrite p v src s) := by
  unfold ctrlWrite
  try extract_lets
  repeat' first
    | with_reducible exact h
    | with_reducible assumption
    | with_reducible apply keeps_cfgRefused
    | with_reducible apply keeps_control
    | with_reducible apply keeps_beginReset
    | with_reducible apply keeps_ctrlEffects
    | with_reducible apply Keeps.modHdr
    | with_reducible apply keeps_fireIfReleased
    | (with_reducible apply Keeps.any; with_reducible first | exact h | assumption | apply keeps_cfgRefused | apply keeps_control | apply keeps_beginReset | apply keeps_ctrlEffects | apply Keeps.modHdr | apply keeps_fireIfReleased)
    | split
    | extract_lets
    | ((with_reducible conv => arg 2; whnf); first | split | extract_lets)
    | with_reducible intro _

end Sys2Proof.Machine
end

