-- ==== Sys2Proof/Laws/KeepsLayout.lean ====
section
/-! SUPPORT. What every operation of Machine/Layout.lean keeps (see Keeps). -/
namespace Sys2Proof.Machine
set_option linter.unusedTactic false
set_option linter.unreachableTactic false
set_option linter.unnecessarySeqFocus false
variable {σ s : State}

theorem keeps_allocWrite (h : Keeps σ s) (c : Fin 9) (e w : Nat) (v : W32) : Keeps σ (allocWrite c e w v s) := by
  unfold allocWrite
  try extract_lets
  repeat' first
    | with_reducible exact h
    | with_reducible assumption
    | with_reducible apply keeps_cfgRefused
    | with_reducible apply OptKeeps.getD
    | (with_reducible refine Keeps.modChanSame ?_ _ ?_ ?_; rotate_left; with_reducible rfl; with_reducible rfl)
    | (with_reducible refine Keeps.modChan ?_ _ ?_; rotate_left; focus (intro hw; (repeat' split) <;> first | (refine Chan.wf_same hw ?_ ?_ <;> with_reducible rfl) | (refine Chan.wf_noStakes hw ?_ ?_ <;> with_reducible rfl) | (refine Chan.wf_noMem hw ?_ ?_ <;> with_reducible rfl) | (exact Chan.wf_empty rfl rfl)))
    | (with_reducible apply Keeps.any; with_reducible first | exact h | assumption | apply keeps_cfgRefused)
    | split
    | extract_lets
    | ((with_reducible conv => arg 2; whnf); first | split | extract_lets)
    | with_reducible intro _

end Sys2Proof.Machine
end

