-- ==== Sys2Proof/Laws/KeepsRoute.lean ====
section
/-! SUPPORT. What every operation of Machine/Route.lean keeps (see Keeps). -/
namespace Sys2Proof.Machine
set_option linter.unusedTactic false
set_option linter.unreachableTactic false
set_option linter.unnecessarySeqFocus false
variable {σ s : State}

theorem keeps_modCtx (h : Keeps σ s) (c : Fin 9) (x : Fin 4) (f : RouteCtx → RouteCtx) : Keeps σ (s.modCtx c x f) := by
  unfold State.modCtx
  try extract_lets
  repeat' first
    | with_reducible exact h
    | with_reducible assumption
    | with_reducible apply Keeps.modRoute
    | (with_reducible apply Keeps.any; with_reducible first | exact h | assumption | apply Keeps.modRoute)
    | split
    | extract_lets
    | ((with_reducible conv => arg 2; whnf); first | split | extract_lets)
    | with_reducible intro _

theorem keeps_emptyPlan (h : Keeps σ s) (c : Fin 9) : Keeps σ (emptyPlan c s) := by
  unfold emptyPlan
  try extract_lets
  repeat' first
    | with_reducible exact h
    | with_reducible assumption
    | with_reducible apply Keeps.modRoute
    | (with_reducible apply Keeps.any; with_reducible first | exact h | assumption | apply Keeps.modRoute)
    | split
    | extract_lets
    | ((with_reducible conv => arg 2; whnf); first | split | extract_lets)
    | with_reducible intro _

theorem keeps_stalePlan (h : Keeps σ s) (c : Fin 9) : Keeps σ (stalePlan c s) := by
  unfold stalePlan
  try extract_lets
  repeat' first
    | with_reducible exact h
    | with_reducible assumption
    | with_reducible apply keeps_cause
    | with_reducible apply keeps_emptyPlan
    | with_reducible apply Keeps.bumpField
    | split
    | extract_lets
    | ((with_reducible conv => arg 2; whnf); first | split | extract_lets)
    | with_reducible intro _

theorem keeps_planFrame (h : Keeps σ s) (c : Fin 9) (first : Bool) (off : Nat) (payload : List Byte) : SndKeeps σ (planFrame c first off payload s) := by
  unfold planFrame
  try extract_lets
  repeat' first
    | with_reducible exact h
    | with_reducible assumption
    | with_reducible apply keeps_cause
    | with_reducible apply keeps_emptyPlan
    | with_reducible apply Keeps.modRoute
    | with_reducible apply keeps_stalePlan
    | with_reducible apply SndKeeps.pair
    | (with_reducible apply SndKeeps.snd; with_reducible first | apply SndKeeps.draw | apply keeps_cause | apply keeps_emptyPlan | apply keeps_stalePlan)
    | (with_reducible apply Keeps.any; with_reducible first | exact h | assumption | apply keeps_cause | apply keeps_emptyPlan | apply Keeps.modRoute | apply keeps_stalePlan)
    | split
    | extract_lets
    | ((with_reducible conv => arg 2; whnf); first | split | extract_lets)
    | with_reducible intro _

theorem keeps_deadlinePassed (h : Keeps σ s) (c : Fin 9) (x : Fin 4) : Keeps σ (deadlinePassed c x s) := by
  unfold deadlinePassed
  try extract_lets
  repeat' first
    | with_reducible exact h
    | with_reducible assumption
    | with_reducible apply keeps_stalePlan
    | with_reducible apply keeps_modCtx
    | (with_reducible apply Keeps.any; with_reducible first | exact h | assumption | apply keeps_stalePlan | apply keeps_modCtx)
    | split
    | extract_lets
    | ((with_reducible conv => arg 2; whnf); first | split | extract_lets)
    | with_reducible intro _

theorem keeps_closeCtx (h : Keeps σ s) (c : Fin 9) (x : Fin 4) : Keeps σ (closeCtx c x s) := by
  unfold closeCtx
  try extract_lets
  repeat' first
    | with_reducible exact h
    | with_reducible assumption
    | with_reducible apply keeps_emptyPlan
    | with_reducible apply keeps_modCtx
    | with_reducible refine Keeps.when ?_ _ (fun _ _ => ?_)
    | (with_reducible refine Keeps.modChanSame ?_ _ ?_ ?_; rotate_left; with_reducible rfl; with_reducible rfl)
    | (with_reducible refine Keeps.modChan ?_ _ ?_; rotate_left; focus (intro hw; (repeat' split) <;> first | (refine Chan.wf_same hw ?_ ?_ <;> with_reducible rfl) | (refine Chan.wf_noStakes hw ?_ ?_ <;> with_reducible rfl) | (refine Chan.wf_noMem hw ?_ ?_ <;> with_reducible rfl) | (exact Chan.wf_empty rfl rfl)))
    | (with_reducible apply Keeps.any; with_reducible first | exact h | assumption | apply keeps_emptyPlan | apply keeps_modCtx)
    | split
    | extract_lets
    | ((with_reducible conv => arg 2; whnf); first | split | extract_lets)
    | with_reducible intro _

end Sys2Proof.Machine
end

