-- ==== Sys2Proof/Laws/KeepsBegin.lean ====
section
/-! SUPPORT. What every operation of Machine/Begin.lean keeps (see Keeps). -/
namespace Sys2Proof.Machine
set_option linter.unusedTactic false
set_option linter.unreachableTactic false
set_option linter.unnecessarySeqFocus false
variable {σ s : State}

theorem keeps_doReads (h : Keeps σ s) (c : Fin 9) (l : List Reads) : Keeps σ (doReads c l s) := by
  unfold doReads
  try extract_lets
  repeat' first
    | with_reducible exact h
    | with_reducible assumption
    | with_reducible apply keeps_readSpans
    | with_reducible refine Keeps.each ?_ _ (fun _ _ _ => ?_)
    | split
    | extract_lets
    | ((with_reducible conv => arg 2; whnf); first | split | extract_lets)
    | with_reducible intro _

theorem keeps_takeArray (h : Keeps σ s) (c : Fin 9) (a : Fin 2) (f : Fly) : Keeps σ (takeArray c a f s) := by
  unfold takeArray
  try extract_lets
  repeat' first
    | with_reducible exact h
    | with_reducible assumption
    | with_reducible apply Keeps.modArray
    | (with_reducible apply SndKeeps.snd; with_reducible first | apply SndKeeps.draw)
    | (with_reducible apply Keeps.any; with_reducible first | exact h | assumption | apply Keeps.modArray | refine SndKeeps.elim ?_ (by assumption))
    | split
    | extract_lets
    | ((with_reducible conv => arg 2; whnf); first | split | extract_lets)
    | with_reducible apply SndKeeps.pair
    | with_reducible exact OptKeeps.none
    | with_reducible apply OptKeeps.some
    | (with_reducible refine OptKeeps.elim ?_ (by assumption))
    | (with_reducible refine SndKeeps.elim2 ?_ (by assumption))
    | (with_reducible refine SndKeeps.elim ?_ (by assumption))
    | (dsimp only; fail_if_success extract_lets)
    | with_reducible intro _

theorem keeps_beginFly (h : Keeps σ s) (c : Fin 9) (f : Fly) : Keeps σ (beginFly c f s) := by
  unfold beginFly
  try extract_lets
  repeat' first
    | with_reducible exact h
    | with_reducible assumption
    | with_reducible apply keeps_sweep
    | with_reducible apply keeps_endFly
    | with_reducible apply keeps_doReads
    | with_reducible apply keeps_modFly
    | with_reducible apply keeps_takeArray
    | (with_reducible apply Keeps.any; with_reducible first | exact h | assumption | apply keeps_sweep | apply keeps_endFly | apply keeps_doReads | apply keeps_modFly | apply keeps_takeArray)
    | split
    | extract_lets
    | (clear_value *; split)
    | ((with_reducible conv => arg 2; whnf); first | split | extract_lets)
    | with_reducible apply SndKeeps.pair
    | with_reducible exact OptKeeps.none
    | with_reducible apply OptKeeps.some
    | (with_reducible refine OptKeeps.elim ?_ (by assumption))
    | (with_reducible refine SndKeeps.elim2 ?_ (by assumption))
    | (with_reducible refine SndKeeps.elim ?_ (by assumption))
    | (dsimp only; fail_if_success extract_lets)
    | with_reducible intro _

theorem keeps_mayBegin (h : Keeps σ s) (c : Fin 9) (f : Fly) : OptKeeps σ (mayBegin c f s) := by
  unfold mayBegin
  try extract_lets
  repeat' first
    | with_reducible exact h
    | with_reducible assumption
    | with_reducible exact OptKeeps.none
    | with_reducible apply OptKeeps.some
    | with_reducible apply keeps_rampUp
    | split
    | extract_lets
    | (clear_value *; split)
    | ((with_reducible conv => arg 2; whnf); first | split | extract_lets)
    | with_reducible apply SndKeeps.pair
    | (with_reducible refine OptKeeps.elim ?_ (by assumption))
    | (with_reducible refine SndKeeps.elim2 ?_ (by assumption))
    | (with_reducible refine SndKeeps.elim ?_ (by assumption))
    | (dsimp only; fail_if_success extract_lets)
    | with_reducible intro _

theorem keeps_runUnit (h : Keeps σ s) (c : Fin 9) (u : UnitId) (n : Nat) : Keeps σ (runUnit c u n s) := by
  induction n generalizing s with
  | zero => exact h
  | succ n ih =>
  unfold runUnit
  try extract_lets
  repeat' first
    | with_reducible exact h
    | with_reducible assumption
    | with_reducible apply keeps_modFly
    | with_reducible apply keeps_mayBegin
    | with_reducible apply keeps_beginFly
    | with_reducible apply ih
    | (with_reducible apply Keeps.any; with_reducible first | exact h | assumption | apply keeps_modFly | apply keeps_mayBegin | apply keeps_beginFly)
    | split
    | extract_lets
    | (clear_value *; split)
    | ((with_reducible conv => arg 2; whnf); first | split | extract_lets)
    | with_reducible apply SndKeeps.pair
    | with_reducible exact OptKeeps.none
    | with_reducible apply OptKeeps.some
    | (with_reducible refine OptKeeps.elim ?_ (by assumption))
    | (with_reducible refine SndKeeps.elim2 ?_ (by assumption))
    | (with_reducible refine SndKeeps.elim ?_ (by assumption))
    | (dsimp only; fail_if_success extract_lets)
    | with_reducible intro _

theorem keeps_goOn (h : Keeps σ s) (c : Fin 9) (u : UnitId) : Keeps σ (goOn c u s) := by
  unfold goOn
  try extract_lets
  repeat' first
    | with_reducible exact h
    | with_reducible assumption
    | with_reducible apply keeps_runUnit
    | split
    | extract_lets
    | ((with_reducible conv => arg 2; whnf); first | split | extract_lets)
    | with_reducible intro _

theorem keeps_enter (h : Keeps σ s) (c : Fin 9) (f : Fly) : Keeps σ (enter c f s) := by
  unfold enter
  try extract_lets
  repeat' first
    | with_reducible exact h
    | with_reducible assumption
    | with_reducible apply Keeps.modArray
    | with_reducible apply keeps_settle
    | with_reducible apply keeps_goOn
    | with_reducible apply keeps_enterUnit
    | (with_reducible apply Keeps.any; with_reducible first | exact h | assumption | apply Keeps.modArray | apply keeps_settle | apply keeps_goOn | apply keeps_enterUnit)
    | split
    | extract_lets
    | (clear_value *; split)
    | ((with_reducible conv => arg 2; whnf); first | split | extract_lets)
    | with_reducible apply SndKeeps.pair
    | with_reducible exact OptKeeps.none
    | with_reducible apply OptKeeps.some
    | (with_reducible refine OptKeeps.elim ?_ (by assumption))
    | (with_reducible refine SndKeeps.elim2 ?_ (by assumption))
    | (with_reducible refine SndKeeps.elim ?_ (by assumption))
    | (dsimp only; fail_if_success extract_lets)
    | with_reducible intro _

theorem keeps_readsEnd (h : Keeps σ s) (c : Fin 9) (f : Fly) : Keeps σ (readsEnd c f s) := by
  unfold readsEnd
  try extract_lets
  repeat' first
    | with_reducible exact h
    | with_reducible assumption
    | with_reducible apply keeps_drainPort
    | with_reducible apply keeps_deliverReplies
    | with_reducible refine Keeps.when ?_ _ (fun _ _ => ?_)
    | split
    | extract_lets
    | ((with_reducible conv => arg 2; whnf); first | split | extract_lets)
    | with_reducible intro _

theorem keeps_feedEnd (h : Keeps σ s) (c : Fin 9) (u : UnitId) : Keeps σ (feedEnd c u s) := by
  unfold feedEnd
  try extract_lets
  repeat' first
    | with_reducible exact h
    | with_reducible assumption
    | with_reducible apply keeps_countBusy
    | with_reducible apply keeps_readsEnd
    | with_reducible apply keeps_modFly
    | with_reducible apply keeps_goOn
    | with_reducible apply keeps_openGap
    | with_reducible refine Keeps.each ?_ _ (fun _ _ _ => ?_)
    | (with_reducible apply Keeps.any; with_reducible first | exact h | assumption | apply keeps_countBusy | apply keeps_readsEnd | apply keeps_modFly | apply keeps_goOn | apply keeps_openGap)
    | split
    | extract_lets
    | (clear_value *; split)
    | ((with_reducible conv => arg 2; whnf); first | split | extract_lets)
    | with_reducible apply SndKeeps.pair
    | with_reducible exact OptKeeps.none
    | with_reducible apply OptKeeps.some
    | (with_reducible refine OptKeeps.elim ?_ (by assumption))
    | (with_reducible refine SndKeeps.elim2 ?_ (by assumption))
    | (with_reducible refine SndKeeps.elim ?_ (by assumption))
    | (dsimp only; fail_if_success extract_lets)
    | with_reducible intro _

theorem keeps_noteAmax (h : Keeps σ s) (c : Fin 9) (q : Requester) (step : W64) (addr : Nat) (amax : W32) : Keeps σ (noteAmax c q step addr amax s) := by
  unfold noteAmax
  try extract_lets
  repeat' first
    | with_reducible exact h
    | with_reducible assumption
    | with_reducible apply keeps_lockedUpdate
    | split
    | extract_lets
    | ((with_reducible conv => arg 2; whnf); first | split | extract_lets)
    | with_reducible intro _

theorem keeps_sampleDue (h : Keeps σ s) (c : Fin 9) (f : Fly) (a : Fin 2) (narrow : List W32) (rmax : List Int) : Keeps σ (sampleDue c f a narrow rmax s) := by
  unfold sampleDue
  try extract_lets
  repeat' first
    | with_reducible exact h
    | with_reducible assumption
    | with_reducible apply Keeps.modArray
    | (with_reducible refine Keeps.modChanSame ?_ _ ?_ ?_; rotate_left; with_reducible rfl; with_reducible rfl)
    | (with_reducible refine Keeps.modChan ?_ _ ?_; rotate_left; focus (intro hw; (repeat' split) <;> first | (refine Chan.wf_same hw ?_ ?_ <;> with_reducible rfl) | (refine Chan.wf_noStakes hw ?_ ?_ <;> with_reducible rfl) | (refine Chan.wf_noMem hw ?_ ?_ <;> with_reducible rfl) | (exact Chan.wf_empty rfl rfl)))
    | (with_reducible apply Keeps.any; with_reducible first | exact h | assumption | apply Keeps.modArray)
    | split
    | extract_lets
    | ((with_reducible conv => arg 2; whnf); first | split | extract_lets)
    | with_reducible intro _

theorem keeps_commitEff (h : Keeps σ s) (c : Fin 9) (f : Fly) (e : Eff) : Keeps σ (commitEff c f e s) := by
  unfold commitEff
  try extract_lets
  repeat' first
    | with_reducible exact h
    | with_reducible assumption
    | with_reducible apply Keeps.setReg
    | with_reducible apply Keeps.modArray
    | with_reducible apply keeps_sampleDue
    | (with_reducible refine Keeps.modChanSame ?_ _ ?_ ?_; rotate_left; with_reducible rfl; with_reducible rfl)
    | (with_reducible refine Keeps.modChan ?_ _ ?_; rotate_left; focus (intro hw; (repeat' split) <;> first | (refine Chan.wf_same hw ?_ ?_ <;> with_reducible rfl) | (refine Chan.wf_noStakes hw ?_ ?_ <;> with_reducible rfl) | (refine Chan.wf_noMem hw ?_ ?_ <;> with_reducible rfl) | (exact Chan.wf_empty rfl rfl)))
    | (with_reducible apply Keeps.any; with_reducible first | exact h | assumption | apply Keeps.setReg | apply Keeps.modArray | apply keeps_sampleDue)
    | split
    | extract_lets
    | (clear_value *; split)
    | ((with_reducible conv => arg 2; whnf); first | split | extract_lets)
    | with_reducible apply SndKeeps.pair
    | with_reducible exact OptKeeps.none
    | with_reducible apply OptKeeps.some
    | (with_reducible refine OptKeeps.elim ?_ (by assumption))
    | (with_reducible refine SndKeeps.elim2 ?_ (by assumption))
    | (with_reducible refine SndKeeps.elim ?_ (by assumption))
    | (dsimp only; fail_if_success extract_lets)
    | with_reducible intro _

theorem keeps_grantEff (h : Keeps σ s) (c : Fin 9) (f : Fly) (e : Eff) : Keeps σ (grantEff c f e s) := by
  unfold grantEff
  try extract_lets
  repeat' first
    | with_reducible exact h
    | with_reducible assumption
    | with_reducible apply keeps_noteAmax
    | with_reducible apply keeps_countEff
    | split
    | extract_lets
    | (clear_value *; split)
    | ((with_reducible conv => arg 2; whnf); first | split | extract_lets)
    | with_reducible apply SndKeeps.pair
    | with_reducible exact OptKeeps.none
    | with_reducible apply OptKeeps.some
    | (with_reducible refine OptKeeps.elim ?_ (by assumption))
    | (with_reducible refine SndKeeps.elim2 ?_ (by assumption))
    | (with_reducible refine SndKeeps.elim ?_ (by assumption))
    | (dsimp only; fail_if_success extract_lets)
    | with_reducible intro _

theorem keeps_grantFly (h : Keeps σ s) (c : Fin 9) (f : Fly) : Keeps σ (grantFly c f s) := by
  unfold grantFly
  try extract_lets
  repeat' first
    | with_reducible exact h
    | with_reducible assumption
    | with_reducible apply keeps_sweep
    | with_reducible apply keeps_endFly
    | with_reducible apply keeps_grantEff
    | with_reducible apply keeps_modFly
    | with_reducible refine Keeps.each ?_ _ (fun _ _ _ => ?_)
    | (with_reducible apply Keeps.any; with_reducible first | exact h | assumption | apply keeps_sweep | apply keeps_endFly | apply keeps_grantEff | apply keeps_modFly)
    | split
    | extract_lets
    | ((with_reducible conv => arg 2; whnf); first | split | extract_lets)
    | with_reducible intro _

theorem keeps_commitFly (h : Keeps σ s) (c : Fin 9) (f : Fly) : Keeps σ (commitFly c f s) := by
  unfold commitFly
  try extract_lets
  repeat' first
    | with_reducible exact h
    | with_reducible assumption
    | with_reducible apply keeps_commitEff
    | with_reducible apply keeps_modFly
    | with_reducible apply Keeps.modArray
    | with_reducible apply keeps_grantFly
    | with_reducible refine Keeps.each ?_ _ (fun _ _ _ => ?_)
    | (with_reducible apply Keeps.any; with_reducible first | exact h | assumption | apply keeps_commitEff | apply keeps_modFly | apply Keeps.modArray | apply keeps_grantFly)
    | split
    | extract_lets
    | (clear_value *; split)
    | ((with_reducible conv => arg 2; whnf); first | split | extract_lets)
    | with_reducible apply SndKeeps.pair
    | with_reducible exact OptKeeps.none
    | with_reducible apply OptKeeps.some
    | (with_reducible refine OptKeeps.elim ?_ (by assumption))
    | (with_reducible refine SndKeeps.elim2 ?_ (by assumption))
    | (with_reducible refine SndKeeps.elim ?_ (by assumption))
    | (dsimp only; fail_if_success extract_lets)
    | with_reducible intro _

theorem keeps_completeFly (h : Keeps σ s) (c : Fin 9) (f : Fly) : Keeps σ (completeFly c f s) := by
  unfold completeFly
  try extract_lets
  repeat' first
    | with_reducible exact h
    | with_reducible assumption
    | with_reducible apply keeps_feedEnd
    | with_reducible apply keeps_settle
    | with_reducible apply keeps_goOn
    | with_reducible apply keeps_sweep
    | with_reducible apply keeps_endFly
    | with_reducible apply keeps_deliverReplies
    | with_reducible apply keeps_drainPort
    | with_reducible apply keeps_storeEff
    | with_reducible refine Keeps.each ?_ _ (fun _ _ _ => ?_)
    | with_reducible refine Keeps.when ?_ _ (fun _ _ => ?_)
    | split
    | extract_lets
    | ((with_reducible conv => arg 2; whnf); first | split | extract_lets)
    | with_reducible intro _

theorem keeps_finishWork (h : Keeps σ s) (c : Fin 9) (f : Fly) : Keeps σ (finishWork c f s) := by
  unfold finishWork
  try extract_lets
  repeat' first
    | with_reducible exact h
    | with_reducible assumption
    | with_reducible apply keeps_deliverReplies
    | with_reducible apply keeps_drainPort
    | with_reducible apply keeps_storeEff
    | with_reducible apply keeps_modFly
    | with_reducible refine Keeps.each ?_ _ (fun _ _ _ => ?_)
    | (with_reducible apply Keeps.any; with_reducible first | exact h | assumption | apply keeps_deliverReplies | apply keeps_drainPort | apply keeps_storeEff | apply keeps_modFly)
    | split
    | extract_lets
    | ((with_reducible conv => arg 2; whnf); first | split | extract_lets)
    | with_reducible intro _

end Sys2Proof.Machine
end

