-- ==== Sys2Proof/Laws/KeepsBook.lean ====
section
/-! SUPPORT. What every operation of Machine/Book.lean keeps (see Keeps). -/
namespace Sys2Proof.Machine
set_option linter.unusedTactic false
set_option linter.unreachableTactic false
set_option linter.unnecessarySeqFocus false
variable {σ s : State}

theorem keeps_addSample (h : Keeps σ s) (g : GaugeSample) : Keeps σ (addSample g s) := by
  unfold addSample
  try extract_lets
  repeat' first
    | with_reducible exact h
    | with_reducible assumption
    | with_reducible apply Keeps.modBook
    | with_reducible apply OptKeeps.getD
    | (with_reducible apply Keeps.any; with_reducible first | exact h | assumption | apply Keeps.modBook)
    | split
    | extract_lets
    | ((with_reducible conv => arg 2; whnf); first | split | extract_lets)
    | with_reducible intro _

theorem keeps_writeEpoch (h : Keeps σ s) (epoch : Nat) (isPartial : Bool) : Keeps σ (writeEpoch epoch isPartial s) := by
  unfold writeEpoch
  try extract_lets
  repeat' first
    | with_reducible exact h
    | with_reducible assumption
    | with_reducible apply keeps_bookAppend
    | with_reducible apply Keeps.modBook
    | (with_reducible apply Keeps.any; with_reducible first | exact h | assumption | apply keeps_bookAppend | apply Keeps.modBook)
    | split
    | extract_lets
    | ((with_reducible conv => arg 2; whnf); first | split | extract_lets)
    | with_reducible intro _

theorem keeps_releaseRing (h : Keeps σ s) (i : Fin 10) : Keeps σ (releaseRing i s) := by
  unfold releaseRing
  try extract_lets
  repeat' first
    | with_reducible exact h
    | with_reducible assumption
    | with_reducible apply Keeps.modRing
    | (with_reducible apply Keeps.any; with_reducible first | exact h | assumption | apply Keeps.modRing)
    | split
    | extract_lets
    | (clear_value *; split)
    | ((with_reducible conv => arg 2; whnf); first | split | extract_lets)
    | with_reducible apply SndKeeps.pair
    | with_reducible exact OptKeeps.none
    | with_reducible apply OptKeeps.some
    | (with_reducible refine OptKeeps.elim ?_ (by assumption))
    | (with_reducible refine SndKeeps.elim2 ?_ (by assumption))
    | (with_reducible refine SndKeeps.elim ?_ (by assumption))
    | (dsimp only; fail_if_success extract_lets)
    | with_reducible intro _

end Sys2Proof.Machine
end

