-- ==== Sys2Proof/Laws/KeepsPower.lean ====
section
/-! SUPPORT. What every operation of Machine/Power.lean keeps (see Keeps). -/
namespace Sys2Proof.Machine
set_option linter.unusedTactic false
set_option linter.unreachableTactic false
set_option linter.unnecessarySeqFocus false
variable {σ s : State}

/-- The map that matches the selectors is one that R22 allows. -/
theorem selectorMap_ok (o : BitVec 8) : MapOk (selectorMap o) := by
  obtain ⟨⟨n, hn⟩⟩ := o
  intro k
  revert n k
  decide +kernel

theorem keeps_setPower (h : Keeps σ s) (p : Power) : Keeps σ (setPower p s) := by
  unfold setPower
  try extract_lets
  repeat' first
    | with_reducible exact h
    | with_reducible assumption
    | with_reducible apply keeps_event
    | with_reducible apply Keeps.modPwr
    | (with_reducible apply Keeps.any; with_reducible first | exact h | assumption | apply keeps_event | apply Keeps.modPwr)
    | split
    | extract_lets
    | ((with_reducible conv => arg 2; whnf); first | split | extract_lets)
    | with_reducible intro _

theorem keeps_darken (h : Keeps σ s)  : Keeps σ (darken s) := by
  unfold darken
  try extract_lets
  repeat' first
    | with_reducible exact h
    | with_reducible assumption
    | exact fun _ k => k
    | with_reducible apply Keeps.modSec
    | with_reducible apply Keeps.modPwr
    | (with_reducible refine Keeps.mapChans ?_ (fun _ hw => ?_); rotate_left; focus ((repeat' split) <;> first | (refine Chan.wf_same hw ?_ ?_ <;> with_reducible rfl) | (exact Chan.wf_empty rfl rfl)))
    | with_reducible apply Keeps.noTables
    | (with_reducible refine Keeps.modSupv ?_ ?_; rotate_left; focus ((repeat' split) <;> with_reducible rfl))
    | (with_reducible apply Keeps.any; with_reducible first | exact h | assumption | apply Keeps.modSec | apply Keeps.modPwr)
    | split
    | extract_lets
    | ((with_reducible conv => arg 2; whnf); first | split | extract_lets)
    | with_reducible intro _

theorem keeps_orderlyDown (h : Keeps σ s)  : Keeps σ (orderlyDown s) := by
  unfold orderlyDown
  try extract_lets
  repeat' first
    | with_reducible exact h
    | with_reducible assumption
    | with_reducible apply keeps_abandonInstall
    | with_reducible apply keeps_powerDownChan
    | with_reducible apply keeps_setPower
    | with_reducible apply Keeps.modIcp
    | with_reducible apply keeps_darken
    | with_reducible apply keeps_writeEpoch
    | with_reducible refine Keeps.each ?_ _ (fun _ _ _ => ?_)
    | (with_reducible apply Keeps.any; with_reducible first | exact h | assumption | apply keeps_abandonInstall | apply keeps_powerDownChan | apply keeps_setPower | apply Keeps.modIcp | apply keeps_darken | apply keeps_writeEpoch)
    | split
    | extract_lets
    | ((with_reducible conv => arg 2; whnf); first | split | extract_lets)
    | with_reducible intro _

theorem keeps_lossDown (h : Keeps σ s) (code : Nat) : Keeps σ (lossDown code s) := by
  unfold lossDown
  try extract_lets
  repeat' first
    | with_reducible exact h
    | with_reducible assumption
    | with_reducible apply keeps_freezeRing
    | with_reducible apply keeps_writeEpoch
    | with_reducible apply keeps_darken
    | with_reducible apply keeps_abandonInstall
    | with_reducible refine Keeps.each ?_ _ (fun _ _ _ => ?_)
    | split
    | extract_lets
    | ((with_reducible conv => arg 2; whnf); first | split | extract_lets)
    | with_reducible intro _

theorem keeps_slotFallback (h : Keeps σ s) (i : Fin 6) (inj : Bool) : Keeps σ (slotFallback i inj s) := by
  unfold slotFallback
  try extract_lets
  repeat' first
    | with_reducible exact h
    | with_reducible assumption
    | with_reducible apply keeps_lastingEvent
    | with_reducible apply Keeps.modSec
    | with_reducible apply keeps_event
    | with_reducible apply keeps_cause
    | (with_reducible apply Keeps.any; with_reducible first | exact h | assumption | apply keeps_lastingEvent | apply Keeps.modSec | apply keeps_event | apply keeps_cause)
    | split
    | extract_lets
    | ((with_reducible conv => arg 2; whnf); first | split | extract_lets)
    | with_reducible intro _

theorem keeps_loadComp (h : Keeps σ s) (i : Fin 6) : SndKeeps σ (loadComp i s) := by
  unfold loadComp
  try extract_lets
  repeat' first
    | with_reducible exact h
    | with_reducible assumption
    | with_reducible apply Keeps.modSec
    | with_reducible apply keeps_slotFallback
    | with_reducible apply keeps_event
    | with_reducible apply SndKeeps.pair
    | (with_reducible apply SndKeeps.snd; with_reducible first | apply SndKeeps.draw | apply keeps_slotFallback | apply keeps_event)
    | (with_reducible apply Keeps.any; with_reducible first | exact h | assumption | apply Keeps.modSec | apply keeps_slotFallback | apply keeps_event)
    | split
    | extract_lets
    | ((with_reducible conv => arg 2; whnf); first | split | extract_lets)
    | with_reducible intro _

theorem keeps_applyTable (h : Keeps σ s) (c : Fin 9) (d : Fin 4) : Keeps σ (applyTable c d s) := by
  unfold applyTable
  try extract_lets
  repeat' first
    | with_reducible exact h
    | with_reducible assumption
    | with_reducible apply OptKeeps.getD
    | (with_reducible refine Keeps.modChanSame ?_ _ ?_ ?_; rotate_left; with_reducible rfl; with_reducible rfl)
    | (with_reducible refine Keeps.modChan ?_ _ ?_; rotate_left; focus (intro hw; (repeat' split) <;> first | (refine Chan.wf_same hw ?_ ?_ <;> with_reducible rfl) | (refine Chan.wf_noStakes hw ?_ ?_ <;> with_reducible rfl) | (refine Chan.wf_noMem hw ?_ ?_ <;> with_reducible rfl) | (exact Chan.wf_empty rfl rfl)))
    | (with_reducible apply Keeps.any; with_reducible first | exact h | assumption)
    | split
    | extract_lets
    | ((with_reducible conv => arg 2; whnf); first | split | extract_lets)
    | with_reducible intro _

theorem keeps_applyModTable (h : Keeps σ s) (d : Fin 3) : Keeps σ (applyModTable d s) := by
  unfold applyModTable
  try extract_lets
  repeat' first
    | with_reducible exact h
    | with_reducible assumption
    | with_reducible apply OptKeeps.getD
    | (with_reducible refine Keeps.modSupv ?_ ?_; rotate_left; focus ((repeat' split) <;> with_reducible rfl))
    | split
    | extract_lets
    | ((with_reducible conv => arg 2; whnf); first | split | extract_lets)
    | with_reducible intro _

theorem keeps_applyTables (h : Keeps σ s)  : Keeps σ (applyTables s) := by
  unfold applyTables
  try extract_lets
  repeat' first
    | with_reducible exact h
    | with_reducible assumption
    | with_reducible apply keeps_applyTable
    | with_reducible apply keeps_applyModTable
    | with_reducible refine Keeps.each ?_ _ (fun _ _ _ => ?_)
    | split
    | extract_lets
    | ((with_reducible conv => arg 2; whnf); first | split | extract_lets)
    | with_reducible intro _

theorem keeps_applyRecords (h : Keeps σ s)  : Keeps σ (applyRecords s) := by
  unfold applyRecords
  try extract_lets
  repeat' first
    | with_reducible exact h
    | with_reducible assumption
    | with_reducible apply Keeps.modSec
    | with_reducible apply keeps_cause
    | with_reducible apply keeps_applyTables
    | with_reducible apply keeps_event
    | (with_reducible apply SndKeeps.snd; with_reducible first | apply SndKeeps.draw | apply keeps_cause | apply keeps_applyTables | apply keeps_event)
    | with_reducible refine Keeps.each ?_ _ (fun _ _ _ => ?_)
    | (with_reducible apply Keeps.any; with_reducible first | exact h | assumption | apply Keeps.modSec | apply keeps_cause | apply keeps_applyTables | apply keeps_event)
    | split
    | extract_lets
    | ((with_reducible conv => arg 2; whnf); first | split | extract_lets)
    | with_reducible intro _

theorem keeps_loadComps (h : Keeps σ s) (l : List (Fin 6)) : SndKeeps σ (loadComps l s) := by
  induction l generalizing s with
  | nil => exact h
  | cons i l ih => exact ih (SndKeeps.snd (keeps_loadComp h i))

theorem keeps_bootChannels (h : Keeps σ s)  : Keeps σ (bootChannels s) := by
  unfold bootChannels
  try extract_lets
  repeat' first
    | with_reducible exact h
    | with_reducible assumption
    | with_reducible apply keeps_loadComps
    | with_reducible apply keeps_powerUpChan
    | with_reducible apply keeps_setRole
    | (with_reducible apply SndKeeps.snd; with_reducible first | apply SndKeeps.draw | apply keeps_loadComps | apply keeps_powerUpChan | apply keeps_setRole)
    | with_reducible refine Keeps.each ?_ _ (fun _ _ _ => ?_)
    | split
    | extract_lets
    | ((with_reducible conv => arg 2; whnf); first | split | extract_lets)
    | with_reducible apply SndKeeps.pair
    | with_reducible exact OptKeeps.none
    | with_reducible apply OptKeeps.some
    | (with_reducible refine OptKeeps.elim ?_ (by assumption))
    | (with_reducible refine SndKeeps.elim2 ?_ (by assumption))
    | (with_reducible refine SndKeeps.elim ?_ (by assumption))
    | (dsimp only; fail_if_success extract_lets)
    | with_reducible intro _

theorem keeps_bootPages (h : Keeps σ s)  : Keeps σ (bootPages s) := by
  unfold bootPages
  try extract_lets
  repeat' first
    | with_reducible exact h
    | with_reducible assumption
    | with_reducible apply Keeps.modHdr
    | with_reducible refine Keeps.each ?_ _ (fun _ _ _ => ?_)
    | (with_reducible apply Keeps.any; with_reducible first | exact h | assumption | apply Keeps.modHdr)
    | split
    | extract_lets
    | ((with_reducible conv => arg 2; whnf); first | split | extract_lets)
    | with_reducible intro _

theorem keeps_reportTrips (h : Keeps σ s)  : Keeps σ (reportTrips s) := by
  unfold reportTrips
  try extract_lets
  repeat' first
    | with_reducible exact h
    | with_reducible assumption
    | with_reducible apply Keeps.modPwr
    | with_reducible apply keeps_event
    | with_reducible refine Keeps.each ?_ _ (fun _ _ _ => ?_)
    | (with_reducible apply Keeps.any; with_reducible first | exact h | assumption | apply Keeps.modPwr | apply keeps_event)
    | split
    | extract_lets
    | ((with_reducible conv => arg 2; whnf); first | split | extract_lets)
    | with_reducible intro _

theorem keeps_powerUp (h : Keeps σ s) (identOk : Bool) : Keeps σ (powerUp identOk s) := by
  unfold powerUp
  try extract_lets
  repeat' first
    | with_reducible exact h
    | with_reducible assumption
    | exact fun _ k => k
    | with_reducible apply Keeps.modPwr
    | with_reducible apply Keeps.modSec
    | with_reducible apply keeps_loadComp
    | with_reducible apply keeps_bootPages
    | with_reducible apply keeps_reportTrips
    | with_reducible apply keeps_applyRecords
    | with_reducible apply keeps_event
    | with_reducible apply keeps_cause
    | with_reducible apply keeps_lastingEvent
    | with_reducible apply keeps_orderlyDown
    | with_reducible apply keeps_setPower
    | with_reducible apply keeps_bootChannels
    | (with_reducible apply SndKeeps.snd; with_reducible first | apply SndKeeps.draw | apply keeps_loadComp | apply keeps_bootPages | apply keeps_reportTrips | apply keeps_applyRecords | apply keeps_event | apply keeps_cause | apply keeps_lastingEvent | apply keeps_orderlyDown | apply keeps_setPower | apply keeps_bootChannels)
    | with_reducible apply Keeps.noTables
    | (with_reducible refine Keeps.modSupvMap ?_ ?_; rotate_left; focus with_reducible exact selectorMap_ok _)
    | (with_reducible refine Keeps.modSupv ?_ ?_; rotate_left; focus ((repeat' split) <;> with_reducible rfl))
    | (with_reducible apply Keeps.any; with_reducible first | exact h | assumption | apply Keeps.modPwr | apply Keeps.modSec | apply keeps_loadComp | apply keeps_bootPages | apply keeps_reportTrips | apply keeps_applyRecords | apply keeps_event | apply keeps_cause | apply keeps_lastingEvent | apply keeps_orderlyDown | apply keeps_setPower | apply keeps_bootChannels | refine SndKeeps.elim ?_ (by assumption))
    | split
    | extract_lets
    | ((with_reducible conv => arg 2; whnf); first | split | extract_lets)
    | with_reducible apply SndKeeps.pair
    | with_reducible exact OptKeeps.none
    | with_reducible apply OptKeeps.some
    | (with_reducible refine OptKeeps.elim ?_ (by assumption))
    | (with_reducible refine SndKeeps.elim2 ?_ (by assumption))
    | (with_reducible refine SndKeeps.elim ?_ (by assumption))
    | (dsimp only; fail_if_success extract_lets)
    | with_reducible intro _

theorem keeps_loseStandby (h : Keeps σ s)  : Keeps σ (loseStandby s) := by
  unfold loseStandby
  try extract_lets
  repeat' first
    | with_reducible exact h
    | with_reducible assumption
    | with_reducible apply Keeps.modSec
    | (with_reducible apply Keeps.any; with_reducible first | exact h | assumption | apply Keeps.modSec)
    | split
    | extract_lets
    | ((with_reducible conv => arg 2; whnf); first | split | extract_lets)
    | with_reducible intro _

theorem keeps_takeover (h : Keeps σ s) (isSwap : Bool) : Keeps σ (takeover isSwap s) := by
  unfold takeover
  try extract_lets
  repeat' first
    | with_reducible exact h
    | with_reducible assumption
    | with_reducible apply keeps_abandonInstall
    | with_reducible apply Keeps.modSec
    | with_reducible apply Keeps.modIcp
    | with_reducible apply Keeps.modHdr
    | with_reducible apply keeps_stopSurvey
    | with_reducible apply keeps_event
    | with_reducible refine Keeps.each ?_ _ (fun _ _ _ => ?_)
    | (with_reducible refine Keeps.mapChans ?_ (fun _ hw => ?_); rotate_left; focus ((repeat' split) <;> first | (refine Chan.wf_same hw ?_ ?_ <;> with_reducible rfl) | (exact Chan.wf_empty rfl rfl)))
    | (with_reducible apply Keeps.any; with_reducible first | exact h | assumption | apply keeps_abandonInstall | apply Keeps.modSec | apply Keeps.modIcp | apply Keeps.modHdr | apply keeps_stopSurvey | apply keeps_event)
    | split
    | extract_lets
    | ((with_reducible conv => arg 2; whnf); first | split | extract_lets)
    | with_reducible intro _

theorem keeps_trip (h : Keeps σ s) (code : Nat) (mark : PwrS → PwrS) : Keeps σ (trip code mark s) := by
  unfold trip
  try extract_lets
  repeat' first
    | with_reducible exact h
    | with_reducible assumption
    | with_reducible apply Keeps.modPwr
    | with_reducible apply keeps_lossDown
    | with_reducible apply keeps_event
    | (with_reducible apply Keeps.any; with_reducible first | exact h | assumption | apply Keeps.modPwr | apply keeps_lossDown | apply keeps_event)
    | split
    | extract_lets
    | (clear_value *; split)
    | ((with_reducible conv => arg 2; whnf); first | split | extract_lets)
    | with_reducible apply SndKeeps.pair
    | with_reducible exact OptKeeps.none
    | with_reducible apply OptKeeps.some
    | (with_reducible refine OptKeeps.elim ?_ (by assumption))
    | (with_reducible refine SndKeeps.elim2 ?_ (by assumption))
    | (with_reducible refine SndKeeps.elim ?_ (by assumption))
    | (dsimp only; fail_if_success extract_lets)
    | with_reducible intro _

theorem keeps_wake (h : Keeps σ s) (src : BitVec 3) (dormant : Bool) : Keeps σ (wake src dormant s) := by
  unfold wake
  try extract_lets
  repeat' first
    | with_reducible exact h
    | with_reducible assumption
    | with_reducible apply Keeps.modPwr
    | (with_reducible apply Keeps.any; with_reducible first | exact h | assumption | apply Keeps.modPwr)
    | split
    | extract_lets
    | ((with_reducible conv => arg 2; whnf); first | split | extract_lets)
    | with_reducible intro _

theorem keeps_parkChanged (h : Keeps σ s) (c : Fin 9) (on : Bool) : Keeps σ (parkChanged c on s) := by
  unfold parkChanged
  try extract_lets
  repeat' first
    | with_reducible exact h
    | with_reducible assumption
    | with_reducible apply keeps_rampDown
    | with_reducible apply keeps_holdUp
    | with_reducible apply keeps_goOn
    | with_reducible refine Keeps.each ?_ _ (fun _ _ _ => ?_)
    | split
    | extract_lets
    | ((with_reducible conv => arg 2; whnf); first | split | extract_lets)
    | with_reducible intro _

theorem keeps_setPark (h : Keeps σ s) (c : Fin 9) (on : Bool) : Keeps σ (setPark c on s) := by
  unfold setPark
  try extract_lets
  repeat' first
    | with_reducible exact h
    | with_reducible assumption
    | with_reducible apply keeps_parkChanged
    | with_reducible apply Keeps.setField
    | split
    | extract_lets
    | ((with_reducible conv => arg 2; whnf); first | split | extract_lets)
    | with_reducible intro _

theorem keeps_unPark (h : Keeps σ s) (c : Fin 9) : Keeps σ (unPark c s) := by
  unfold unPark
  try extract_lets
  repeat' first
    | with_reducible exact h
    | with_reducible assumption
    | with_reducible apply keeps_setPark
    | split
    | extract_lets
    | ((with_reducible conv => arg 2; whnf); first | split | extract_lets)
    | with_reducible intro _

theorem keeps_beginIdle (h : Keeps σ s)  : Keeps σ (beginIdle s) := by
  unfold beginIdle
  try extract_lets
  repeat' first
    | with_reducible exact h
    | with_reducible assumption
    | exact fun _ k => k
    | with_reducible apply keeps_setPark
    | with_reducible apply Keeps.modPwr
    | with_reducible refine Keeps.each ?_ _ (fun _ _ _ => ?_)
    | (with_reducible apply Keeps.any; with_reducible first | exact h | assumption | apply keeps_setPark | apply Keeps.modPwr)
    | split
    | extract_lets
    | ((with_reducible conv => arg 2; whnf); first | split | extract_lets)
    | with_reducible intro _

theorem keeps_idleDue (h : Keeps σ s)  : Keeps σ (idleDue s) := by
  unfold idleDue
  try extract_lets
  repeat' first
    | with_reducible exact h
    | with_reducible assumption
    | with_reducible apply keeps_beginIdle
    | split
    | extract_lets
    | ((with_reducible conv => arg 2; whnf); first | split | extract_lets)
    | with_reducible intro _

theorem keeps_stateReqGo (h : Keeps σ s) (code : Nat) : Keeps σ (stateReqGo code s) := by
  unfold stateReqGo
  try extract_lets
  repeat' first
    | with_reducible exact h
    | with_reducible assumption
    | exact fun _ k => k
    | with_reducible apply keeps_wake
    | with_reducible apply keeps_orderlyDown
    | with_reducible apply keeps_setPower
    | with_reducible apply keeps_powerDownChan
    | with_reducible apply keeps_setPark
    | with_reducible apply keeps_bootChannels
    | with_reducible apply Keeps.modPwr
    | with_reducible apply keeps_beginIdle
    | with_reducible refine Keeps.each ?_ _ (fun _ _ _ => ?_)
    | (with_reducible apply Keeps.any; with_reducible first | exact h | assumption | apply keeps_wake | apply keeps_orderlyDown | apply keeps_setPower | apply keeps_powerDownChan | apply keeps_setPark | apply keeps_bootChannels | apply Keeps.modPwr | apply keeps_beginIdle)
    | split
    | extract_lets
    | ((with_reducible conv => arg 2; whnf); first | split | extract_lets)
    | with_reducible intro _

theorem keeps_stateReq (h : Keeps σ s) (p : Path) (code : Nat) : Keeps σ (stateReq p code s) := by
  unfold stateReq
  try extract_lets
  repeat' first
    | with_reducible exact h
    | with_reducible assumption
    | with_reducible apply keeps_stateReqGo
    | with_reducible apply keeps_cfgRefused
    | split
    | extract_lets
    | ((with_reducible conv => arg 2; whnf); first | split | extract_lets)
    | with_reducible intro _

theorem keeps_leakClear (h : Keeps σ s) (released : Bool) : Keeps σ (leakClear released s) := by
  unfold leakClear
  try extract_lets
  repeat' first
    | with_reducible exact h
    | with_reducible assumption
    | with_reducible apply Keeps.modPwr
    | (with_reducible apply Keeps.any; with_reducible first | exact h | assumption | apply Keeps.modPwr)
    | split
    | extract_lets
    | ((with_reducible conv => arg 2; whnf); first | split | extract_lets)
    | with_reducible intro _

theorem keeps_railLost (h : Keeps σ s) (rail : Nat) : Keeps σ (railLost rail s) := by
  unfold railLost
  try extract_lets
  repeat' first
    | with_reducible exact h
    | with_reducible assumption
    | with_reducible apply keeps_event
    | with_reducible apply keeps_fenceChannel
    | with_reducible apply keeps_orderlyDown
    | with_reducible apply keeps_takeover
    | with_reducible apply keeps_loseStandby
    | (with_reducible refine Keeps.modChanSame ?_ _ ?_ ?_; rotate_left; with_reducible rfl; with_reducible rfl)
    | (with_reducible refine Keeps.modChan ?_ _ ?_; rotate_left; focus (intro hw; (repeat' split) <;> first | (refine Chan.wf_same hw ?_ ?_ <;> with_reducible rfl) | (refine Chan.wf_noStakes hw ?_ ?_ <;> with_reducible rfl) | (refine Chan.wf_noMem hw ?_ ?_ <;> with_reducible rfl) | (exact Chan.wf_empty rfl rfl)))
    | (with_reducible apply Keeps.any; with_reducible first | exact h | assumption | apply keeps_event | apply keeps_fenceChannel | apply keeps_orderlyDown | apply keeps_takeover | apply keeps_loseStandby)
    | split
    | extract_lets
    | ((with_reducible conv => arg 2; whnf); first | split | extract_lets)
    | with_reducible intro _

theorem keeps_removeCoreRails (h : Keeps σ s) (c : Fin 9) : Keeps σ (removeCoreRails c s) := by
  unfold removeCoreRails
  try extract_lets
  repeat' first
    | with_reducible exact h
    | with_reducible assumption
    | with_reducible apply keeps_powerDownBlock
    | with_reducible refine Keeps.each ?_ _ (fun _ _ _ => ?_)
    | (with_reducible refine Keeps.modChanSame ?_ _ ?_ ?_; rotate_left; with_reducible rfl; with_reducible rfl)
    | (with_reducible refine Keeps.modChan ?_ _ ?_; rotate_left; focus (intro hw; (repeat' split) <;> first | (refine Chan.wf_same hw ?_ ?_ <;> with_reducible rfl) | (refine Chan.wf_noStakes hw ?_ ?_ <;> with_reducible rfl) | (refine Chan.wf_noMem hw ?_ ?_ <;> with_reducible rfl) | (exact Chan.wf_empty rfl rfl)))
    | (with_reducible apply Keeps.any; with_reducible first | exact h | assumption | apply keeps_powerDownBlock)
    | split
    | extract_lets
    | ((with_reducible conv => arg 2; whnf); first | split | extract_lets)
    | with_reducible intro _

end Sys2Proof.Machine
end

