-- ==== Sys2Proof/Laws/KeepsSec.lean ====
section
/-! SUPPORT. What every operation of Machine/Sec.lean keeps (see Keeps). -/
namespace Sys2Proof.Machine
set_option linter.unusedTactic false
set_option linter.unreachableTactic false
set_option linter.unnecessarySeqFocus false
variable {σ s : State}

theorem keeps_putRecord (h : Keeps σ s) (k : Container) : Keeps σ (putRecord k s) := by
  unfold putRecord
  try extract_lets
  repeat' first
    | with_reducible exact h
    | with_reducible assumption
    | with_reducible apply Keeps.modSec
    | (with_reducible apply SndKeeps.snd; with_reducible first | apply SndKeeps.draw)
    | split
    | extract_lets
    | ((with_reducible conv => arg 2; whnf); first | split | extract_lets)
    | with_reducible intro _

theorem keeps_putImage (h : Keeps σ s) (i : Fin 6) (k : Container) : Keeps σ (putImage i k s) := by
  unfold putImage
  try extract_lets
  repeat' first
    | with_reducible exact h
    | with_reducible assumption
    | with_reducible apply Keeps.modSec
    | (with_reducible apply Keeps.any; with_reducible first | exact h | assumption | apply Keeps.modSec)
    | split
    | extract_lets
    | ((with_reducible conv => arg 2; whnf); first | split | extract_lets)
    | with_reducible intro _

theorem keeps_slotCommand (h : Keeps σ s) (v : W32) : Keeps σ (slotCommand v s) := by
  unfold slotCommand
  try extract_lets
  repeat' first
    | with_reducible exact h
    | with_reducible assumption
    | with_reducible apply keeps_cfgRefused
    | with_reducible apply Keeps.modSec
    | with_reducible apply keeps_event
    | (with_reducible apply Keeps.any; with_reducible first | exact h | assumption | apply keeps_cfgRefused | apply Keeps.modSec | apply keeps_event)
    | split
    | extract_lets
    | ((with_reducible conv => arg 2; whnf); first | split | extract_lets)
    | with_reducible intro _

end Sys2Proof.Machine
end

