-- ==== Sys2Proof/Laws/KeepsSeq.lean ====
section
/-! SUPPORT. What every operation of Machine/Seq.lean keeps (see Keeps). -/
namespace Sys2Proof.Machine
set_option linter.unusedTactic false
set_option linter.unreachableTactic false
set_option linter.unnecessarySeqFocus false
variable {σ s : State}

theorem keeps_seqDone (h : Keeps σ s) (c : Fin 9) (f : Fly) (chk : Chk) (k : State → State) (hk : ∀  t, Keeps σ t → Keeps σ (k  t)) : Keeps σ (seqDone c f chk k s) := by
  unfold seqDone
  try extract_lets
  repeat' first
    | with_reducible exact h
    | with_reducible assumption
    | with_reducible apply hk
    | with_reducible apply keeps_refuseAt
    | with_reducible apply keeps_finishDesc
    | split
    | extract_lets
    | (clear_value *; split)
    | ((with_reducible conv => arg 2; whnf); first | split | extract_lets)
    | with_reducible apply SndKeeps.pair
    | with_reducible exact OptKeeps.none
    | with_reducible apply OptKeeps.some
    | (with_reducible refine OptKeeps.elim ?_ (by assumption))
    | (with_reducible refine SndKeeps.elim2 ?_ (by assumption))
    | (with_reducible refine SndKeeps.elim ?_ (by assumption))
    | (dsimp only; fail_if_success extract_lets)
    | with_reducible intro _

theorem keeps_stakeWaitIssue (h : Keeps σ s) (c : Fin 9) (f : Fly) : Keeps σ (stakeWaitIssue c f s) := by
  unfold stakeWaitIssue
  try extract_lets
  repeat' first
    | with_reducible exact h
    | with_reducible assumption
    | exact fun _ k => k
    | with_reducible apply keeps_seqDone
    | split
    | extract_lets
    | ((with_reducible conv => arg 2; whnf); first | split | extract_lets)
    | with_reducible intro _

theorem keeps_signalEntry (h : Keeps σ s) (c : Fin 9) (d : List Byte) (i : Nat) : Keeps σ (signalEntry c d i s) := by
  unfold signalEntry
  try extract_lets
  repeat' first
    | with_reducible exact h
    | with_reducible assumption
    | with_reducible apply Keeps.setStake
    | with_reducible apply Keeps.addStake
    | split
    | extract_lets
    | ((with_reducible conv => arg 2; whnf); first | split | extract_lets)
    | with_reducible intro _

theorem keeps_stakeSignalIssue (h : Keeps σ s) (c : Fin 9) (f : Fly) : Keeps σ (stakeSignalIssue c f s) := by
  unfold stakeSignalIssue
  try extract_lets
  repeat' first
    | with_reducible exact h
    | with_reducible assumption
    | with_reducible apply keeps_seqDone
    | with_reducible apply keeps_signalEntry
    | with_reducible refine Keeps.each ?_ _ (fun _ _ _ => ?_)
    | split
    | extract_lets
    | ((with_reducible conv => arg 2; whnf); first | split | extract_lets)
    | with_reducible intro _

theorem keeps_seqDrain (h : Keeps σ s) (c : Fin 9) : Keeps σ (seqDrain c s) := by
  unfold seqDrain
  try extract_lets
  repeat' first
    | with_reducible exact h
    | with_reducible assumption
    | with_reducible apply keeps_deliverReplies
    | with_reducible apply keeps_drainPort
    | split
    | extract_lets
    | ((with_reducible conv => arg 2; whnf); first | split | extract_lets)
    | with_reducible intro _

theorem keeps_seqTableIssue (h : Keeps σ s) (c : Fin 9) (f : Fly) : Keeps σ (seqTableIssue c f s) := by
  unfold seqTableIssue
  try extract_lets
  repeat' first
    | with_reducible exact h
    | with_reducible assumption
    | with_reducible apply keeps_refuseAt
    | with_reducible apply keeps_seqDone
    | with_reducible apply keeps_seqDrain
    | with_reducible apply keeps_readSpans
    | with_reducible apply keeps_writeMem
    | (with_reducible refine Keeps.modChanSame ?_ _ ?_ ?_; rotate_left; with_reducible rfl; with_reducible rfl)
    | (with_reducible refine Keeps.modChan ?_ _ ?_; rotate_left; focus (intro hw; (repeat' split) <;> first | (refine Chan.wf_same hw ?_ ?_ <;> with_reducible rfl) | (refine Chan.wf_noStakes hw ?_ ?_ <;> with_reducible rfl) | (refine Chan.wf_noMem hw ?_ ?_ <;> with_reducible rfl) | (exact Chan.wf_empty rfl rfl)))
    | (with_reducible apply Keeps.any; with_reducible first | exact h | assumption | apply keeps_refuseAt | apply keeps_seqDone | apply keeps_seqDrain | apply keeps_readSpans | apply keeps_writeMem)
    | split
    | extract_lets
    | (clear_value *; split)
    | ((with_reducible conv => arg 2; whnf); first | split | extract_lets)
    | with_reducible apply SndKeeps.pair
    | with_reducible exact OptKeeps.none
    | with_reducible apply OptKeeps.some
    | (with_reducible refine OptKeeps.elim ?_ (by assumption))
    | (with_reducible refine SndKeeps.elim2 ?_ (by assumption))
    | (with_reducible refine SndKeeps.elim ?_ (by assumption))
    | (dsimp only; fail_if_success extract_lets)
    | with_reducible intro _

theorem keeps_batchFetchIssue (h : Keeps σ s) (c : Fin 9) (f : Fly) : Keeps σ (batchFetchIssue c f s) := by
  unfold batchFetchIssue
  try extract_lets
  repeat' first
    | with_reducible exact h
    | with_reducible assumption
    | with_reducible apply keeps_refuseAt
    | with_reducible apply Keeps.modStream
    | (with_reducible apply Keeps.any; with_reducible first | exact h | assumption | apply keeps_refuseAt | apply Keeps.modStream)
    | split
    | extract_lets
    | (clear_value *; split)
    | ((with_reducible conv => arg 2; whnf); first | split | extract_lets)
    | with_reducible apply SndKeeps.pair
    | with_reducible exact OptKeeps.none
    | with_reducible apply OptKeeps.some
    | (with_reducible refine OptKeeps.elim ?_ (by assumption))
    | (with_reducible refine SndKeeps.elim2 ?_ (by assumption))
    | (with_reducible refine SndKeeps.elim ?_ (by assumption))
    | (dsimp only; fail_if_success extract_lets)
    | with_reducible intro _

theorem keeps_fetchBurst (h : Keeps σ s) (c : Fin 9) (st : Fin 4) : Keeps σ (fetchBurst c st s) := by
  unfold fetchBurst
  try extract_lets
  repeat' first
    | with_reducible exact h
    | with_reducible assumption
    | with_reducible apply keeps_settle
    | with_reducible apply keeps_failFetch
    | with_reducible apply keeps_seqDrain
    | with_reducible apply keeps_readSpans
    | with_reducible apply Keeps.modStream
    | (with_reducible apply Keeps.any; with_reducible first | exact h | assumption | apply keeps_settle | apply keeps_failFetch | apply keeps_seqDrain | apply keeps_readSpans | apply Keeps.modStream)
    | split
    | extract_lets
    | (clear_value *; split)
    | ((with_reducible conv => arg 2; whnf); first | split | extract_lets)
    | with_reducible apply SndKeeps.pair
    | with_reducible exact OptKeeps.none
    | with_reducible apply OptKeeps.some
    | (with_reducible refine OptKeeps.elim ?_ (by assumption))
    | (with_reducible refine SndKeeps.elim2 ?_ (by assumption))
    | (with_reducible refine SndKeeps.elim ?_ (by assumption))
    | (dsimp only; fail_if_success extract_lets)
    | with_reducible intro _

theorem keeps_endContinues (h : Keeps σ s) (c : Fin 9) (a : Fin 2) (no : Nat) : Keeps σ (endContinues c a no s) := by
  unfold endContinues
  try extract_lets
  repeat' first
    | with_reducible exact h
    | with_reducible assumption
    | with_reducible apply keeps_endFly
    | with_reducible refine Keeps.each ?_ _ (fun _ _ _ => ?_)
    | split
    | extract_lets
    | ((with_reducible conv => arg 2; whnf); first | split | extract_lets)
    | with_reducible intro _

theorem keeps_abortFly (h : Keeps σ s) (c : Fin 9) (f : Fly) : Keeps σ (abortFly c f s) := by
  unfold abortFly
  try extract_lets
  repeat' first
    | with_reducible exact h
    | with_reducible assumption
    | with_reducible apply keeps_withGaps
    | with_reducible apply keeps_endContinues
    | with_reducible apply keeps_goOn
    | with_reducible apply keeps_sweep
    | with_reducible apply keeps_endFly
    | split
    | extract_lets
    | (clear_value *; split)
    | ((with_reducible conv => arg 2; whnf); first | split | extract_lets)
    | with_reducible apply SndKeeps.pair
    | with_reducible exact OptKeeps.none
    | with_reducible apply OptKeeps.some
    | (with_reducible refine OptKeeps.elim ?_ (by assumption))
    | (with_reducible refine SndKeeps.elim2 ?_ (by assumption))
    | (with_reducible refine SndKeeps.elim ?_ (by assumption))
    | (dsimp only; fail_if_success extract_lets)
    | with_reducible intro _

theorem keeps_dropFetch (h : Keeps σ s) (c : Fin 9) (st : Fin 4) (f : Fetch) (status : H16) (detail : W32) : Keeps σ (dropFetch c st f status detail s) := by
  unfold dropFetch
  try extract_lets
  repeat' first
    | with_reducible exact h
    | with_reducible assumption
    | with_reducible apply Keeps.modStream
    | with_reducible apply keeps_finishDesc
    | with_reducible apply keeps_finishQueued
    | with_reducible refine Keeps.each ?_ _ (fun _ _ _ => ?_)
    | with_reducible refine Keeps.when ?_ _ (fun _ _ => ?_)
    | (with_reducible apply Keeps.any; with_reducible first | exact h | assumption | apply Keeps.modStream | apply keeps_finishDesc | apply keeps_finishQueued)
    | split
    | extract_lets
    | ((with_reducible conv => arg 2; whnf); first | split | extract_lets)
    | with_reducible intro _

theorem keeps_abortId (h : Keeps σ s) (c : Fin 9) (id : W32) : Keeps σ (abortId c id s) := by
  unfold abortId
  try extract_lets
  repeat' first
    | with_reducible exact h
    | with_reducible assumption
    | exact fun _ k => k
    | with_reducible apply keeps_cause
    | with_reducible apply Keeps.modStream
    | with_reducible apply keeps_dropFetch
    | with_reducible apply keeps_abortFly
    | with_reducible apply keeps_settle
    | with_reducible refine Keeps.each ?_ _ (fun _ _ _ => ?_)
    | (with_reducible refine Keeps.modChanSame ?_ _ ?_ ?_; rotate_left; with_reducible rfl; with_reducible rfl)
    | (with_reducible refine Keeps.modChan ?_ _ ?_; rotate_left; focus (intro hw; (repeat' split) <;> first | (refine Chan.wf_same hw ?_ ?_ <;> with_reducible rfl) | (refine Chan.wf_noStakes hw ?_ ?_ <;> with_reducible rfl) | (refine Chan.wf_noMem hw ?_ ?_ <;> with_reducible rfl) | (exact Chan.wf_empty rfl rfl)))
    | (with_reducible apply Keeps.any; with_reducible first | exact h | assumption | apply keeps_cause | apply Keeps.modStream | apply keeps_dropFetch | apply keeps_abortFly | apply keeps_settle)
    | split
    | extract_lets
    | (clear_value *; split)
    | ((with_reducible conv => arg 2; whnf); first | split | extract_lets)
    | with_reducible apply SndKeeps.pair
    | with_reducible exact OptKeeps.none
    | with_reducible apply OptKeeps.some
    | (with_reducible refine OptKeeps.elim ?_ (by assumption))
    | (with_reducible refine SndKeeps.elim2 ?_ (by assumption))
    | (with_reducible refine SndKeeps.elim ?_ (by assumption))
    | (dsimp only; fail_if_success extract_lets)
    | with_reducible intro _

theorem keeps_flushStream (h : Keeps σ s) (c : Fin 9) (st : Fin 4) : Keeps σ (flushStream c st s) := by
  unfold flushStream
  try extract_lets
  repeat' first
    | with_reducible exact h
    | with_reducible assumption
    | with_reducible apply Keeps.modStream
    | with_reducible apply keeps_dropFetch
    | with_reducible apply keeps_finishQueued
    | with_reducible refine Keeps.each ?_ _ (fun _ _ _ => ?_)
    | split
    | extract_lets
    | (clear_value *; split)
    | ((with_reducible conv => arg 2; whnf); first | split | extract_lets)
    | with_reducible apply SndKeeps.pair
    | with_reducible exact OptKeeps.none
    | with_reducible apply OptKeeps.some
    | (with_reducible refine OptKeeps.elim ?_ (by assumption))
    | (with_reducible refine SndKeeps.elim2 ?_ (by assumption))
    | (with_reducible refine SndKeeps.elim ?_ (by assumption))
    | (dsimp only; fail_if_success extract_lets)
    | with_reducible intro _

theorem keeps_streamCtl (h : Keeps σ s) (c : Fin 9) (resume flush : Nat) : Keeps σ (streamCtl c resume flush s) := by
  unfold streamCtl
  try extract_lets
  repeat' first
    | with_reducible exact h
    | with_reducible assumption
    | with_reducible apply keeps_flushStream
    | with_reducible apply Keeps.modStream
    | with_reducible apply keeps_settle
    | with_reducible refine Keeps.each ?_ _ (fun _ _ _ => ?_)
    | (with_reducible apply Keeps.any; with_reducible first | exact h | assumption | apply keeps_flushStream | apply Keeps.modStream | apply keeps_settle)
    | split
    | extract_lets
    | ((with_reducible conv => arg 2; whnf); first | split | extract_lets)
    | with_reducible intro _

end Sys2Proof.Machine
end

