-- ==== Sys2Proof/Laws/KeepsIssue.lean ====
section
/-! SUPPORT. What every operation of Machine/Issue.lean keeps (see Keeps). -/
namespace Sys2Proof.Machine
set_option linter.unusedTactic false
set_option linter.unreachableTactic false
set_option linter.unnecessarySeqFocus false
variable {σ s : State}

theorem keeps_issueUnit (h : Keeps σ s) (c : Fin 9) (chk : Chan → Env → List Byte → Chk) (copies : State → Fly → Env) (f : Fly) : Keeps σ (issueUnit c chk copies f s) := by
  unfold issueUnit
  try extract_lets
  repeat' first
    | with_reducible exact h
    | with_reducible assumption
    | with_reducible apply keeps_refuseAt
    | with_reducible apply keeps_enter
    | (with_reducible apply Keeps.any; with_reducible first | exact h | assumption | apply keeps_refuseAt | apply keeps_enter)
    | split
    | extract_lets
    | (clear_value *; split)
    | ((with_reducible conv => arg 2; whnf); first | split | extract_lets)
    | with_reducible apply SndKeeps.pair
    | with_reducible exact OptKeeps.none
    | with_reducible apply OptKeeps.some
    | (with_reducible refine OptKeeps.elim ?_ (by assumption))
    | (with_reducible refine SndKeeps.elim2 ?_ (by assumption))
    | (with_reducible refine SndKeeps.elim ?_ (by assumption))
    | (dsimp only; fail_if_success extract_lets)
    | with_reducible intro _

theorem keeps_createIssue (h : Keeps σ s) (c : Fin 9) (f : Fly) : Keeps σ (createIssue c f s) := by
  unfold createIssue
  try extract_lets
  repeat' first
    | with_reducible exact h
    | with_reducible assumption
    | with_reducible apply keeps_refuseAt
    | with_reducible apply keeps_enter
    | split
    | extract_lets
    | (clear_value *; split)
    | ((with_reducible conv => arg 2; whnf); first | split | extract_lets)
    | with_reducible apply SndKeeps.pair
    | with_reducible exact OptKeeps.none
    | with_reducible apply OptKeeps.some
    | (with_reducible refine OptKeeps.elim ?_ (by assumption))
    | (with_reducible refine SndKeeps.elim2 ?_ (by assumption))
    | (with_reducible refine SndKeeps.elim ?_ (by assumption))
    | (dsimp only; fail_if_success extract_lets)
    | with_reducible intro _

theorem keeps_applyIssue (h : Keeps σ s) (c : Fin 9) (f : Fly) : Keeps σ (applyIssue c f s) := by
  unfold applyIssue
  try extract_lets
  repeat' first
    | with_reducible exact h
    | with_reducible assumption
    | with_reducible apply keeps_issueUnit
    | split
    | extract_lets
    | ((with_reducible conv => arg 2; whnf); first | split | extract_lets)
    | with_reducible intro _

end Sys2Proof.Machine
end

