-- ==== Sys2Proof/Laws/KeepsHub.lean ====
section
/-! SUPPORT. What every operation of Machine/Hub.lean keeps (see Keeps). -/
namespace Sys2Proof.Machine
set_option linter.unusedTactic false
set_option linter.unreachableTactic false
set_option linter.unnecessarySeqFocus false
variable {σ s : State}

theorem keeps_endMove (h : Keeps σ s) (c : Fin 9) (f : Fly) (status flags : H16) (detail : Nat) : Keeps σ (endMove c f status flags detail s) := by
  unfold endMove
  try extract_lets
  repeat' first
    | with_reducible exact h
    | with_reducible assumption
    | with_reducible apply keeps_settle
    | with_reducible apply keeps_goOn
    | with_reducible apply keeps_sweep
    | with_reducible apply keeps_endFly
    | split
    | extract_lets
    | ((with_reducible conv => arg 2; whnf); first | split | extract_lets)
    | with_reducible intro _

theorem keeps_portReset (h : Keeps σ s) (c : Fin 9) (f : Fly) : Keeps σ (portReset c f s) := by
  unfold portReset
  try extract_lets
  repeat' first
    | with_reducible exact h
    | with_reducible assumption
    | with_reducible apply keeps_endMove
    | with_reducible apply Keeps.bump
    | split
    | extract_lets
    | ((with_reducible conv => arg 2; whnf); first | split | extract_lets)
    | with_reducible intro _

theorem keeps_failReduction (h : Keeps σ s) (r : Reduction) (detail : RedPart → Nat) : Keeps σ (failReduction r detail s) := by
  unfold failReduction
  try extract_lets
  repeat' first
    | with_reducible exact h
    | with_reducible assumption
    | with_reducible apply Keeps.modHub
    | with_reducible apply keeps_endMove
    | with_reducible refine Keeps.each ?_ _ (fun _ _ _ => ?_)
    | (with_reducible apply Keeps.any; with_reducible first | exact h | assumption | apply Keeps.modHub | apply keeps_endMove)
    | split
    | extract_lets
    | (clear_value *; split)
    | ((with_reducible conv => arg 2; whnf); first | split | extract_lets)
    | with_reducible apply SndKeeps.pair
    | with_reducible exact OptKeeps.none
    | with_reducible apply OptKeeps.some
    | (with_reducible refine OptKeeps.elim ?_ (by assumption))
    | (with_reducible refine SndKeeps.elim2 ?_ (by assumption))
    | (with_reducible refine SndKeeps.elim ?_ (by assumption))
    | (dsimp only; fail_if_success extract_lets)
    | with_reducible intro _

theorem keeps_register (h : Keeps σ s) (id : W32) (p : RedPart) : OptKeeps σ (register id p s) := by
  unfold register
  try extract_lets
  repeat' first
    | with_reducible exact h
    | with_reducible assumption
    | exact fun _ k => k
    | with_reducible exact OptKeeps.none
    | with_reducible apply OptKeeps.some
    | with_reducible apply keeps_failReduction
    | with_reducible apply Keeps.modHub
    | (with_reducible apply Keeps.any; with_reducible first | exact h | assumption | apply keeps_failReduction | apply Keeps.modHub)
    | split
    | extract_lets
    | (clear_value *; split)
    | ((with_reducible conv => arg 2; whnf); first | split | extract_lets)
    | with_reducible apply SndKeeps.pair
    | (with_reducible refine OptKeeps.elim ?_ (by assumption))
    | (with_reducible refine SndKeeps.elim2 ?_ (by assumption))
    | (with_reducible refine SndKeeps.elim ?_ (by assumption))
    | (dsimp only; fail_if_success extract_lets)
    | with_reducible intro _

theorem keeps_reduceIssue (h : Keeps σ s) (c : Fin 9) (f : Fly) : Keeps σ (reduceIssue c f s) := by
  unfold reduceIssue
  try extract_lets
  repeat' first
    | with_reducible exact h
    | with_reducible assumption
    | with_reducible apply keeps_refuseAt
    | with_reducible apply keeps_enter
    | with_reducible apply keeps_register
    | with_reducible apply Keeps.modHub
    | (with_reducible apply Keeps.any; with_reducible first | exact h | assumption | apply keeps_refuseAt | apply keeps_enter | apply keeps_register | apply Keeps.modHub)
    | split
    | extract_lets
    | (clear_value *; split)
    | ((with_reducible conv => arg 2; whnf); first | split | extract_lets)
    | with_reducible apply SndKeeps.pair
    | with_reducible exact OptKeeps.none
    | with_reducible apply OptKeeps.some
    | (with_reducible refine OptKeeps.elim ?_ (by assumption))
    | (with_reducible refine SndKeeps.elim2 ?_ (by assumption))
    | (with_reducible refine SndKeeps.elim ?_ (by assumption))
    | (dsimp only; fail_if_success extract_lets)
    | with_reducible intro _

theorem keeps_registerWaiting (h : Keeps σ s) (c : Fin 9) : Keeps σ (registerWaiting c s) := by
  unfold registerWaiting
  try extract_lets
  repeat' first
    | with_reducible exact h
    | with_reducible assumption
    | with_reducible apply keeps_register
    | with_reducible apply Keeps.modHub
    | with_reducible apply OptKeeps.getD
    | (with_reducible apply SndKeeps.snd; with_reducible first | apply SndKeeps.draw | apply keeps_register)
    | (with_reducible apply Keeps.any; with_reducible first | exact h | assumption | apply keeps_register | apply Keeps.modHub)
    | split
    | extract_lets
    | (clear_value *; split)
    | ((with_reducible conv => arg 2; whnf); first | split | extract_lets)
    | with_reducible apply SndKeeps.pair
    | with_reducible exact OptKeeps.none
    | with_reducible apply OptKeeps.some
    | (with_reducible refine OptKeeps.elim ?_ (by assumption))
    | (with_reducible refine SndKeeps.elim2 ?_ (by assumption))
    | (with_reducible refine SndKeeps.elim ?_ (by assumption))
    | (dsimp only; fail_if_success extract_lets)
    | with_reducible intro _

theorem keeps_rendezvous (h : Keeps σ s) (id : W32) : Keeps σ (rendezvous id s) := by
  unfold rendezvous
  try extract_lets
  repeat' first
    | with_reducible exact h
    | with_reducible assumption
    | exact fun _ k => k
    | with_reducible apply Keeps.modHub
    | with_reducible apply keeps_failReduction
    | with_reducible apply keeps_cause
    | (with_reducible apply SndKeeps.snd; with_reducible first | apply SndKeeps.draw | apply keeps_failReduction | apply keeps_cause)
    | with_reducible refine Keeps.when ?_ _ (fun _ _ => ?_)
    | (with_reducible apply Keeps.any; with_reducible first | exact h | assumption | apply Keeps.modHub | apply keeps_failReduction | apply keeps_cause)
    | split
    | extract_lets
    | (clear_value *; split)
    | ((with_reducible conv => arg 2; whnf); first | split | extract_lets)
    | with_reducible apply SndKeeps.pair
    | with_reducible exact OptKeeps.none
    | with_reducible apply OptKeeps.some
    | (with_reducible refine OptKeeps.elim ?_ (by assumption))
    | (with_reducible refine SndKeeps.elim2 ?_ (by assumption))
    | (with_reducible refine SndKeeps.elim ?_ (by assumption))
    | (dsimp only; fail_if_success extract_lets)
    | with_reducible intro _

theorem keeps_transferAll (h : Keeps σ s) (r : Reduction) : Keeps σ (transferAll r s) := by
  unfold transferAll
  try extract_lets
  repeat' first
    | with_reducible exact h
    | with_reducible assumption
    | with_reducible apply keeps_endMove
    | with_reducible apply keeps_readSpans
    | with_reducible apply keeps_countEff
    | with_reducible apply keeps_modFly
    | (with_reducible apply SndKeeps.snd; with_reducible first | apply SndKeeps.draw | apply keeps_endMove | apply keeps_readSpans | apply keeps_countEff | apply keeps_modFly)
    | with_reducible refine Keeps.each ?_ _ (fun _ _ _ => ?_)
    | (with_reducible apply Keeps.any; with_reducible first | exact h | assumption | apply keeps_endMove | apply keeps_readSpans | apply keeps_countEff | apply keeps_modFly | refine SndKeeps.elim ?_ (by assumption))
    | split
    | extract_lets
    | (clear_value *; split)
    | ((with_reducible conv => arg 2; whnf); first | split | extract_lets)
    | with_reducible apply SndKeeps.pair
    | with_reducible exact OptKeeps.none
    | with_reducible apply OptKeeps.some
    | (with_reducible refine OptKeeps.elim ?_ (by assumption))
    | (with_reducible refine SndKeeps.elim2 ?_ (by assumption))
    | (with_reducible refine SndKeeps.elim ?_ (by assumption))
    | (dsimp only; fail_if_success extract_lets)
    | with_reducible intro _

theorem keeps_commitReduce (h : Keeps σ s) (c : Fin 9) : Keeps σ (commitReduce c s) := by
  unfold commitReduce
  try extract_lets
  repeat' first
    | with_reducible exact h
    | with_reducible assumption
    | with_reducible apply Keeps.modHub
    | with_reducible apply keeps_endMove
    | with_reducible apply keeps_portReset
    | with_reducible apply keeps_goOn
    | with_reducible apply keeps_modFly
    | with_reducible apply keeps_transferAll
    | with_reducible apply OptKeeps.getD
    | with_reducible refine Keeps.each ?_ _ (fun _ _ _ => ?_)
    | (with_reducible apply Keeps.any; with_reducible first | exact h | assumption | apply Keeps.modHub | apply keeps_endMove | apply keeps_portReset | apply keeps_goOn | apply keeps_modFly | apply keeps_transferAll)
    | split
    | extract_lets
    | (clear_value *; split)
    | ((with_reducible conv => arg 2; whnf); first | split | extract_lets)
    | with_reducible apply SndKeeps.pair
    | with_reducible exact OptKeeps.none
    | with_reducible apply OptKeeps.some
    | (with_reducible refine OptKeeps.elim ?_ (by assumption))
    | (with_reducible refine SndKeeps.elim2 ?_ (by assumption))
    | (with_reducible refine SndKeeps.elim ?_ (by assumption))
    | (dsimp only; fail_if_success extract_lets)
    | with_reducible intro _

theorem keeps_partDone (h : Keeps σ s) (c : Fin 9) (no : Nat) : Keeps σ (partDone c no s) := by
  unfold partDone
  try extract_lets
  repeat' first
    | with_reducible exact h
    | with_reducible assumption
    | with_reducible apply Keeps.modHub
    | (with_reducible apply Keeps.any; with_reducible first | exact h | assumption | apply Keeps.modHub)
    | split
    | extract_lets
    | ((with_reducible conv => arg 2; whnf); first | split | extract_lets)
    | with_reducible intro _

theorem keeps_completeReduce (h : Keeps σ s) (c : Fin 9) (f : Fly) : Keeps σ (completeReduce c f s) := by
  unfold completeReduce
  try extract_lets
  repeat' first
    | with_reducible exact h
    | with_reducible assumption
    | with_reducible apply keeps_endMove
    | with_reducible apply keeps_completeFly
    | with_reducible apply keeps_partDone
    | split
    | extract_lets
    | ((with_reducible conv => arg 2; whnf); first | split | extract_lets)
    | with_reducible intro _

theorem keeps_reduceTimeout (h : Keeps σ s) (c : Fin 9) (id : W32) : Keeps σ (reduceTimeout c id s) := by
  unfold reduceTimeout
  try extract_lets
  repeat' first
    | with_reducible exact h
    | with_reducible assumption
    | exact fun _ k => k
    | with_reducible apply keeps_endMove
    | (with_reducible apply SndKeeps.snd; with_reducible first | apply SndKeeps.draw | apply keeps_endMove)
    | split
    | extract_lets
    | (clear_value *; split)
    | ((with_reducible conv => arg 2; whnf); first | split | extract_lets)
    | with_reducible apply SndKeeps.pair
    | with_reducible exact OptKeeps.none
    | with_reducible apply OptKeeps.some
    | (with_reducible refine OptKeeps.elim ?_ (by assumption))
    | (with_reducible refine SndKeeps.elim2 ?_ (by assumption))
    | (with_reducible refine SndKeeps.elim ?_ (by assumption))
    | (dsimp only; fail_if_success extract_lets)
    | with_reducible intro _

theorem keeps_loanIssue (h : Keeps σ s) (c : Fin 9) (f : Fly) : Keeps σ (loanIssue c f s) := by
  unfold loanIssue
  try extract_lets
  repeat' first
    | with_reducible exact h
    | with_reducible assumption
    | with_reducible apply keeps_refuseAt
    | with_reducible apply keeps_enter
    | split
    | extract_lets
    | (clear_value *; split)
    | ((with_reducible conv => arg 2; whnf); first | split | extract_lets)
    | with_reducible apply SndKeeps.pair
    | with_reducible exact OptKeeps.none
    | with_reducible apply OptKeeps.some
    | (with_reducible refine OptKeeps.elim ?_ (by assumption))
    | (with_reducible refine SndKeeps.elim2 ?_ (by assumption))
    | (with_reducible refine SndKeeps.elim ?_ (by assumption))
    | (dsimp only; fail_if_success extract_lets)
    | with_reducible intro _

theorem keeps_commitLoan (h : Keeps σ s) (c : Fin 9) : Keeps σ (commitLoan c s) := by
  unfold commitLoan
  try extract_lets
  repeat' first
    | with_reducible exact h
    | with_reducible assumption
    | with_reducible apply keeps_endMove
    | with_reducible apply keeps_portReset
    | with_reducible apply Keeps.modHub
    | with_reducible apply keeps_setRole
    | with_reducible apply Keeps.store
    | with_reducible apply keeps_modFly
    | with_reducible apply keeps_readSpans
    | with_reducible apply OptKeeps.getD
    | (with_reducible apply SndKeeps.snd; with_reducible first | apply SndKeeps.draw | apply keeps_endMove | apply keeps_portReset | apply keeps_setRole | apply keeps_modFly | apply keeps_readSpans)
    | with_reducible refine Keeps.when ?_ _ (fun _ _ => ?_)
    | (with_reducible apply Keeps.any; with_reducible first | exact h | assumption | apply keeps_endMove | apply keeps_portReset | apply Keeps.modHub | apply keeps_setRole | apply Keeps.store | apply keeps_modFly | apply keeps_readSpans | refine SndKeeps.elim ?_ (by assumption))
    | split
    | extract_lets
    | (clear_value *; split)
    | ((with_reducible conv => arg 2; whnf); first | split | extract_lets)
    | with_reducible apply SndKeeps.pair
    | with_reducible exact OptKeeps.none
    | with_reducible apply OptKeeps.some
    | (with_reducible refine OptKeeps.elim ?_ (by assumption))
    | (with_reducible refine SndKeeps.elim2 ?_ (by assumption))
    | (with_reducible refine SndKeeps.elim ?_ (by assumption))
    | (dsimp only; fail_if_success extract_lets)
    | with_reducible intro _

theorem keeps_releaseLoan (h : Keeps σ s) (d : List Byte) : Keeps σ (releaseLoan d s) := by
  unfold releaseLoan
  try extract_lets
  repeat' first
    | with_reducible exact h
    | with_reducible assumption
    | with_reducible apply Keeps.modHub
    | with_reducible apply keeps_setRole
    | (with_reducible apply SndKeeps.snd; with_reducible first | apply SndKeeps.draw | apply keeps_setRole)
    | with_reducible refine Keeps.each ?_ _ (fun _ _ _ => ?_)
    | (with_reducible apply Keeps.any; with_reducible first | exact h | assumption | apply Keeps.modHub | apply keeps_setRole)
    | split
    | extract_lets
    | ((with_reducible conv => arg 2; whnf); first | split | extract_lets)
    | with_reducible intro _

theorem keeps_completeLoan (h : Keeps σ s) (c : Fin 9) (f : Fly) : Keeps σ (completeLoan c f s) := by
  unfold completeLoan
  try extract_lets
  repeat' first
    | with_reducible exact h
    | with_reducible assumption
    | with_reducible apply keeps_endMove
    | with_reducible apply keeps_releaseLoan
    | with_reducible apply keeps_completeFly
    | (with_reducible apply Keeps.any; with_reducible first | exact h | assumption | apply keeps_endMove | apply keeps_releaseLoan | apply keeps_completeFly)
    | split
    | extract_lets
    | (clear_value *; split)
    | ((with_reducible conv => arg 2; whnf); first | split | extract_lets)
    | with_reducible apply SndKeeps.pair
    | with_reducible exact OptKeeps.none
    | with_reducible apply OptKeeps.some
    | (with_reducible refine OptKeeps.elim ?_ (by assumption))
    | (with_reducible refine SndKeeps.elim2 ?_ (by assumption))
    | (with_reducible refine SndKeeps.elim ?_ (by assumption))
    | (dsimp only; fail_if_success extract_lets)
    | with_reducible intro _

theorem keeps_offloadIssue (h : Keeps σ s) (c : Fin 9) (f : Fly) : Keeps σ (offloadIssue c f s) := by
  unfold offloadIssue
  try extract_lets
  repeat' first
    | with_reducible exact h
    | with_reducible assumption
    | with_reducible apply keeps_refuseAt
    | with_reducible apply keeps_enter
    | split
    | extract_lets
    | (clear_value *; split)
    | ((with_reducible conv => arg 2; whnf); first | split | extract_lets)
    | with_reducible apply SndKeeps.pair
    | with_reducible exact OptKeeps.none
    | with_reducible apply OptKeeps.some
    | (with_reducible refine OptKeeps.elim ?_ (by assumption))
    | (with_reducible refine SndKeeps.elim2 ?_ (by assumption))
    | (with_reducible refine SndKeeps.elim ?_ (by assumption))
    | (dsimp only; fail_if_success extract_lets)
    | with_reducible intro _

theorem keeps_pumpPuts (h : Keeps σ s)  (n : Nat) : Keeps σ (pumpPuts  n s) := by
  induction n generalizing s with
  | zero => exact h
  | succ n ih =>
  unfold pumpPuts
  try extract_lets
  repeat' first
    | with_reducible exact h
    | with_reducible assumption
    | with_reducible apply keeps_readSpans
    | with_reducible apply keeps_enqueueTx
    | with_reducible apply Keeps.modHub
    | with_reducible apply ih
    | (with_reducible apply Keeps.any; with_reducible first | exact h | assumption | apply keeps_readSpans | apply keeps_enqueueTx | apply Keeps.modHub)
    | split
    | extract_lets
    | (clear_value *; split)
    | ((with_reducible conv => arg 2; whnf); first | split | extract_lets)
    | with_reducible apply SndKeeps.pair
    | with_reducible exact OptKeeps.none
    | with_reducible apply OptKeeps.some
    | (with_reducible refine OptKeeps.elim ?_ (by assumption))
    | (with_reducible refine SndKeeps.elim2 ?_ (by assumption))
    | (with_reducible refine SndKeeps.elim ?_ (by assumption))
    | (dsimp only; fail_if_success extract_lets)
    | with_reducible intro _

theorem keeps_pump (h : Keeps σ s)  : Keeps σ (pump s) := by
  unfold pump
  try extract_lets
  repeat' first
    | with_reducible exact h
    | with_reducible assumption
    | with_reducible apply keeps_pumpPuts
    | split
    | extract_lets
    | ((with_reducible conv => arg 2; whnf); first | split | extract_lets)
    | with_reducible intro _

theorem keeps_commitOffload (h : Keeps σ s) (c : Fin 9) : Keeps σ (commitOffload c s) := by
  unfold commitOffload
  try extract_lets
  repeat' first
    | with_reducible exact h
    | with_reducible assumption
    | with_reducible apply keeps_portReset
    | with_reducible apply keeps_endMove
    | with_reducible apply keeps_modFly
    | with_reducible apply keeps_pump
    | with_reducible apply Keeps.modHub
    | with_reducible apply keeps_enqueueTx
    | with_reducible apply keeps_goOn
    | (with_reducible apply Keeps.any; with_reducible first | exact h | assumption | apply keeps_portReset | apply keeps_endMove | apply keeps_modFly | apply keeps_pump | apply Keeps.modHub | apply keeps_enqueueTx | apply keeps_goOn)
    | split
    | extract_lets
    | (clear_value *; split)
    | ((with_reducible conv => arg 2; whnf); first | split | extract_lets)
    | with_reducible apply SndKeeps.pair
    | with_reducible exact OptKeeps.none
    | with_reducible apply OptKeeps.some
    | (with_reducible refine OptKeeps.elim ?_ (by assumption))
    | (with_reducible refine SndKeeps.elim2 ?_ (by assumption))
    | (with_reducible refine SndKeeps.elim ?_ (by assumption))
    | (dsimp only; fail_if_success extract_lets)
    | with_reducible intro _

theorem keeps_countGet (h : Keeps σ s) (c : Fin 9) (tag : W64) (addr n : Nat) : Keeps σ (countGet c tag addr n s) := by
  unfold countGet
  try extract_lets
  repeat' first
    | with_reducible exact h
    | with_reducible assumption
    | with_reducible apply Keeps.modHub
    | (with_reducible apply Keeps.any; with_reducible first | exact h | assumption | apply Keeps.modHub)
    | split
    | extract_lets
    | ((with_reducible conv => arg 2; whnf); first | split | extract_lets)
    | with_reducible intro _

theorem keeps_portEnWrite (h : Keeps σ s) (v : W32) : Keeps σ (portEnWrite v s) := by
  unfold portEnWrite
  try extract_lets
  repeat' first
    | with_reducible exact h
    | with_reducible assumption
    | with_reducible apply Keeps.setReg
    | with_reducible apply keeps_portReset
    | with_reducible apply keeps_endMove
    | with_reducible refine Keeps.each ?_ _ (fun _ _ _ => ?_)
    | split
    | extract_lets
    | ((with_reducible conv => arg 2; whnf); first | split | extract_lets)
    | with_reducible intro _

end Sys2Proof.Machine
end

