-- ==== Sys2Proof/Laws/KeepsPlat.lean ====
section
/-! SUPPORT. What every operation of Machine/Plat.lean keeps (see Keeps). -/
namespace Sys2Proof.Machine
set_option linter.unusedTactic false
set_option linter.unreachableTactic false
set_option linter.unnecessarySeqFocus false
variable {σ s : State}

theorem keeps_platMsg (h : Keeps σ s) (c : Fin 9) (dest : BitVec 14) (code : Nat) (arg : Nat) : Keeps σ (platMsg c dest code arg s) := by
  unfold platMsg
  try extract_lets
  repeat' first
    | with_reducible exact h
    | with_reducible assumption
    | with_reducible apply keeps_pumpAll
    | with_reducible apply keeps_routeOwn
    | with_reducible refine Keeps.each ?_ _ (fun _ _ _ => ?_)
    | split
    | extract_lets
    | ((with_reducible conv => arg 2; whnf); first | split | extract_lets)
    | with_reducible intro _

theorem keeps_platData (h : Keeps σ s) (c : Fin 9) (dest : BitVec 14) (window : Nat) (bytes : List Byte) : Keeps σ (platData c dest window bytes s) := by
  unfold platData
  try extract_lets
  repeat' first
    | with_reducible exact h
    | with_reducible assumption
    | with_reducible apply keeps_pumpAll
    | with_reducible apply keeps_routeOwn
    | with_reducible refine Keeps.each ?_ _ (fun _ _ _ => ?_)
    | split
    | extract_lets
    | ((with_reducible conv => arg 2; whnf); first | split | extract_lets)
    | with_reducible intro _

theorem keeps_startCopy (h : Keeps σ s) (c : Fin 9) (n : Nat) : Keeps σ (startCopy c n s) := by
  induction n generalizing s with
  | zero => exact h
  | succ n ih =>
  unfold startCopy
  try extract_lets
  repeat' first
    | with_reducible exact h
    | with_reducible assumption
    | with_reducible apply Keeps.modPlat
    | with_reducible apply keeps_startCopy
    | with_reducible apply keeps_platMsg
    | with_reducible apply keeps_copyFail
    | with_reducible apply ih
    | (with_reducible apply Keeps.any; with_reducible first | exact h | assumption | apply Keeps.modPlat | apply keeps_startCopy | apply keeps_platMsg | apply keeps_copyFail)
    | split
    | extract_lets
    | (clear_value *; split)
    | ((with_reducible conv => arg 2; whnf); first | split | extract_lets)
    | with_reducible apply SndKeeps.pair
    | with_reducible exact OptKeeps.none
    | with_reducible apply OptKeeps.some
    | (with_reducible refine OptKeeps.elim ?_ (by assumption))
    | (with_reducible refine SndKeeps.elim2 ?_ (by assumption))
    | (with_reducible refine SndKeeps.elim ?_ (by assumption))
    | (dsimp only; fail_if_success extract_lets)
    | with_reducible intro _

theorem keeps_queueCopies (h : Keeps σ s) (c : Fin 9) : Keeps σ (queueCopies c s) := by
  unfold queueCopies
  try extract_lets
  repeat' first
    | with_reducible exact h
    | with_reducible assumption
    | with_reducible apply keeps_startCopy
    | with_reducible apply Keeps.modPlat
    | (with_reducible apply Keeps.any; with_reducible first | exact h | assumption | apply keeps_startCopy | apply Keeps.modPlat)
    | split
    | extract_lets
    | ((with_reducible conv => arg 2; whnf); first | split | extract_lets)
    | with_reducible intro _

theorem keeps_abandonFlits (h : Keeps σ s) (c : Fin 9) : Keeps σ (abandonFlits c s) := by
  unfold abandonFlits
  try extract_lets
  repeat' first
    | with_reducible exact h
    | with_reducible assumption
    | (with_reducible refine Keeps.modChanSame ?_ _ ?_ ?_; rotate_left; with_reducible rfl; with_reducible rfl)
    | (with_reducible refine Keeps.modChan ?_ _ ?_; rotate_left; focus (intro hw; (repeat' split) <;> first | (refine Chan.wf_same hw ?_ ?_ <;> with_reducible rfl) | (refine Chan.wf_noStakes hw ?_ ?_ <;> with_reducible rfl) | (refine Chan.wf_noMem hw ?_ ?_ <;> with_reducible rfl) | (exact Chan.wf_empty rfl rfl)))
    | (with_reducible apply Keeps.any; with_reducible first | exact h | assumption)
    | split
    | extract_lets
    | ((with_reducible conv => arg 2; whnf); first | split | extract_lets)
    | with_reducible intro _

theorem keeps_abandonCopy (h : Keeps σ s) (c : Fin 9) : Keeps σ (abandonCopy c s) := by
  unfold abandonCopy
  try extract_lets
  repeat' first
    | with_reducible exact h
    | with_reducible assumption
    | with_reducible apply keeps_abandonFlits
    | with_reducible apply Keeps.modPlat
    | (with_reducible apply Keeps.any; with_reducible first | exact h | assumption | apply keeps_abandonFlits | apply Keeps.modPlat)
    | split
    | extract_lets
    | ((with_reducible conv => arg 2; whnf); first | split | extract_lets)
    | with_reducible intro _

theorem keeps_sessionAnswer (h : Keeps σ s) (c : Fin 9) (station : BitVec 14) (accepted : Bool) (tag : W32) : Keeps σ (sessionAnswer c station accepted tag s) := by
  unfold sessionAnswer
  try extract_lets
  repeat' first
    | with_reducible exact h
    | with_reducible assumption
    | with_reducible apply keeps_startCopy
    | with_reducible apply keeps_copyFail
    | with_reducible apply keeps_abandonFlits
    | with_reducible apply Keeps.setField
    | with_reducible apply Keeps.modPlat
    | with_reducible apply keeps_cause
    | with_reducible apply keeps_platData
    | with_reducible refine Keeps.when ?_ _ (fun _ _ => ?_)
    | (with_reducible apply Keeps.any; with_reducible first | exact h | assumption | apply keeps_startCopy | apply keeps_copyFail | apply keeps_abandonFlits | apply Keeps.setField | apply Keeps.modPlat | apply keeps_cause | apply keeps_platData)
    | split
    | extract_lets
    | (clear_value *; split)
    | ((with_reducible conv => arg 2; whnf); first | split | extract_lets)
    | with_reducible apply SndKeeps.pair
    | with_reducible exact OptKeeps.none
    | with_reducible apply OptKeeps.some
    | (with_reducible refine OptKeeps.elim ?_ (by assumption))
    | (with_reducible refine SndKeeps.elim2 ?_ (by assumption))
    | (with_reducible refine SndKeeps.elim ?_ (by assumption))
    | (dsimp only; fail_if_success extract_lets)
    | with_reducible intro _

theorem keeps_sessionRequest (h : Keeps σ s) (c : Fin 9) (station : BitVec 14) : Keeps σ (sessionRequest c station s) := by
  unfold sessionRequest
  try extract_lets
  repeat' first
    | with_reducible exact h
    | with_reducible assumption
    | with_reducible apply Keeps.modPlat
    | with_reducible apply keeps_platMsg
    | with_reducible apply keeps_cause
    | with_reducible apply OptKeeps.getD
    | (with_reducible apply Keeps.any; with_reducible first | exact h | assumption | apply Keeps.modPlat | apply keeps_platMsg | apply keeps_cause)
    | split
    | extract_lets
    | (clear_value *; split)
    | ((with_reducible conv => arg 2; whnf); first | split | extract_lets)
    | with_reducible apply SndKeeps.pair
    | with_reducible exact OptKeeps.none
    | with_reducible apply OptKeeps.some
    | (with_reducible refine OptKeeps.elim ?_ (by assumption))
    | (with_reducible refine SndKeeps.elim2 ?_ (by assumption))
    | (with_reducible refine SndKeeps.elim ?_ (by assumption))
    | (dsimp only; fail_if_success extract_lets)
    | with_reducible intro _

theorem keeps_sessionFetch (h : Keeps σ s) (c : Fin 9) (station : BitVec 14) (gen : Option W32) : Keeps σ (sessionFetch c station gen s) := by
  unfold sessionFetch
  try extract_lets
  repeat' first
    | with_reducible exact h
    | with_reducible assumption
    | with_reducible apply keeps_platData
    | with_reducible apply keeps_platMsg
    | with_reducible apply OptKeeps.getD
    | split
    | extract_lets
    | (clear_value *; split)
    | ((with_reducible conv => arg 2; whnf); first | split | extract_lets)
    | with_reducible apply SndKeeps.pair
    | with_reducible exact OptKeeps.none
    | with_reducible apply OptKeeps.some
    | (with_reducible refine OptKeeps.elim ?_ (by assumption))
    | (with_reducible refine SndKeeps.elim2 ?_ (by assumption))
    | (with_reducible refine SndKeeps.elim ?_ (by assumption))
    | (dsimp only; fail_if_success extract_lets)
    | with_reducible intro _

theorem keeps_platFlit (h : Keeps σ s) (c : Fin 9) (f : Flit) : OptKeeps σ (platFlit c f s) := by
  unfold platFlit
  try extract_lets
  repeat' first
    | with_reducible exact h
    | with_reducible assumption
    | with_reducible exact OptKeeps.none
    | with_reducible apply OptKeeps.some
    | with_reducible apply Keeps.modPlat
    | with_reducible apply keeps_platMsg
    | with_reducible apply OptKeeps.getD
    | (with_reducible apply Keeps.any; with_reducible first | exact h | assumption | apply Keeps.modPlat | apply keeps_platMsg)
    | split
    | extract_lets
    | (clear_value *; split)
    | ((with_reducible conv => arg 2; whnf); first | split | extract_lets)
    | with_reducible apply SndKeeps.pair
    | (with_reducible refine OptKeeps.elim ?_ (by assumption))
    | (with_reducible refine SndKeeps.elim2 ?_ (by assumption))
    | (with_reducible refine SndKeeps.elim ?_ (by assumption))
    | (dsimp only; fail_if_success extract_lets)
    | with_reducible intro _

theorem keeps_platWriteIssue (h : Keeps σ s) (c : Fin 9) (f : Fly) : Keeps σ (platWriteIssue c f s) := by
  unfold platWriteIssue
  try extract_lets
  repeat' first
    | with_reducible exact h
    | with_reducible assumption
    | with_reducible apply keeps_refuseAt
    | with_reducible apply keeps_enter
    | split
    | extract_lets
    | (clear_value *; split)
    | ((with_reducible conv => arg 2; whnf); first | split | extract_lets)
    | with_reducible apply SndKeeps.pair
    | with_reducible exact OptKeeps.none
    | with_reducible apply OptKeeps.some
    | (with_reducible refine OptKeeps.elim ?_ (by assumption))
    | (with_reducible refine SndKeeps.elim2 ?_ (by assumption))
    | (with_reducible refine SndKeeps.elim ?_ (by assumption))
    | (dsimp only; fail_if_success extract_lets)
    | with_reducible intro _

theorem keeps_commitPlatWrite (h : Keeps σ s) (c : Fin 9) (f : Fly) : Keeps σ (commitPlatWrite c f s) := by
  unfold commitPlatWrite
  try extract_lets
  repeat' first
    | with_reducible exact h
    | with_reducible assumption
    | with_reducible apply keeps_abandonCopy
    | with_reducible apply Keeps.modPlat
    | with_reducible apply keeps_modFly
    | (with_reducible apply Keeps.any; with_reducible first | exact h | assumption | apply keeps_abandonCopy | apply Keeps.modPlat | apply keeps_modFly)
    | split
    | extract_lets
    | ((with_reducible conv => arg 2; whnf); first | split | extract_lets)
    | with_reducible intro _

theorem keeps_completePlatWrite (h : Keeps σ s) (c : Fin 9) (f : Fly) : Keeps σ (completePlatWrite c f s) := by
  unfold completePlatWrite
  try extract_lets
  repeat' first
    | with_reducible exact h
    | with_reducible assumption
    | with_reducible apply keeps_endMove
    | with_reducible apply keeps_readSpans
    | with_reducible apply Keeps.modPlat
    | with_reducible apply keeps_completeFly
    | with_reducible apply keeps_holdForSurvey
    | with_reducible apply keeps_queueCopies
    | with_reducible apply OptKeeps.getD
    | (with_reducible apply SndKeeps.snd; with_reducible first | apply SndKeeps.draw | apply keeps_endMove | apply keeps_readSpans | apply keeps_completeFly | apply keeps_holdForSurvey | apply keeps_queueCopies)
    | (with_reducible refine Keeps.modChanSame ?_ _ ?_ ?_; rotate_left; with_reducible rfl; with_reducible rfl)
    | (with_reducible refine Keeps.modChan ?_ _ ?_; rotate_left; focus (intro hw; (repeat' split) <;> first | (refine Chan.wf_same hw ?_ ?_ <;> with_reducible rfl) | (refine Chan.wf_noStakes hw ?_ ?_ <;> with_reducible rfl) | (refine Chan.wf_noMem hw ?_ ?_ <;> with_reducible rfl) | (exact Chan.wf_empty rfl rfl)))
    | (with_reducible apply Keeps.any; with_reducible first | exact h | assumption | apply keeps_endMove | apply keeps_readSpans | apply Keeps.modPlat | apply keeps_completeFly | apply keeps_holdForSurvey | apply keeps_queueCopies)
    | split
    | extract_lets
    | (clear_value *; split)
    | ((with_reducible conv => arg 2; whnf); first | split | extract_lets)
    | with_reducible apply SndKeeps.pair
    | with_reducible exact OptKeeps.none
    | with_reducible apply OptKeeps.some
    | (with_reducible refine OptKeeps.elim ?_ (by assumption))
    | (with_reducible refine SndKeeps.elim2 ?_ (by assumption))
    | (with_reducible refine SndKeeps.elim ?_ (by assumption))
    | (dsimp only; fail_if_success extract_lets)
    | with_reducible intro _

theorem keeps_platReadIssue (h : Keeps σ s) (c : Fin 9) (f : Fly) : Keeps σ (platReadIssue c f s) := by
  unfold platReadIssue
  try extract_lets
  repeat' first
    | with_reducible exact h
    | with_reducible assumption
    | with_reducible apply keeps_refuseAt
    | with_reducible apply keeps_enter
    | split
    | extract_lets
    | (clear_value *; split)
    | ((with_reducible conv => arg 2; whnf); first | split | extract_lets)
    | with_reducible apply SndKeeps.pair
    | with_reducible exact OptKeeps.none
    | with_reducible apply OptKeeps.some
    | (with_reducible refine OptKeeps.elim ?_ (by assumption))
    | (with_reducible refine SndKeeps.elim2 ?_ (by assumption))
    | (with_reducible refine SndKeeps.elim ?_ (by assumption))
    | (dsimp only; fail_if_success extract_lets)
    | with_reducible intro _

theorem keeps_commitRead (h : Keeps σ s) (c : Fin 9) (f : Fly) (i : PlatImage) : Keeps σ (commitRead c f i s) := by
  unfold commitRead
  try extract_lets
  repeat' first
    | with_reducible exact h
    | with_reducible assumption
    | with_reducible apply keeps_endMove
    | with_reducible apply keeps_writeMem
    | with_reducible apply Keeps.modPlat
    | with_reducible apply keeps_modFly
    | (with_reducible apply Keeps.any; with_reducible first | exact h | assumption | apply keeps_endMove | apply keeps_writeMem | apply Keeps.modPlat | apply keeps_modFly)
    | split
    | extract_lets
    | ((with_reducible conv => arg 2; whnf); first | split | extract_lets)
    | with_reducible intro _

theorem keeps_commitPlatRead (h : Keeps σ s) (c : Fin 9) (f : Fly) : Keeps σ (commitPlatRead c f s) := by
  unfold commitPlatRead
  try extract_lets
  repeat' first
    | with_reducible exact h
    | with_reducible assumption
    | with_reducible apply keeps_endMove
    | with_reducible apply keeps_commitRead
    | with_reducible apply keeps_readSpans
    | with_reducible apply keeps_platMsg
    | with_reducible apply Keeps.modPlat
    | with_reducible apply keeps_portReset
    | (with_reducible apply SndKeeps.snd; with_reducible first | apply SndKeeps.draw | apply keeps_endMove | apply keeps_commitRead | apply keeps_readSpans | apply keeps_platMsg | apply keeps_portReset)
    | (with_reducible apply Keeps.any; with_reducible first | exact h | assumption | apply keeps_endMove | apply keeps_commitRead | apply keeps_readSpans | apply keeps_platMsg | apply Keeps.modPlat | apply keeps_portReset)
    | split
    | extract_lets
    | (clear_value *; split)
    | ((with_reducible conv => arg 2; whnf); first | split | extract_lets)
    | with_reducible apply SndKeeps.pair
    | with_reducible exact OptKeeps.none
    | with_reducible apply OptKeeps.some
    | (with_reducible refine OptKeeps.elim ?_ (by assumption))
    | (with_reducible refine SndKeeps.elim2 ?_ (by assumption))
    | (with_reducible refine SndKeeps.elim ?_ (by assumption))
    | (dsimp only; fail_if_success extract_lets)
    | with_reducible intro _

theorem keeps_noImage (h : Keeps σ s) (c : Fin 9) (station : BitVec 14) : Keeps σ (noImage c station s) := by
  unfold noImage
  try extract_lets
  repeat' first
    | with_reducible exact h
    | with_reducible assumption
    | with_reducible apply keeps_endMove
    | with_reducible apply Keeps.modPlat
    | (with_reducible apply Keeps.any; with_reducible first | exact h | assumption | apply keeps_endMove | apply Keeps.modPlat)
    | split
    | extract_lets
    | (clear_value *; split)
    | ((with_reducible conv => arg 2; whnf); first | split | extract_lets)
    | with_reducible apply SndKeeps.pair
    | with_reducible exact OptKeeps.none
    | with_reducible apply OptKeeps.some
    | (with_reducible refine OptKeeps.elim ?_ (by assumption))
    | (with_reducible refine SndKeeps.elim2 ?_ (by assumption))
    | (with_reducible refine SndKeeps.elim ?_ (by assumption))
    | (dsimp only; fail_if_success extract_lets)
    | with_reducible intro _

theorem keeps_failTri (h : Keeps σ s) (id : W32) : Keeps σ (failTri id s) := by
  unfold failTri
  try extract_lets
  repeat' first
    | with_reducible exact h
    | with_reducible assumption
    | exact fun _ k => k
    | with_reducible apply Keeps.modHub
    | with_reducible apply keeps_endMove
    | with_reducible refine Keeps.each ?_ _ (fun _ _ _ => ?_)
    | (with_reducible apply Keeps.any; with_reducible first | exact h | assumption | apply Keeps.modHub | apply keeps_endMove)
    | split
    | extract_lets
    | (clear_value *; split)
    | ((with_reducible conv => arg 2; whnf); first | split | extract_lets)
    | with_reducible apply SndKeeps.pair
    | with_reducible exact OptKeeps.none
    | with_reducible apply OptKeeps.some
    | (with_reducible refine OptKeeps.elim ?_ (by assumption))
    | (with_reducible refine SndKeeps.elim2 ?_ (by assumption))
    | (with_reducible refine SndKeeps.elim ?_ (by assumption))
    | (dsimp only; fail_if_success extract_lets)
    | with_reducible intro _

theorem keeps_registerTri (h : Keeps σ s) (c : Fin 9) (f : Fly) : Keeps σ (registerTri c f s) := by
  unfold registerTri
  try extract_lets
  repeat' first
    | with_reducible exact h
    | with_reducible assumption
    | with_reducible apply Keeps.modHub
    | with_reducible apply keeps_failTri
    | with_reducible apply OptKeeps.getD
    | (with_reducible apply SndKeeps.snd; with_reducible first | apply SndKeeps.draw | apply keeps_failTri)
    | (with_reducible apply Keeps.any; with_reducible first | exact h | assumption | apply Keeps.modHub | apply keeps_failTri | refine SndKeeps.elim ?_ (by assumption))
    | split
    | extract_lets
    | ((with_reducible conv => arg 2; whnf); first | split | extract_lets)
    | with_reducible apply SndKeeps.pair
    | with_reducible exact OptKeeps.none
    | with_reducible apply OptKeeps.some
    | (with_reducible refine OptKeeps.elim ?_ (by assumption))
    | (with_reducible refine SndKeeps.elim2 ?_ (by assumption))
    | (with_reducible refine SndKeeps.elim ?_ (by assumption))
    | (dsimp only; fail_if_success extract_lets)
    | with_reducible intro _

theorem keeps_meetTris (h : Keeps σ s) (l : List TriWait) : Keeps σ (meetTris l s) := by
  unfold meetTris
  try extract_lets
  repeat' first
    | with_reducible exact h
    | with_reducible assumption
    | with_reducible apply Keeps.modHub
    | with_reducible apply keeps_modFly
    | with_reducible refine Keeps.each ?_ _ (fun _ _ _ => ?_)
    | (with_reducible apply Keeps.any; with_reducible first | exact h | assumption | apply Keeps.modHub | apply keeps_modFly)
    | split
    | extract_lets
    | ((with_reducible conv => arg 2; whnf); first | split | extract_lets)
    | with_reducible intro _

theorem keeps_triRendezvous (h : Keeps σ s) (id : W32) : Keeps σ (triRendezvous id s) := by
  unfold triRendezvous
  try extract_lets
  repeat' first
    | with_reducible exact h
    | with_reducible assumption
    | exact fun _ k => k
    | with_reducible apply keeps_portReset
    | with_reducible apply keeps_meetTris
    | with_reducible refine Keeps.each ?_ _ (fun _ _ _ => ?_)
    | split
    | extract_lets
    | (clear_value *; split)
    | ((with_reducible conv => arg 2; whnf); first | split | extract_lets)
    | with_reducible apply SndKeeps.pair
    | with_reducible exact OptKeeps.none
    | with_reducible apply OptKeeps.some
    | (with_reducible refine OptKeeps.elim ?_ (by assumption))
    | (with_reducible refine SndKeeps.elim2 ?_ (by assumption))
    | (with_reducible refine SndKeeps.elim ?_ (by assumption))
    | (dsimp only; fail_if_success extract_lets)
    | with_reducible intro _

theorem keeps_finishTri (h : Keeps σ s) (c : Fin 9) (f : Fly) : Keeps σ (finishTri c f s) := by
  unfold finishTri
  try extract_lets
  repeat' first
    | with_reducible exact h
    | with_reducible assumption
    | with_reducible apply Keeps.modHub
    | with_reducible apply keeps_cause
    | with_reducible apply keeps_completeFly
    | with_reducible apply keeps_setRole
    | with_reducible refine Keeps.when ?_ _ (fun _ _ => ?_)
    | (with_reducible apply Keeps.any; with_reducible first | exact h | assumption | apply Keeps.modHub | apply keeps_cause | apply keeps_completeFly | apply keeps_setRole)
    | split
    | extract_lets
    | ((with_reducible conv => arg 2; whnf); first | split | extract_lets)
    | with_reducible intro _

theorem keeps_restored (h : Keeps σ s) (c : Fin 9) (d : List Byte) : Keeps σ (restored c d s) := by
  unfold restored
  try extract_lets
  repeat' first
    | with_reducible exact h
    | with_reducible assumption
    | (with_reducible refine Keeps.modChanSame ?_ _ ?_ ?_; rotate_left; with_reducible rfl; with_reducible rfl)
    | (with_reducible refine Keeps.modChan ?_ _ ?_; rotate_left; focus (intro hw; (repeat' split) <;> first | (refine Chan.wf_same hw ?_ ?_ <;> with_reducible rfl) | (refine Chan.wf_noStakes hw ?_ ?_ <;> with_reducible rfl) | (refine Chan.wf_noMem hw ?_ ?_ <;> with_reducible rfl) | (exact Chan.wf_empty rfl rfl)))
    | (with_reducible apply Keeps.any; with_reducible first | exact h | assumption)
    | split
    | extract_lets
    | ((with_reducible conv => arg 2; whnf); first | split | extract_lets)
    | with_reducible intro _

theorem keeps_completePlatRead (h : Keeps σ s) (c : Fin 9) (f : Fly) : Keeps σ (completePlatRead c f s) := by
  unfold completePlatRead
  try extract_lets
  repeat' first
    | with_reducible exact h
    | with_reducible assumption
    | with_reducible apply keeps_endMove
    | with_reducible apply keeps_finishTri
    | with_reducible apply keeps_registerTri
    | with_reducible apply keeps_restored
    | with_reducible apply keeps_finishWork
    | with_reducible apply keeps_completeFly
    | split
    | extract_lets
    | (clear_value *; split)
    | ((with_reducible conv => arg 2; whnf); first | split | extract_lets)
    | with_reducible apply SndKeeps.pair
    | with_reducible exact OptKeeps.none
    | with_reducible apply OptKeeps.some
    | (with_reducible refine OptKeeps.elim ?_ (by assumption))
    | (with_reducible refine SndKeeps.elim2 ?_ (by assumption))
    | (with_reducible refine SndKeeps.elim ?_ (by assumption))
    | (dsimp only; fail_if_success extract_lets)
    | with_reducible intro _

theorem keeps_commitPlat (h : Keeps σ s) (c : Fin 9) : Keeps σ (commitPlat c s) := by
  unfold commitPlat
  try extract_lets
  repeat' first
    | with_reducible exact h
    | with_reducible assumption
    | with_reducible apply keeps_commitPlatWrite
    | with_reducible apply keeps_commitPlatRead
    | split
    | extract_lets
    | (clear_value *; split)
    | ((with_reducible conv => arg 2; whnf); first | split | extract_lets)
    | with_reducible apply SndKeeps.pair
    | with_reducible exact OptKeeps.none
    | with_reducible apply OptKeeps.some
    | (with_reducible refine OptKeeps.elim ?_ (by assumption))
    | (with_reducible refine SndKeeps.elim2 ?_ (by assumption))
    | (with_reducible refine SndKeeps.elim ?_ (by assumption))
    | (dsimp only; fail_if_success extract_lets)
    | with_reducible intro _

theorem keeps_completePlat (h : Keeps σ s) (c : Fin 9) : Keeps σ (completePlat c s) := by
  unfold completePlat
  try extract_lets
  repeat' first
    | with_reducible exact h
    | with_reducible assumption
    | with_reducible apply keeps_completePlatWrite
    | with_reducible apply keeps_completePlatRead
    | split
    | extract_lets
    | (clear_value *; split)
    | ((with_reducible conv => arg 2; whnf); first | split | extract_lets)
    | with_reducible apply SndKeeps.pair
    | with_reducible exact OptKeeps.none
    | with_reducible apply OptKeeps.some
    | (with_reducible refine OptKeeps.elim ?_ (by assumption))
    | (with_reducible refine SndKeeps.elim2 ?_ (by assumption))
    | (with_reducible refine SndKeeps.elim ?_ (by assumption))
    | (dsimp only; fail_if_success extract_lets)
    | with_reducible intro _

theorem keeps_pageLost (h : Keeps σ s) (c : Fin 9) (reserveGone : Bool) (failed : Option Nat) : Keeps σ (pageLost c reserveGone failed s) := by
  unfold pageLost
  try extract_lets
  repeat' first
    | with_reducible exact h
    | with_reducible assumption
    | with_reducible apply keeps_lastingFence
    | with_reducible apply keeps_lastingEvent
    | (with_reducible refine Keeps.modChanSame ?_ _ ?_ ?_; rotate_left; with_reducible rfl; with_reducible rfl)
    | (with_reducible refine Keeps.modChan ?_ _ ?_; rotate_left; focus (intro hw; (repeat' split) <;> first | (refine Chan.wf_same hw ?_ ?_ <;> with_reducible rfl) | (refine Chan.wf_noStakes hw ?_ ?_ <;> with_reducible rfl) | (refine Chan.wf_noMem hw ?_ ?_ <;> with_reducible rfl) | (exact Chan.wf_empty rfl rfl)))
    | (with_reducible apply Keeps.any; with_reducible first | exact h | assumption | apply keeps_lastingFence | apply keeps_lastingEvent)
    | split
    | extract_lets
    | ((with_reducible conv => arg 2; whnf); first | split | extract_lets)
    | with_reducible intro _

theorem keeps_readLost (h : Keeps σ s) (c : Fin 9) (slot : Nat) (reserveGone : Bool) : Keeps σ (readLost c slot reserveGone s) := by
  unfold readLost
  try extract_lets
  repeat' first
    | with_reducible exact h
    | with_reducible assumption
    | with_reducible apply Keeps.modPlat
    | with_reducible apply keeps_endMove
    | with_reducible apply keeps_pageLost
    | (with_reducible apply SndKeeps.snd; with_reducible first | apply SndKeeps.draw | apply keeps_endMove | apply keeps_pageLost)
    | with_reducible refine Keeps.each ?_ _ (fun _ _ _ => ?_)
    | (with_reducible apply Keeps.any; with_reducible first | exact h | assumption | apply Keeps.modPlat | apply keeps_endMove | apply keeps_pageLost)
    | split
    | extract_lets
    | ((with_reducible conv => arg 2; whnf); first | split | extract_lets)
    | with_reducible intro _

theorem keeps_stopReceiving (h : Keeps σ s) (c : Fin 9) (i : Fin 2) : Keeps σ (stopReceiving c i s) := by
  unfold stopReceiving
  try extract_lets
  repeat' first
    | with_reducible exact h
    | with_reducible assumption
    | with_reducible apply keeps_platMsg
    | with_reducible apply Keeps.modPlat
    | (with_reducible apply Keeps.any; with_reducible first | exact h | assumption | apply keeps_platMsg | apply Keeps.modPlat)
    | split
    | extract_lets
    | (clear_value *; split)
    | ((with_reducible conv => arg 2; whnf); first | split | extract_lets)
    | with_reducible apply SndKeeps.pair
    | with_reducible exact OptKeeps.none
    | with_reducible apply OptKeeps.some
    | (with_reducible refine OptKeeps.elim ?_ (by assumption))
    | (with_reducible refine SndKeeps.elim2 ?_ (by assumption))
    | (with_reducible refine SndKeeps.elim ?_ (by assumption))
    | (dsimp only; fail_if_success extract_lets)
    | with_reducible intro _

theorem keeps_programLost (h : Keeps σ s) (c : Fin 9) (slot : Nat) (reserveGone : Bool) : Keeps σ (programLost c slot reserveGone s) := by
  unfold programLost
  try extract_lets
  repeat' first
    | with_reducible exact h
    | with_reducible assumption
    | with_reducible apply keeps_endMove
    | with_reducible apply Keeps.modPlat
    | with_reducible apply keeps_pageLost
    | with_reducible apply keeps_cause
    | with_reducible apply keeps_stopReceiving
    | (with_reducible apply Keeps.any; with_reducible first | exact h | assumption | apply keeps_endMove | apply Keeps.modPlat | apply keeps_pageLost | apply keeps_cause | apply keeps_stopReceiving)
    | split
    | extract_lets
    | (clear_value *; split)
    | ((with_reducible conv => arg 2; whnf); first | split | extract_lets)
    | with_reducible apply SndKeeps.pair
    | with_reducible exact OptKeeps.none
    | with_reducible apply OptKeeps.some
    | (with_reducible refine OptKeeps.elim ?_ (by assumption))
    | (with_reducible refine SndKeeps.elim2 ?_ (by assumption))
    | (with_reducible refine SndKeeps.elim ?_ (by assumption))
    | (dsimp only; fail_if_success extract_lets)
    | with_reducible intro _

theorem keeps_releaseIn (h : Keeps σ s) (c : Fin 9) (areas : Nat) : Keeps σ (releaseIn c areas s) := by
  unfold releaseIn
  try extract_lets
  repeat' first
    | with_reducible exact h
    | with_reducible assumption
    | with_reducible apply keeps_stopReceiving
    | with_reducible apply Keeps.modPlat
    | with_reducible refine Keeps.each ?_ _ (fun _ _ _ => ?_)
    | (with_reducible apply Keeps.any; with_reducible first | exact h | assumption | apply keeps_stopReceiving | apply Keeps.modPlat)
    | split
    | extract_lets
    | ((with_reducible conv => arg 2; whnf); first | split | extract_lets)
    | with_reducible intro _

end Sys2Proof.Machine
end

