-- ==== Sys2Proof/Laws/KeepsTraverse.lean ====
section
/-! SUPPORT. What every operation of Machine/Traverse.lean keeps (see Keeps). -/
namespace Sys2Proof.Machine
set_option linter.unusedTactic false
set_option linter.unreachableTactic false
set_option linter.unnecessarySeqFocus false
variable {σ s : State}

theorem keeps_sendIssue (h : Keeps σ s) (c : Fin 9) (f : Fly) : Keeps σ (sendIssue c f s) := by
  unfold sendIssue
  try extract_lets
  repeat' first
    | with_reducible exact h
    | with_reducible assumption
    | with_reducible apply keeps_refuseAt
    | with_reducible apply keeps_enter
    | split
    | extract_lets
    | (clear_value *; split)
    | ((with_reducible conv => arg 2; whnf); first | split | extract_lets)
    | with_reducible apply SndKeeps.pair
    | with_reducible exact OptKeeps.none
    | with_reducible apply OptKeeps.some
    | (with_reducible refine OptKeeps.elim ?_ (by assumption))
    | (with_reducible refine SndKeeps.elim2 ?_ (by assumption))
    | (with_reducible refine SndKeeps.elim ?_ (by assumption))
    | (dsimp only; fail_if_success extract_lets)
    | with_reducible intro _

theorem keeps_modWindow (h : Keeps σ s) (c : Fin 9) (w : Nat) (g : Window → Window) : Keeps σ (modWindow c w g s) := by
  unfold modWindow
  try extract_lets
  repeat' first
    | with_reducible exact h
    | with_reducible assumption
    | (with_reducible apply SndKeeps.snd; with_reducible first | apply SndKeeps.draw)
    | (with_reducible refine Keeps.modChanSame ?_ _ ?_ ?_; rotate_left; with_reducible rfl; with_reducible rfl)
    | (with_reducible refine Keeps.modChan ?_ _ ?_; rotate_left; focus (intro hw; (repeat' split) <;> first | (refine Chan.wf_same hw ?_ ?_ <;> with_reducible rfl) | (refine Chan.wf_noStakes hw ?_ ?_ <;> with_reducible rfl) | (refine Chan.wf_noMem hw ?_ ?_ <;> with_reducible rfl) | (exact Chan.wf_empty rfl rfl)))
    | (with_reducible apply Keeps.any; with_reducible first | exact h | assumption)
    | split
    | extract_lets
    | ((with_reducible conv => arg 2; whnf); first | split | extract_lets)
    | with_reducible intro _

theorem keeps_finishWindow (h : Keeps σ s) (c : Fin 9) (n : Nat) : Keeps σ (finishWindow c n s) := by
  unfold finishWindow
  try extract_lets
  repeat' first
    | with_reducible exact h
    | with_reducible assumption
    | with_reducible apply keeps_completeFly
    | (with_reducible apply Keeps.any; with_reducible first | exact h | assumption | apply keeps_completeFly)
    | split
    | extract_lets
    | (clear_value *; split)
    | ((with_reducible conv => arg 2; whnf); first | split | extract_lets)
    | with_reducible apply SndKeeps.pair
    | with_reducible exact OptKeeps.none
    | with_reducible apply OptKeeps.some
    | (with_reducible refine OptKeeps.elim ?_ (by assumption))
    | (with_reducible refine SndKeeps.elim2 ?_ (by assumption))
    | (with_reducible refine SndKeeps.elim ?_ (by assumption))
    | (dsimp only; fail_if_success extract_lets)
    | with_reducible intro _

theorem keeps_deliver (h : Keeps σ s) (c : Fin 9) (p : Option (Fin 6)) (f : Flit) : Keeps σ (deliver c p f s) := by
  unfold deliver
  try extract_lets
  repeat' first
    | with_reducible exact h
    | with_reducible assumption
    | with_reducible apply keeps_cause
    | with_reducible apply keeps_discardCount
    | with_reducible apply keeps_modFly
    | with_reducible apply keeps_endMove
    | with_reducible apply keeps_putAll
    | with_reducible apply keeps_deliverReplies
    | with_reducible apply keeps_drainPort
    | with_reducible apply keeps_modWindow
    | with_reducible apply Keeps.addStake
    | with_reducible apply keeps_finishWindow
    | (with_reducible apply SndKeeps.snd; with_reducible first | apply SndKeeps.draw | apply keeps_cause | apply keeps_discardCount | apply keeps_modFly | apply keeps_endMove | apply keeps_putAll | apply keeps_deliverReplies | apply keeps_drainPort | apply keeps_modWindow | apply keeps_finishWindow)
    | with_reducible refine Keeps.when ?_ _ (fun _ _ => ?_)
    | (with_reducible apply Keeps.any; with_reducible first | exact h | assumption | apply keeps_cause | apply keeps_discardCount | apply keeps_modFly | apply keeps_endMove | apply keeps_putAll | apply keeps_deliverReplies | apply keeps_drainPort | apply keeps_modWindow | apply Keeps.addStake | apply keeps_finishWindow)
    | split
    | extract_lets
    | (clear_value *; split)
    | ((with_reducible conv => arg 2; whnf); first | split | extract_lets)
    | with_reducible apply SndKeeps.pair
    | with_reducible exact OptKeeps.none
    | with_reducible apply OptKeeps.some
    | (with_reducible refine OptKeeps.elim ?_ (by assumption))
    | (with_reducible refine SndKeeps.elim2 ?_ (by assumption))
    | (with_reducible refine SndKeeps.elim ?_ (by assumption))
    | (dsimp only; fail_if_success extract_lets)
    | with_reducible intro _

theorem keeps_pumpLocal (h : Keeps σ s) (c : Fin 9) (n : Nat) : Keeps σ (pumpLocal c n s) := by
  induction n generalizing s with
  | zero => exact h
  | succ n ih =>
  unfold pumpLocal
  try extract_lets
  repeat' first
    | with_reducible exact h
    | with_reducible assumption
    | with_reducible apply keeps_platFlit
    | with_reducible apply keeps_deliver
    | with_reducible apply ih
    | with_reducible apply OptKeeps.getD
    | (with_reducible refine Keeps.modChanSame ?_ _ ?_ ?_; rotate_left; with_reducible rfl; with_reducible rfl)
    | (with_reducible refine Keeps.modChan ?_ _ ?_; rotate_left; focus (intro hw; (repeat' split) <;> first | (refine Chan.wf_same hw ?_ ?_ <;> with_reducible rfl) | (refine Chan.wf_noStakes hw ?_ ?_ <;> with_reducible rfl) | (refine Chan.wf_noMem hw ?_ ?_ <;> with_reducible rfl) | (exact Chan.wf_empty rfl rfl)))
    | (with_reducible apply Keeps.any; with_reducible first | exact h | assumption | apply keeps_platFlit | apply keeps_deliver)
    | split
    | extract_lets
    | (clear_value *; split)
    | ((with_reducible conv => arg 2; whnf); first | split | extract_lets)
    | with_reducible apply SndKeeps.pair
    | with_reducible exact OptKeeps.none
    | with_reducible apply OptKeeps.some
    | (with_reducible refine OptKeeps.elim ?_ (by assumption))
    | (with_reducible refine SndKeeps.elim2 ?_ (by assumption))
    | (with_reducible refine SndKeeps.elim ?_ (by assumption))
    | (dsimp only; fail_if_success extract_lets)
    | with_reducible intro _

theorem keeps_runLocal (h : Keeps σ s) (c : Fin 9) : Keeps σ (runLocal c s) := by
  unfold runLocal
  try extract_lets
  repeat' first
    | with_reducible exact h
    | with_reducible assumption
    | with_reducible apply keeps_pumpLocal
    | split
    | extract_lets
    | ((with_reducible conv => arg 2; whnf); first | split | extract_lets)
    | with_reducible intro _

theorem keeps_commitSend (h : Keeps σ s) (c : Fin 9) (u : UnitId) : Keeps σ (commitSend c u s) := by
  unfold commitSend
  try extract_lets
  repeat' first
    | with_reducible exact h
    | with_reducible assumption
    | with_reducible apply keeps_endMove
    | with_reducible apply keeps_modFly
    | with_reducible apply keeps_runLocal
    | with_reducible apply keeps_pumpAll
    | with_reducible apply keeps_routeOwn
    | with_reducible apply keeps_readSpans
    | with_reducible apply keeps_writeMem
    | with_reducible apply keeps_settle
    | with_reducible apply keeps_goOn
    | with_reducible apply OptKeeps.getD
    | with_reducible refine Keeps.each ?_ _ (fun _ _ _ => ?_)
    | (with_reducible apply Keeps.any; with_reducible first | exact h | assumption | apply keeps_endMove | apply keeps_modFly | apply keeps_runLocal | apply keeps_pumpAll | apply keeps_routeOwn | apply keeps_readSpans | apply keeps_writeMem | apply keeps_settle | apply keeps_goOn)
    | split
    | extract_lets
    | (clear_value *; split)
    | ((with_reducible conv => arg 2; whnf); first | split | extract_lets)
    | with_reducible apply SndKeeps.pair
    | with_reducible exact OptKeeps.none
    | with_reducible apply OptKeeps.some
    | (with_reducible refine OptKeeps.elim ?_ (by assumption))
    | (with_reducible refine SndKeeps.elim2 ?_ (by assumption))
    | (with_reducible refine SndKeeps.elim ?_ (by assumption))
    | (dsimp only; fail_if_success extract_lets)
    | with_reducible intro _

theorem keeps_completeSend (h : Keeps σ s) (c : Fin 9) (u : UnitId) : Keeps σ (completeSend c u s) := by
  unfold completeSend
  try extract_lets
  repeat' first
    | with_reducible exact h
    | with_reducible assumption
    | with_reducible apply keeps_completeFly
    | split
    | extract_lets
    | (clear_value *; split)
    | ((with_reducible conv => arg 2; whnf); first | split | extract_lets)
    | with_reducible apply SndKeeps.pair
    | with_reducible exact OptKeeps.none
    | with_reducible apply OptKeeps.some
    | (with_reducible refine OptKeeps.elim ?_ (by assumption))
    | (with_reducible refine SndKeeps.elim2 ?_ (by assumption))
    | (with_reducible refine SndKeeps.elim ?_ (by assumption))
    | (dsimp only; fail_if_success extract_lets)
    | with_reducible intro _

theorem keeps_arrive (h : Keeps σ s) (c : Fin 9) (p : Fin 6) (f : Flit) : Keeps σ (arrive c p f s) := by
  unfold arrive
  try extract_lets
  repeat' first
    | with_reducible exact h
    | with_reducible assumption
    | with_reducible apply Keeps.modPort
    | with_reducible apply keeps_returnCredit
    | with_reducible apply keeps_platFlit
    | with_reducible apply keeps_discardCount
    | with_reducible apply keeps_deliver
    | with_reducible apply keeps_pumpPort
    | with_reducible apply OptKeeps.getD
    | (with_reducible apply Keeps.any; with_reducible first | exact h | assumption | apply Keeps.modPort | apply keeps_returnCredit | apply keeps_platFlit | apply keeps_discardCount | apply keeps_deliver | apply keeps_pumpPort)
    | split
    | extract_lets
    | (clear_value *; split)
    | ((with_reducible conv => arg 2; whnf); first | split | extract_lets)
    | with_reducible apply SndKeeps.pair
    | with_reducible exact OptKeeps.none
    | with_reducible apply OptKeeps.some
    | (with_reducible refine OptKeeps.elim ?_ (by assumption))
    | (with_reducible refine SndKeeps.elim2 ?_ (by assumption))
    | (with_reducible refine SndKeeps.elim ?_ (by assumption))
    | (dsimp only; fail_if_success extract_lets)
    | with_reducible intro _

theorem keeps_releaseHeld (h : Keeps σ s) (c : Fin 9) : Keeps σ (releaseHeld c s) := by
  unfold releaseHeld
  try extract_lets
  repeat' first
    | with_reducible exact h
    | with_reducible assumption
    | with_reducible apply Keeps.modPort
    | with_reducible apply keeps_arrive
    | with_reducible refine Keeps.each ?_ _ (fun _ _ _ => ?_)
    | (with_reducible apply Keeps.any; with_reducible first | exact h | assumption | apply Keeps.modPort | apply keeps_arrive)
    | split
    | extract_lets
    | ((with_reducible conv => arg 2; whnf); first | split | extract_lets)
    | with_reducible intro _

theorem keeps_recvIssue (h : Keeps σ s) (c : Fin 9) (f : Fly) : Keeps σ (recvIssue c f s) := by
  unfold recvIssue
  try extract_lets
  repeat' first
    | with_reducible exact h
    | with_reducible assumption
    | with_reducible apply keeps_refuseAt
    | with_reducible apply keeps_pumpAll
    | with_reducible apply keeps_runLocal
    | with_reducible apply keeps_releaseHeld
    | (with_reducible refine Keeps.modChanSame ?_ _ ?_ ?_; rotate_left; with_reducible rfl; with_reducible rfl)
    | (with_reducible refine Keeps.modChan ?_ _ ?_; rotate_left; focus (intro hw; (repeat' split) <;> first | (refine Chan.wf_same hw ?_ ?_ <;> with_reducible rfl) | (refine Chan.wf_noStakes hw ?_ ?_ <;> with_reducible rfl) | (refine Chan.wf_noMem hw ?_ ?_ <;> with_reducible rfl) | (exact Chan.wf_empty rfl rfl)))
    | (with_reducible apply Keeps.any; with_reducible first | exact h | assumption | apply keeps_refuseAt | apply keeps_pumpAll | apply keeps_runLocal | apply keeps_releaseHeld)
    | split
    | extract_lets
    | (clear_value *; split)
    | ((with_reducible conv => arg 2; whnf); first | split | extract_lets)
    | with_reducible apply SndKeeps.pair
    | with_reducible exact OptKeeps.none
    | with_reducible apply OptKeeps.some
    | (with_reducible refine OptKeeps.elim ?_ (by assumption))
    | (with_reducible refine SndKeeps.elim2 ?_ (by assumption))
    | (with_reducible refine SndKeeps.elim ?_ (by assumption))
    | (dsimp only; fail_if_success extract_lets)
    | with_reducible intro _

theorem keeps_retire (h : Keeps σ s) (c : Fin 9) (p : Fin 6) (fibre : Fin 2) (wave : Fin 5) (rx : Bool) : Keeps σ (retire c p fibre wave rx s) := by
  unfold retire
  try extract_lets
  repeat' first
    | with_reducible exact h
    | with_reducible assumption
    | with_reducible apply Keeps.setField
    | split
    | extract_lets
    | ((with_reducible conv => arg 2; whnf); first | split | extract_lets)
    | with_reducible intro _

theorem keeps_envelope (h : Keeps σ s) (c : Fin 9) (p : Fin 6) (b : List Byte) : Keeps σ (envelope c p b s) := by
  unfold envelope
  try extract_lets
  repeat' first
    | with_reducible exact h
    | with_reducible assumption
    | with_reducible apply Keeps.modPort
    | with_reducible apply keeps_pumpPort
    | split
    | extract_lets
    | ((with_reducible conv => arg 2; whnf); first | split | extract_lets)
    | with_reducible intro _

theorem keeps_partnerLost (h : Keeps σ s) (c : Fin 9) (p : Fin 6) : Keeps σ (partnerLost c p s) := by
  unfold partnerLost
  try extract_lets
  repeat' first
    | with_reducible exact h
    | with_reducible assumption
    | with_reducible apply keeps_endMove
    | with_reducible apply Keeps.modPlat
    | (with_reducible apply Keeps.any; with_reducible first | exact h | assumption | apply keeps_endMove | apply Keeps.modPlat)
    | split
    | extract_lets
    | (clear_value *; split)
    | ((with_reducible conv => arg 2; whnf); first | split | extract_lets)
    | with_reducible apply SndKeeps.pair
    | with_reducible exact OptKeeps.none
    | with_reducible apply OptKeeps.some
    | (with_reducible refine OptKeeps.elim ?_ (by assumption))
    | (with_reducible refine SndKeeps.elim2 ?_ (by assumption))
    | (with_reducible refine SndKeeps.elim ?_ (by assumption))
    | (dsimp only; fail_if_success extract_lets)
    | with_reducible intro _

theorem keeps_dropReceiving (h : Keeps σ s) (c : Fin 9) (p : Fin 6) : Keeps σ (dropReceiving c p s) := by
  unfold dropReceiving
  try extract_lets
  repeat' first
    | with_reducible exact h
    | with_reducible assumption
    | with_reducible apply Keeps.modPlat
    | (with_reducible apply Keeps.any; with_reducible first | exact h | assumption | apply Keeps.modPlat)
    | split
    | extract_lets
    | ((with_reducible conv => arg 2; whnf); first | split | extract_lets)
    | with_reducible intro _

theorem keeps_endPath (h : Keeps σ s) (c : Fin 9) (p : Fin 6) (k : State → State) (hk : ∀  t, Keeps σ t → Keeps σ (k  t)) : Keeps σ (endPath c p k s) := by
  unfold endPath
  try extract_lets
  repeat' first
    | with_reducible exact h
    | with_reducible assumption
    | with_reducible apply hk
    | with_reducible apply keeps_dropReceiving
    | with_reducible apply keeps_startCopy
    | with_reducible apply keeps_copyFail
    | with_reducible apply keeps_abandonFlits
    | with_reducible apply keeps_partnerLost
    | split
    | extract_lets
    | ((with_reducible conv => arg 2; whnf); first | split | extract_lets)
    | with_reducible intro _

theorem keeps_portFault (h : Keeps σ s) (c : Fin 9) (p : Fin 6) (inj : Bool) : Keeps σ (portFault c p inj s) := by
  unfold portFault
  try extract_lets
  repeat' first
    | with_reducible exact h
    | with_reducible assumption
    | with_reducible apply keeps_injectedIf
    | with_reducible apply keeps_endPath
    | with_reducible apply keeps_lastingFence
    | split
    | extract_lets
    | ((with_reducible conv => arg 2; whnf); first | split | extract_lets)
    | with_reducible intro _

theorem keeps_flitBehind (h : Keeps σ s) (c : Fin 9) (p : Fin 6) : Keeps σ (flitBehind c p s) := by
  unfold flitBehind
  try extract_lets
  repeat' first
    | with_reducible exact h
    | with_reducible assumption
    | with_reducible apply Keeps.modPort
    | (with_reducible apply Keeps.any; with_reducible first | exact h | assumption | apply Keeps.modPort)
    | split
    | extract_lets
    | ((with_reducible conv => arg 2; whnf); first | split | extract_lets)
    | with_reducible intro _

theorem keeps_flitFailed (h : Keeps σ s) (c : Fin 9) (p : Fin 6) (b : List Byte) (inj : Bool) : Keeps σ (flitFailed c p b inj s) := by
  unfold flitFailed
  try extract_lets
  repeat' first
    | with_reducible exact h
    | with_reducible assumption
    | with_reducible apply keeps_portFault
    | with_reducible apply keeps_flitBehind
    | with_reducible apply Keeps.modPort
    | with_reducible apply keeps_startLinkMsg
    | (with_reducible apply Keeps.any; with_reducible first | exact h | assumption | apply keeps_portFault | apply keeps_flitBehind | apply Keeps.modPort | apply keeps_startLinkMsg)
    | split
    | extract_lets
    | ((with_reducible conv => arg 2; whnf); first | split | extract_lets)
    | with_reducible intro _

theorem keeps_flitInject (h : Keeps σ s) (c : Fin 9) (p : Fin 6) (b : List Byte) (m : Nat) : Keeps σ (flitInject c p b m s) := by
  unfold flitInject
  try extract_lets
  repeat' first
    | with_reducible exact h
    | with_reducible assumption
    | with_reducible apply keeps_flitFailed
    | with_reducible apply keeps_disarm
    | with_reducible refine Keeps.when ?_ _ (fun _ _ => ?_)
    | split
    | extract_lets
    | ((with_reducible conv => arg 2; whnf); first | split | extract_lets)
    | with_reducible intro _

theorem keeps_finishSwitches (h : Keeps σ s) (c : Fin 9) (p : Fin 6) (ready : WaveSwitch → Bool) : Keeps σ (finishSwitches c p ready s) := by
  unfold finishSwitches
  try extract_lets
  repeat' first
    | with_reducible exact h
    | with_reducible assumption
    | with_reducible apply Keeps.modPort
    | with_reducible apply keeps_cause
    | with_reducible apply keeps_retire
    | with_reducible apply keeps_startLinkMsg
    | with_reducible apply keeps_pumpPort
    | with_reducible refine Keeps.each ?_ _ (fun _ _ _ => ?_)
    | (with_reducible apply Keeps.any; with_reducible first | exact h | assumption | apply Keeps.modPort | apply keeps_cause | apply keeps_retire | apply keeps_startLinkMsg | apply keeps_pumpPort)
    | split
    | extract_lets
    | ((with_reducible conv => arg 2; whnf); first | split | extract_lets)
    | with_reducible intro _

theorem keeps_dueSwitches (h : Keeps σ s) (c : Fin 9) (p : Fin 6) : Keeps σ (dueSwitches c p s) := by
  unfold dueSwitches
  try extract_lets
  repeat' first
    | with_reducible exact h
    | with_reducible assumption
    | with_reducible apply keeps_finishSwitches
    | split
    | extract_lets
    | ((with_reducible conv => arg 2; whnf); first | split | extract_lets)
    | with_reducible intro _

theorem keeps_flitAccept (h : Keeps σ s) (c : Fin 9) (p : Fin 6) (f : Flit) : Keeps σ (flitAccept c p f s) := by
  unfold flitAccept
  try extract_lets
  repeat' first
    | with_reducible exact h
    | with_reducible assumption
    | with_reducible apply Keeps.modPort
    | with_reducible apply keeps_injectedIf
    | with_reducible apply keeps_transientEvent
    | with_reducible apply Keeps.bumpField
    | with_reducible apply keeps_arrive
    | with_reducible apply keeps_dueSwitches
    | with_reducible refine Keeps.when ?_ _ (fun _ _ => ?_)
    | (with_reducible apply Keeps.any; with_reducible first | exact h | assumption | apply Keeps.modPort | apply keeps_injectedIf | apply keeps_transientEvent | apply Keeps.bumpField | apply keeps_arrive | apply keeps_dueSwitches)
    | split
    | extract_lets
    | ((with_reducible conv => arg 2; whnf); first | split | extract_lets)
    | with_reducible intro _

theorem keeps_dataFlit (h : Keeps σ s) (c : Fin 9) (p : Fin 6) (b : List Byte) : Keeps σ (dataFlit c p b s) := by
  unfold dataFlit
  try extract_lets
  repeat' first
    | with_reducible exact h
    | with_reducible assumption
    | with_reducible apply keeps_flitBehind
    | with_reducible apply keeps_flitInject
    | with_reducible apply keeps_flitAccept
    | with_reducible refine Keeps.when ?_ _ (fun _ _ => ?_)
    | split
    | extract_lets
    | (clear_value *; split)
    | ((with_reducible conv => arg 2; whnf); first | split | extract_lets)
    | with_reducible apply SndKeeps.pair
    | with_reducible exact OptKeeps.none
    | with_reducible apply OptKeeps.some
    | (with_reducible refine OptKeeps.elim ?_ (by assumption))
    | (with_reducible refine SndKeeps.elim2 ?_ (by assumption))
    | (with_reducible refine SndKeeps.elim ?_ (by assumption))
    | (dsimp only; fail_if_success extract_lets)
    | with_reducible intro _

theorem keeps_flitReceive (h : Keeps σ s) (c : Fin 9) (p : Fin 6) (b : List Byte) : Keeps σ (flitReceive c p b s) := by
  unfold flitReceive
  try extract_lets
  repeat' first
    | with_reducible exact h
    | with_reducible assumption
    | with_reducible apply keeps_control
    | with_reducible apply keeps_flitBehind
    | with_reducible apply keeps_sendIdle
    | with_reducible apply keeps_flitFailed
    | with_reducible apply keeps_envelope
    | with_reducible apply keeps_dataFlit
    | split
    | extract_lets
    | ((with_reducible conv => arg 2; whnf); first | split | extract_lets)
    | with_reducible intro _

theorem keeps_lightDetected (h : Keeps σ s) (c : Fin 9) (p : Fin 6) : Keeps σ (lightDetected c p s) := by
  unfold lightDetected
  try extract_lets
  repeat' first
    | with_reducible exact h
    | with_reducible assumption
    | exact fun _ k => k
    | with_reducible apply keeps_startLinkMsg
    | with_reducible apply Keeps.modPort
    | with_reducible refine Keeps.each ?_ _ (fun _ _ _ => ?_)
    | (with_reducible apply Keeps.any; with_reducible first | exact h | assumption | apply keeps_startLinkMsg | apply Keeps.modPort)
    | split
    | extract_lets
    | (clear_value *; split)
    | ((with_reducible conv => arg 2; whnf); first | split | extract_lets)
    | with_reducible apply SndKeeps.pair
    | with_reducible exact OptKeeps.none
    | with_reducible apply OptKeeps.some
    | (with_reducible refine OptKeeps.elim ?_ (by assumption))
    | (with_reducible refine SndKeeps.elim2 ?_ (by assumption))
    | (with_reducible refine SndKeeps.elim ?_ (by assumption))
    | (dsimp only; fail_if_success extract_lets)
    | with_reducible intro _

theorem keeps_identReceived (h : Keeps σ s) (c : Fin 9) (p : Fin 6) (m : IdentMsg) : Keeps σ (identReceived c p m s) := by
  unfold identReceived
  try extract_lets
  repeat' first
    | with_reducible exact h
    | with_reducible assumption
    | exact fun _ k => k
    | with_reducible apply keeps_cause
    | with_reducible apply Keeps.setField
    | with_reducible apply keeps_startCopy
    | with_reducible apply keeps_forgetPeer
    | with_reducible apply Keeps.setReg
    | with_reducible apply Keeps.modPort
    | with_reducible apply keeps_startLinkMsg
    | (with_reducible apply Keeps.any; with_reducible first | exact h | assumption | apply keeps_cause | apply Keeps.setField | apply keeps_startCopy | apply keeps_forgetPeer | apply Keeps.setReg | apply Keeps.modPort | apply keeps_startLinkMsg)
    | split
    | extract_lets
    | (clear_value *; split)
    | ((with_reducible conv => arg 2; whnf); first | split | extract_lets)
    | with_reducible apply SndKeeps.pair
    | with_reducible exact OptKeeps.none
    | with_reducible apply OptKeeps.some
    | (with_reducible refine OptKeeps.elim ?_ (by assumption))
    | (with_reducible refine SndKeeps.elim2 ?_ (by assumption))
    | (with_reducible refine SndKeeps.elim ?_ (by assumption))
    | (dsimp only; fail_if_success extract_lets)
    | with_reducible intro _

theorem keeps_creditInit (h : Keeps σ s) (c : Fin 9) (p : Fin 6) (credits : List Nat) : Keeps σ (creditInit c p credits s) := by
  unfold creditInit
  try extract_lets
  repeat' first
    | with_reducible exact h
    | with_reducible assumption
    | with_reducible apply Keeps.modPort
    | with_reducible apply keeps_eventNoNote
    | with_reducible apply keeps_injectedIf
    | with_reducible apply keeps_transientEvent
    | with_reducible apply keeps_pumpPort
    | with_reducible apply OptKeeps.getD
    | with_reducible refine Keeps.when ?_ _ (fun _ _ => ?_)
    | split
    | extract_lets
    | ((with_reducible conv => arg 2; whnf); first | split | extract_lets)
    | with_reducible intro _

theorem keeps_bringupFailed (h : Keeps σ s) (c : Fin 9) (p : Fin 6) : Keeps σ (bringupFailed c p s) := by
  unfold bringupFailed
  try extract_lets
  repeat' first
    | with_reducible exact h
    | with_reducible assumption
    | exact fun _ k => k
    | with_reducible apply keeps_takeInjection
    | with_reducible apply keeps_portFault
    | with_reducible apply Keeps.modPort
    | with_reducible apply keeps_startLinkMsg
    | (with_reducible apply SndKeeps.snd; with_reducible first | apply SndKeeps.draw | apply keeps_takeInjection | apply keeps_portFault | apply keeps_startLinkMsg)
    | (with_reducible apply Keeps.any; with_reducible first | exact h | assumption | apply keeps_takeInjection | apply keeps_portFault | apply Keeps.modPort | apply keeps_startLinkMsg | refine SndKeeps.elim ?_ (by assumption))
    | split
    | extract_lets
    | ((with_reducible conv => arg 2; whnf); first | split | extract_lets)
    | with_reducible apply SndKeeps.pair
    | with_reducible exact OptKeeps.none
    | with_reducible apply OptKeeps.some
    | (with_reducible refine OptKeeps.elim ?_ (by assumption))
    | (with_reducible refine SndKeeps.elim2 ?_ (by assumption))
    | (with_reducible refine SndKeeps.elim ?_ (by assumption))
    | (dsimp only; fail_if_success extract_lets)
    | with_reducible intro _

theorem keeps_creditTotals (h : Keeps σ s) (c : Fin 9) (p : Fin 6) (totals : List H16) : Keeps σ (creditTotals c p totals s) := by
  unfold creditTotals
  try extract_lets
  repeat' first
    | with_reducible exact h
    | with_reducible assumption
    | with_reducible apply Keeps.modPort
    | with_reducible apply keeps_pumpPort
    | with_reducible apply OptKeeps.getD
    | split
    | extract_lets
    | ((with_reducible conv => arg 2; whnf); first | split | extract_lets)
    | with_reducible intro _

theorem keeps_nakReceived (h : Keeps σ s) (c : Fin 9) (p : Fin 6) (seq : BitVec 12) : Keeps σ (nakReceived c p seq s) := by
  unfold nakReceived
  try extract_lets
  repeat' first
    | with_reducible exact h
    | with_reducible assumption
    | with_reducible apply Keeps.modPort
    | (with_reducible apply Keeps.any; with_reducible first | exact h | assumption | apply Keeps.modPort)
    | split
    | extract_lets
    | ((with_reducible conv => arg 2; whnf); first | split | extract_lets)
    | with_reducible intro _

theorem keeps_linkRepeat (h : Keeps σ s) (c : Fin 9) (p : Fin 6) : Keeps σ (linkRepeat c p s) := by
  unfold linkRepeat
  try extract_lets
  repeat' first
    | with_reducible exact h
    | with_reducible assumption
    | with_reducible apply keeps_finishSwitches
    | with_reducible apply keeps_sendLinkMsg
    | with_reducible apply keeps_sendIdle
    | with_reducible apply Keeps.modPort
    | with_reducible refine Keeps.each ?_ _ (fun _ _ _ => ?_)
    | (with_reducible apply Keeps.any; with_reducible first | exact h | assumption | apply keeps_finishSwitches | apply keeps_sendLinkMsg | apply keeps_sendIdle | apply Keeps.modPort)
    | split
    | extract_lets
    | (clear_value *; split)
    | ((with_reducible conv => arg 2; whnf); first | split | extract_lets)
    | with_reducible apply SndKeeps.pair
    | with_reducible exact OptKeeps.none
    | with_reducible apply OptKeeps.some
    | (with_reducible refine OptKeeps.elim ?_ (by assumption))
    | (with_reducible refine SndKeeps.elim2 ?_ (by assumption))
    | (with_reducible refine SndKeeps.elim ?_ (by assumption))
    | (dsimp only; fail_if_success extract_lets)
    | with_reducible intro _

theorem keeps_addSwitch (h : Keeps σ s) (c : Fin 9) (p : Fin 6) (w : WaveSwitch) : Keeps σ (addSwitch c p w s) := by
  unfold addSwitch
  try extract_lets
  repeat' first
    | with_reducible exact h
    | with_reducible assumption
    | with_reducible apply Keeps.modPort
    | (with_reducible apply Keeps.any; with_reducible first | exact h | assumption | apply Keeps.modPort)
    | split
    | extract_lets
    | ((with_reducible conv => arg 2; whnf); first | split | extract_lets)
    | with_reducible intro _

theorem keeps_startRxSwitch (h : Keeps σ s) (c : Fin 9) (p : Fin 6) (fibre : Fin 2) (wave : Fin 5) (lost : Bool) : Keeps σ (startRxSwitch c p fibre wave lost s) := by
  unfold startRxSwitch
  try extract_lets
  repeat' first
    | with_reducible exact h
    | with_reducible assumption
    | with_reducible apply Keeps.modPort
    | with_reducible apply keeps_startLinkMsg
    | with_reducible apply keeps_addSwitch
    | with_reducible apply keeps_portFault
    | (with_reducible apply Keeps.any; with_reducible first | exact h | assumption | apply Keeps.modPort | apply keeps_startLinkMsg | apply keeps_addSwitch | apply keeps_portFault)
    | split
    | extract_lets
    | ((with_reducible conv => arg 2; whnf); first | split | extract_lets)
    | with_reducible intro _

theorem keeps_startTxSwitch (h : Keeps σ s) (c : Fin 9) (p : Fin 6) (fibre : Fin 2) (wave : Fin 5) : Keeps σ (startTxSwitch c p fibre wave s) := by
  unfold startTxSwitch
  try extract_lets
  repeat' first
    | with_reducible exact h
    | with_reducible assumption
    | with_reducible apply keeps_addSwitch
    | with_reducible apply keeps_portFault
    | split
    | extract_lets
    | ((with_reducible conv => arg 2; whnf); first | split | extract_lets)
    | with_reducible intro _

theorem keeps_nameSwitch (h : Keeps σ s) (c : Fin 9) (p : Fin 6) (fibre : Fin 2) (rx : Bool) (at_ : BitVec 12) : Keeps σ (nameSwitch c p fibre rx at_ s) := by
  unfold nameSwitch
  try extract_lets
  repeat' first
    | with_reducible exact h
    | with_reducible assumption
    | with_reducible apply Keeps.modPort
    | (with_reducible apply Keeps.any; with_reducible first | exact h | assumption | apply Keeps.modPort)
    | split
    | extract_lets
    | ((with_reducible conv => arg 2; whnf); first | split | extract_lets)
    | with_reducible intro _

theorem keeps_switchReady (h : Keeps σ s) (c : Fin 9) (p : Fin 6) (fibre : Fin 2) (wave : Fin 5) : Keeps σ (switchReady c p fibre wave s) := by
  unfold switchReady
  try extract_lets
  repeat' first
    | with_reducible exact h
    | with_reducible assumption
    | with_reducible apply keeps_nameSwitch
    | with_reducible apply keeps_startLinkMsg
    | split
    | extract_lets
    | ((with_reducible conv => arg 2; whnf); first | split | extract_lets)
    | with_reducible intro _

theorem keeps_switchAt (h : Keeps σ s) (c : Fin 9) (p : Fin 6) (fibre : Fin 2) (wave : Fin 5) (at_ : BitVec 12) : Keeps σ (switchAt c p fibre wave at_ s) := by
  unfold switchAt
  try extract_lets
  repeat' first
    | with_reducible exact h
    | with_reducible assumption
    | with_reducible apply keeps_addSwitch
    | with_reducible apply keeps_dueSwitches
    | with_reducible apply keeps_nameSwitch
    | split
    | extract_lets
    | ((with_reducible conv => arg 2; whnf); first | split | extract_lets)
    | with_reducible intro _

theorem keeps_holdExpiry (h : Keeps σ s) (c : Fin 9) (p : Fin 6) : Keeps σ (holdExpiry c p s) := by
  unfold holdExpiry
  try extract_lets
  repeat' first
    | with_reducible exact h
    | with_reducible assumption
    | with_reducible apply keeps_endPath
    | with_reducible apply keeps_forgetPeer
    | with_reducible apply Keeps.modPort
    | with_reducible apply keeps_linkCheck
    | (with_reducible apply Keeps.any; with_reducible first | exact h | assumption | apply keeps_endPath | apply keeps_forgetPeer | apply Keeps.modPort | apply keeps_linkCheck)
    | split
    | extract_lets
    | ((with_reducible conv => arg 2; whnf); first | split | extract_lets)
    | with_reducible intro _

theorem keeps_windowWaitExpiry (h : Keeps σ s) (c : Fin 9) (p : Fin 6) : Keeps σ (windowWaitExpiry c p s) := by
  unfold windowWaitExpiry
  try extract_lets
  repeat' first
    | with_reducible exact h
    | with_reducible assumption
    | with_reducible apply Keeps.modPort
    | with_reducible apply keeps_returnCredit
    | with_reducible apply keeps_cause
    | with_reducible apply keeps_discardCount
    | with_reducible apply keeps_releaseHeld
    | (with_reducible apply Keeps.any; with_reducible first | exact h | assumption | apply Keeps.modPort | apply keeps_returnCredit | apply keeps_cause | apply keeps_discardCount | apply keeps_releaseHeld)
    | split
    | extract_lets
    | (clear_value *; split)
    | ((with_reducible conv => arg 2; whnf); first | split | extract_lets)
    | with_reducible apply SndKeeps.pair
    | with_reducible exact OptKeeps.none
    | with_reducible apply OptKeeps.some
    | (with_reducible refine OptKeeps.elim ?_ (by assumption))
    | (with_reducible refine SndKeeps.elim2 ?_ (by assumption))
    | (with_reducible refine SndKeeps.elim ?_ (by assumption))
    | (dsimp only; fail_if_success extract_lets)
    | with_reducible intro _

theorem keeps_forceRx (h : Keeps σ s) (c : Fin 9) (p : Fin 6) (fibres wave : Nat) : Keeps σ (forceRx c p fibres wave s) := by
  unfold forceRx
  try extract_lets
  repeat' first
    | with_reducible exact h
    | with_reducible assumption
    | with_reducible apply keeps_cfgRefused
    | with_reducible apply keeps_startRxSwitch
    | with_reducible refine Keeps.each ?_ _ (fun _ _ _ => ?_)
    | split
    | extract_lets
    | ((with_reducible conv => arg 2; whnf); first | split | extract_lets)
    | with_reducible intro _

end Sys2Proof.Machine
end

