-- ==== Sys2Proof/Laws/KeepsEngine.lean ====
section
/-! SUPPORT. What every operation of Machine/Engine.lean keeps (see Keeps). -/
namespace Sys2Proof.Machine
set_option linter.unusedTactic false
set_option linter.unreachableTactic false
set_option linter.unnecessarySeqFocus false
variable {σ s : State}

theorem keeps_reportCommit (h : Keeps σ s) (c : Fin 9) : Keeps σ (reportCommit c s) := by
  unfold reportCommit
  try extract_lets
  repeat' first
    | with_reducible exact h
    | with_reducible assumption
    | exact fun _ k => k
    | with_reducible apply keeps_enqueueTx
    | with_reducible apply Keeps.modRoute
    | with_reducible apply keeps_modCtx
    | with_reducible apply keeps_commitFly
    | with_reducible apply keeps_modFly
    | with_reducible apply OptKeeps.getD
    | (with_reducible apply Keeps.any; with_reducible first | exact h | assumption | apply keeps_enqueueTx | apply Keeps.modRoute | apply keeps_modCtx | apply keeps_commitFly | apply keeps_modFly)
    | split
    | extract_lets
    | (clear_value *; split)
    | ((with_reducible conv => arg 2; whnf); first | split | extract_lets)
    | with_reducible apply SndKeeps.pair
    | with_reducible exact OptKeeps.none
    | with_reducible apply OptKeeps.some
    | (with_reducible refine OptKeeps.elim ?_ (by assumption))
    | (with_reducible refine SndKeeps.elim2 ?_ (by assumption))
    | (with_reducible refine SndKeeps.elim ?_ (by assumption))
    | (dsimp only; fail_if_success extract_lets)
    | with_reducible intro _

theorem keeps_adopt (h : Keeps σ s) (c : Fin 9) (f : Fly) (x : Fin 4) (plan : List Byte) (received : Bool) (reason : Nat) : Keeps σ (adopt c f x plan received reason s) := by
  unfold adopt
  try extract_lets
  repeat' first
    | with_reducible exact h
    | with_reducible assumption
    | with_reducible apply keeps_readSpans
    | with_reducible apply keeps_emptyPlan
    | with_reducible apply keeps_writeMem
    | with_reducible apply keeps_modCtx
    | with_reducible apply keeps_bookTotal
    | with_reducible apply keeps_cause
    | with_reducible apply Keeps.bumpField
    | with_reducible apply keeps_modFly
    | (with_reducible apply SndKeeps.snd; with_reducible first | apply SndKeeps.draw | apply keeps_readSpans | apply keeps_emptyPlan | apply keeps_writeMem | apply keeps_modCtx | apply keeps_bookTotal | apply keeps_cause | apply keeps_modFly)
    | with_reducible refine Keeps.when ?_ _ (fun _ _ => ?_)
    | (with_reducible apply Keeps.any; with_reducible first | exact h | assumption | apply keeps_readSpans | apply keeps_emptyPlan | apply keeps_writeMem | apply keeps_modCtx | apply keeps_bookTotal | apply keeps_cause | apply Keeps.bumpField | apply keeps_modFly | refine SndKeeps.elim ?_ (by assumption))
    | split
    | extract_lets
    | ((with_reducible conv => arg 2; whnf); first | split | extract_lets)
    | with_reducible apply SndKeeps.pair
    | with_reducible exact OptKeeps.none
    | with_reducible apply OptKeeps.some
    | (with_reducible refine OptKeeps.elim ?_ (by assumption))
    | (with_reducible refine SndKeeps.elim2 ?_ (by assumption))
    | (with_reducible refine SndKeeps.elim ?_ (by assumption))
    | (dsimp only; fail_if_success extract_lets)
    | with_reducible intro _

theorem keeps_commitDispatch (h : Keeps σ s) (c : Fin 9) (f : Fly) : Keeps σ (commitDispatch c f s) := by
  unfold commitDispatch
  try extract_lets
  repeat' first
    | with_reducible exact h
    | with_reducible assumption
    | with_reducible apply keeps_adopt
    | with_reducible apply keeps_endMove
    | with_reducible apply keeps_cause
    | with_reducible apply keeps_emptyPlan
    | split
    | extract_lets
    | ((with_reducible conv => arg 2; whnf); first | split | extract_lets)
    | with_reducible intro _

theorem keeps_commitCollect (h : Keeps σ s) (c : Fin 9) (f : Fly) : Keeps σ (commitCollect c f s) := by
  unfold commitCollect
  try extract_lets
  repeat' first
    | with_reducible exact h
    | with_reducible assumption
    | with_reducible apply keeps_endMove
    | with_reducible apply keeps_readSpans
    | with_reducible apply keeps_modCtx
    | with_reducible apply keeps_bookTotal
    | with_reducible apply keeps_cause
    | with_reducible apply Keeps.bump
    | with_reducible apply keeps_modFly
    | with_reducible refine Keeps.when ?_ _ (fun _ _ => ?_)
    | (with_reducible apply Keeps.any; with_reducible first | exact h | assumption | apply keeps_endMove | apply keeps_readSpans | apply keeps_modCtx | apply keeps_bookTotal | apply keeps_cause | apply Keeps.bump | apply keeps_modFly)
    | split
    | extract_lets
    | ((with_reducible conv => arg 2; whnf); first | split | extract_lets)
    | with_reducible intro _

theorem keeps_commitApply (h : Keeps σ s) (c : Fin 9) : Keeps σ (commitApply c s) := by
  unfold commitApply
  try extract_lets
  repeat' first
    | with_reducible exact h
    | with_reducible assumption
    | with_reducible apply keeps_commitDispatch
    | with_reducible apply keeps_commitCollect
    | with_reducible apply keeps_closeCtx
    | with_reducible apply keeps_modFly
    | (with_reducible apply Keeps.any; with_reducible first | exact h | assumption | apply keeps_commitDispatch | apply keeps_commitCollect | apply keeps_closeCtx | apply keeps_modFly)
    | split
    | extract_lets
    | (clear_value *; split)
    | ((with_reducible conv => arg 2; whnf); first | split | extract_lets)
    | with_reducible apply SndKeeps.pair
    | with_reducible exact OptKeeps.none
    | with_reducible apply OptKeeps.some
    | (with_reducible refine OptKeeps.elim ?_ (by assumption))
    | (with_reducible refine SndKeeps.elim2 ?_ (by assumption))
    | (with_reducible refine SndKeeps.elim ?_ (by assumption))
    | (dsimp only; fail_if_success extract_lets)
    | with_reducible intro _

theorem keeps_completeApply (h : Keeps σ s) (c : Fin 9) (f : Fly) : Keeps σ (completeApply c f s) := by
  unfold completeApply
  try extract_lets
  repeat' first
    | with_reducible exact h
    | with_reducible assumption
    | with_reducible apply keeps_completeFly
    | with_reducible apply keeps_modCtx
    | with_reducible apply keeps_closeCtx
    | (with_reducible apply Keeps.any; with_reducible first | exact h | assumption | apply keeps_completeFly | apply keeps_modCtx | apply keeps_closeCtx)
    | split
    | extract_lets
    | ((with_reducible conv => arg 2; whnf); first | split | extract_lets)
    | with_reducible intro _

theorem keeps_commitRequest (h : Keeps σ s) (c : Fin 9) (u : UnitId) : Keeps σ (commitRequest c u s) := by
  unfold commitRequest
  try extract_lets
  repeat' first
    | with_reducible exact h
    | with_reducible assumption
    | with_reducible apply keeps_goOn
    | with_reducible apply keeps_settle
    | with_reducible apply keeps_commitFly
    | with_reducible apply keeps_feedEnd
    | with_reducible apply keeps_commitApply
    | with_reducible apply keeps_commitSend
    | with_reducible apply keeps_commitReduce
    | with_reducible apply keeps_commitLoan
    | with_reducible apply keeps_commitOffload
    | with_reducible apply keeps_commitPlat
    | split
    | extract_lets
    | (clear_value *; split)
    | ((with_reducible conv => arg 2; whnf); first | split | extract_lets)
    | with_reducible apply SndKeeps.pair
    | with_reducible exact OptKeeps.none
    | with_reducible apply OptKeeps.some
    | (with_reducible refine OptKeeps.elim ?_ (by assumption))
    | (with_reducible refine SndKeeps.elim2 ?_ (by assumption))
    | (with_reducible refine SndKeeps.elim ?_ (by assumption))
    | (dsimp only; fail_if_success extract_lets)
    | with_reducible intro _

theorem keeps_descComplete (h : Keeps σ s) (c : Fin 9) (u : UnitId) : Keeps σ (descComplete c u s) := by
  unfold descComplete
  try extract_lets
  repeat' first
    | with_reducible exact h
    | with_reducible assumption
    | with_reducible apply keeps_finishWork
    | with_reducible apply keeps_completeFly
    | with_reducible apply keeps_completeApply
    | with_reducible apply keeps_completeSend
    | with_reducible apply keeps_completeReduce
    | with_reducible apply keeps_completeLoan
    | with_reducible apply keeps_sweep
    | with_reducible apply keeps_completePlat
    | split
    | extract_lets
    | (clear_value *; split)
    | ((with_reducible conv => arg 2; whnf); first | split | extract_lets)
    | with_reducible apply SndKeeps.pair
    | with_reducible exact OptKeeps.none
    | with_reducible apply OptKeeps.some
    | (with_reducible refine OptKeeps.elim ?_ (by assumption))
    | (with_reducible refine SndKeeps.elim2 ?_ (by assumption))
    | (with_reducible refine SndKeeps.elim ?_ (by assumption))
    | (dsimp only; fail_if_success extract_lets)
    | with_reducible intro _

theorem keeps_closeSample (h : Keeps σ s) (c : Fin 9) (a : Fin 2) (f : Fly) (outcome : Nat) (err : Int) : Keeps σ (closeSample c a f outcome err s) := by
  unfold closeSample
  try extract_lets
  repeat' first
    | with_reducible exact h
    | with_reducible assumption
    | with_reducible apply Keeps.modArray
    | with_reducible apply keeps_modFly
    | with_reducible apply keeps_goOn
    | with_reducible apply keeps_completeFly
    | (with_reducible apply Keeps.any; with_reducible first | exact h | assumption | apply Keeps.modArray | apply keeps_modFly | apply keeps_goOn | apply keeps_completeFly)
    | split
    | extract_lets
    | ((with_reducible conv => arg 2; whnf); first | split | extract_lets)
    | with_reducible intro _

theorem keeps_closureCompare (h : Keeps σ s) (c : Fin 9) (a : Fin 2) : Keeps σ (closureCompare c a s) := by
  unfold closureCompare
  try extract_lets
  repeat' first
    | with_reducible exact h
    | with_reducible assumption
    | with_reducible apply keeps_endMove
    | with_reducible apply keeps_doReads
    | with_reducible apply keeps_bookTotal
    | with_reducible apply keeps_addSample
    | with_reducible apply Keeps.bumpField
    | with_reducible apply keeps_closeSample
    | with_reducible apply keeps_event
    | with_reducible apply Keeps.modArray
    | (with_reducible apply SndKeeps.snd; with_reducible first | apply SndKeeps.draw | apply keeps_endMove | apply keeps_doReads | apply keeps_bookTotal | apply keeps_addSample | apply keeps_closeSample | apply keeps_event)
    | (with_reducible apply Keeps.any; with_reducible first | exact h | assumption | apply keeps_endMove | apply keeps_doReads | apply keeps_bookTotal | apply keeps_addSample | apply Keeps.bumpField | apply keeps_closeSample | apply keeps_event | apply Keeps.modArray | refine SndKeeps.elim ?_ (by assumption))
    | split
    | extract_lets
    | (clear_value *; split)
    | ((with_reducible conv => arg 2; whnf); first | split | extract_lets)
    | with_reducible apply SndKeeps.pair
    | with_reducible exact OptKeeps.none
    | with_reducible apply OptKeeps.some
    | (with_reducible refine OptKeeps.elim ?_ (by assumption))
    | (with_reducible refine SndKeeps.elim2 ?_ (by assumption))
    | (with_reducible refine SndKeeps.elim ?_ (by assumption))
    | (dsimp only; fail_if_success extract_lets)
    | with_reducible intro _

theorem keeps_repeatResult (h : Keeps σ s) (c : Fin 9) (a : Fin 2) (r1EqN r2EqR1 r2EqN : Bool) : Keeps σ (repeatResult c a r1EqN r2EqR1 r2EqN s) := by
  unfold repeatResult
  try extract_lets
  repeat' first
    | with_reducible exact h
    | with_reducible assumption
    | with_reducible apply keeps_closeSample
    | with_reducible apply keeps_bookTotal
    | with_reducible apply keeps_event
    | with_reducible apply keeps_takeInjection
    | with_reducible apply keeps_injectedIf
    | with_reducible apply keeps_transientEvent
    | with_reducible apply keeps_deliverReplies
    | with_reducible apply keeps_drainPort
    | with_reducible apply keeps_storeEff
    | with_reducible apply Keeps.modArray
    | with_reducible apply keeps_lastingFence
    | with_reducible apply keeps_fenceChannel
    | (with_reducible apply SndKeeps.snd; with_reducible first | apply SndKeeps.draw | apply keeps_closeSample | apply keeps_bookTotal | apply keeps_event | apply keeps_takeInjection | apply keeps_injectedIf | apply keeps_transientEvent | apply keeps_deliverReplies | apply keeps_drainPort | apply keeps_storeEff | apply keeps_lastingFence | apply keeps_fenceChannel)
    | with_reducible refine Keeps.each ?_ _ (fun _ _ _ => ?_)
    | (with_reducible apply Keeps.any; with_reducible first | exact h | assumption | apply keeps_closeSample | apply keeps_bookTotal | apply keeps_event | apply keeps_takeInjection | apply keeps_injectedIf | apply keeps_transientEvent | apply keeps_deliverReplies | apply keeps_drainPort | apply keeps_storeEff | apply Keeps.modArray | apply keeps_lastingFence | apply keeps_fenceChannel | refine SndKeeps.elim ?_ (by assumption))
    | split
    | extract_lets
    | (clear_value *; split)
    | ((with_reducible conv => arg 2; whnf); first | split | extract_lets)
    | with_reducible apply SndKeeps.pair
    | with_reducible exact OptKeeps.none
    | with_reducible apply OptKeeps.some
    | (with_reducible refine OptKeeps.elim ?_ (by assumption))
    | (with_reducible refine SndKeeps.elim2 ?_ (by assumption))
    | (with_reducible refine SndKeeps.elim ?_ (by assumption))
    | (dsimp only; fail_if_success extract_lets)
    | with_reducible intro _

theorem keeps_grantArrives (h : Keeps σ s) (c : Fin 9) (a : Fin 2) : Keeps σ (grantArrives c a s) := by
  unfold grantArrives
  try extract_lets
  repeat' first
    | with_reducible exact h
    | with_reducible assumption
    | with_reducible apply Keeps.modArray
    | with_reducible apply keeps_staleReplies
    | with_reducible apply keeps_settle
    | with_reducible apply keeps_goOn
    | with_reducible apply keeps_grantFly
    | (with_reducible apply Keeps.any; with_reducible first | exact h | assumption | apply Keeps.modArray | apply keeps_staleReplies | apply keeps_settle | apply keeps_goOn | apply keeps_grantFly)
    | split
    | extract_lets
    | (clear_value *; split)
    | ((with_reducible conv => arg 2; whnf); first | split | extract_lets)
    | with_reducible apply SndKeeps.pair
    | with_reducible exact OptKeeps.none
    | with_reducible apply OptKeeps.some
    | (with_reducible refine OptKeeps.elim ?_ (by assumption))
    | (with_reducible refine SndKeeps.elim2 ?_ (by assumption))
    | (with_reducible refine SndKeeps.elim ?_ (by assumption))
    | (dsimp only; fail_if_success extract_lets)
    | with_reducible intro _

theorem keeps_rampEnds (h : Keeps σ s) (c : Fin 9) (a : Fin 2) : Keeps σ (rampEnds c a s) := by
  unfold rampEnds
  try extract_lets
  repeat' first
    | with_reducible exact h
    | with_reducible assumption
    | with_reducible apply keeps_takeFill
    | with_reducible apply Keeps.modArray
    | with_reducible apply keeps_rampUp
    | with_reducible apply keeps_settle
    | with_reducible apply keeps_goOn
    | with_reducible apply keeps_openGap
    | with_reducible apply keeps_rampDown
    | with_reducible apply keeps_holdUp
    | (with_reducible apply Keeps.any; with_reducible first | exact h | assumption | apply keeps_takeFill | apply Keeps.modArray | apply keeps_rampUp | apply keeps_settle | apply keeps_goOn | apply keeps_openGap | apply keeps_rampDown | apply keeps_holdUp)
    | split
    | extract_lets
    | (clear_value *; split)
    | ((with_reducible conv => arg 2; whnf); first | split | extract_lets)
    | with_reducible apply SndKeeps.pair
    | with_reducible exact OptKeeps.none
    | with_reducible apply OptKeeps.some
    | (with_reducible refine OptKeeps.elim ?_ (by assumption))
    | (with_reducible refine SndKeeps.elim2 ?_ (by assumption))
    | (with_reducible refine SndKeeps.elim ?_ (by assumption))
    | (dsimp only; fail_if_success extract_lets)
    | with_reducible intro _

end Sys2Proof.Machine
end

