-- ==== Sys2Proof/Laws/KeepsRegWrite.lean ====
section
/-! SUPPORT. What every operation of Machine/RegWrite.lean keeps (see Keeps). -/
namespace Sys2Proof.Machine
set_option linter.unusedTactic false
set_option linter.unreachableTactic false
set_option linter.unnecessarySeqFocus false
variable {σ s : State}

/-- A map that R23 does not refuse is one that R22 allows. -/
theorem mapBad_ok {v : W32} (h : ¬mapBad v s = true) : MapOk v := by
  intro k
  simp only [mapBad, Bool.or_eq_true, not_or, List.any_eq_true, not_exists, not_and, Bool.and_eq_true] at h
  have hk := h.1.1.1 k.val (List.mem_range.mpr k.isLt)
  simp only [ne_eq, decide_eq_true_eq] at hk
  omega

theorem keeps_storedWrite (h : Keeps σ s) (p : Page) (off : Nat) (v : W32) : Keeps σ (storedWrite p off v s) := by
  unfold storedWrite
  try extract_lets
  repeat' first
    | with_reducible exact h
    | with_reducible assumption
    | with_reducible apply Keeps.setReg
    | split
    | extract_lets
    | (clear_value *; split)
    | ((with_reducible conv => arg 2; whnf); first | split | extract_lets)
    | with_reducible apply SndKeeps.pair
    | with_reducible exact OptKeeps.none
    | with_reducible apply OptKeeps.some
    | (with_reducible refine OptKeeps.elim ?_ (by assumption))
    | (with_reducible refine SndKeeps.elim2 ?_ (by assumption))
    | (with_reducible refine SndKeeps.elim ?_ (by assumption))
    | (dsimp only; fail_if_success extract_lets)
    | with_reducible intro _

theorem keeps_storedUnless (h : Keeps σ s) (bad : Bool) (p : Page) (off : Nat) (v : W32) : Keeps σ (storedUnless bad p off v s) := by
  unfold storedUnless
  try extract_lets
  repeat' first
    | with_reducible exact h
    | with_reducible assumption
    | with_reducible apply keeps_cfgRefused
    | with_reducible apply keeps_storedWrite
    | split
    | extract_lets
    | ((with_reducible conv => arg 2; whnf); first | split | extract_lets)
    | with_reducible intro _

theorem keeps_pairWrite (h : Keeps σ s) (path : Path) (p : Page) (off : Nat) (hi : Bool) (v : W32) : Keeps σ (pairWrite path p off hi v s) := by
  unfold pairWrite
  try extract_lets
  repeat' first
    | with_reducible exact h
    | with_reducible assumption
    | with_reducible apply Keeps.setReg
    | (with_reducible apply Keeps.any; with_reducible first | exact h | assumption | apply Keeps.setReg)
    | split
    | extract_lets
    | (clear_value *; split)
    | ((with_reducible conv => arg 2; whnf); first | split | extract_lets)
    | with_reducible apply SndKeeps.pair
    | with_reducible exact OptKeeps.none
    | with_reducible apply OptKeeps.some
    | (with_reducible refine OptKeeps.elim ?_ (by assumption))
    | (with_reducible refine SndKeeps.elim2 ?_ (by assumption))
    | (with_reducible refine SndKeeps.elim ?_ (by assumption))
    | (dsimp only; fail_if_success extract_lets)
    | with_reducible intro _

theorem keeps_errStatWrite (h : Keeps σ s) (p : Page) (v : W32) : Keeps σ (errStatWrite p v s) := by
  unfold errStatWrite
  try extract_lets
  repeat' first
    | with_reducible exact h
    | with_reducible assumption
    | with_reducible apply Keeps.modHdr
    | (with_reducible apply Keeps.any; with_reducible first | exact h | assumption | apply Keeps.modHdr)
    | split
    | extract_lets
    | ((with_reducible conv => arg 2; whnf); first | split | extract_lets)
    | with_reducible intro _

theorem keeps_errInjectWrite (h : Keeps σ s) (p : Page) (v : W32) : Keeps σ (errInjectWrite p v s) := by
  unfold errInjectWrite
  try extract_lets
  repeat' first
    | with_reducible exact h
    | with_reducible assumption
    | with_reducible apply keeps_fireIfReleased
    | with_reducible apply Keeps.modHdr
    | (with_reducible apply Keeps.any; with_reducible first | exact h | assumption | apply keeps_fireIfReleased | apply Keeps.modHdr)
    | split
    | extract_lets
    | ((with_reducible conv => arg 2; whnf); first | split | extract_lets)
    | with_reducible intro _

theorem keeps_blkCtrlWrite (h : Keeps σ s) (path : Path) (p : Page) (v : W32) : Keeps σ (blkCtrlWrite path p v s) := by
  unfold blkCtrlWrite
  try extract_lets
  repeat' first
    | with_reducible exact h
    | with_reducible assumption
    | with_reducible apply keeps_ctrlWrite
    | with_reducible apply keeps_settle
    | with_reducible apply keeps_startCopy
    | with_reducible apply keeps_linkCheck
    | split
    | extract_lets
    | ((with_reducible conv => arg 2; whnf); first | split | extract_lets)
    | with_reducible intro _

theorem keeps_writeHeader (h : Keeps σ s) (path : Path) (p : Page) (off : Nat) (v : W32) : Keeps σ (writeHeader path p off v s) := by
  unfold writeHeader
  try extract_lets
  repeat' first
    | with_reducible exact h
    | with_reducible assumption
    | with_reducible apply keeps_blkCtrlWrite
    | with_reducible apply keeps_errStatWrite
    | with_reducible apply Keeps.modHdr
    | with_reducible apply keeps_errInjectWrite
    | (with_reducible apply Keeps.any; with_reducible first | exact h | assumption | apply keeps_blkCtrlWrite | apply keeps_errStatWrite | apply Keeps.modHdr | apply keeps_errInjectWrite)
    | split
    | extract_lets
    | (clear_value *; split)
    | ((with_reducible conv => arg 2; whnf); first | split | extract_lets)
    | with_reducible apply SndKeeps.pair
    | with_reducible exact OptKeeps.none
    | with_reducible apply OptKeeps.some
    | (with_reducible refine OptKeeps.elim ?_ (by assumption))
    | (with_reducible refine SndKeeps.elim2 ?_ (by assumption))
    | (with_reducible refine SndKeeps.elim ?_ (by assumption))
    | (dsimp only; fail_if_success extract_lets)
    | with_reducible intro _

theorem keeps_freeUnnamed (h : Keeps σ s)  : Keeps σ (freeUnnamed s) := by
  unfold freeUnnamed
  try extract_lets
  repeat' first
    | with_reducible exact h
    | with_reducible assumption
    | with_reducible apply keeps_setRole
    | with_reducible apply keeps_releaseBlock
    | with_reducible refine Keeps.each ?_ _ (fun _ _ _ => ?_)
    | split
    | extract_lets
    | ((with_reducible conv => arg 2; whnf); first | split | extract_lets)
    | with_reducible intro _

theorem keeps_planeMapWrite (h : Keeps σ s) (path : Path) (v : W32) : Keeps σ (planeMapWrite path v s) := by
  unfold planeMapWrite
  try extract_lets
  repeat' first
    | with_reducible exact h
    | with_reducible assumption
    | with_reducible apply keeps_cause
    | with_reducible apply keeps_control
    | with_reducible apply keeps_freeUnnamed
    | with_reducible apply keeps_linkCheck
    | with_reducible refine Keeps.each ?_ _ (fun _ _ _ => ?_)
    | (with_reducible refine Keeps.modSupvMap ?_ ?_; rotate_left; focus with_reducible exact mapBad_ok (by assumption))
    | (with_reducible refine Keeps.modSupv ?_ ?_; rotate_left; focus ((repeat' split) <;> with_reducible rfl))
    | (with_reducible apply Keeps.any; with_reducible first | exact h | assumption | apply keeps_cause | apply keeps_control | apply keeps_freeUnnamed | apply keeps_linkCheck)
    | split
    | extract_lets
    | ((with_reducible conv => arg 2; whnf); first | split | extract_lets)
    | with_reducible intro _

theorem keeps_feedTagWrite (h : Keeps σ s) (v : W32) : Keeps σ (feedTagWrite v s) := by
  unfold feedTagWrite
  try extract_lets
  repeat' first
    | with_reducible exact h
    | with_reducible assumption
    | with_reducible apply keeps_startLinkMsg
    | with_reducible refine Keeps.each ?_ _ (fun _ _ _ => ?_)
    | (with_reducible refine Keeps.modSupv ?_ ?_; rotate_left; focus ((repeat' split) <;> with_reducible rfl))
    | (with_reducible apply Keeps.any; with_reducible first | exact h | assumption | apply keeps_startLinkMsg)
    | split
    | extract_lets
    | ((with_reducible conv => arg 2; whnf); first | split | extract_lets)
    | with_reducible intro _

theorem keeps_recoverWrite (h : Keeps σ s) (mask : Nat) : Keeps σ (recoverWrite mask s) := by
  unfold recoverWrite
  try extract_lets
  repeat' first
    | with_reducible exact h
    | with_reducible assumption
    | with_reducible apply keeps_cfgRefused
    | with_reducible apply keeps_powerDownChan
    | with_reducible refine Keeps.each ?_ _ (fun _ _ _ => ?_)
    | (with_reducible refine Keeps.modSupv ?_ ?_; rotate_left; focus ((repeat' split) <;> with_reducible rfl))
    | (with_reducible apply Keeps.any; with_reducible first | exact h | assumption | apply keeps_cfgRefused | apply keeps_powerDownChan)
    | split
    | extract_lets
    | ((with_reducible conv => arg 2; whnf); first | split | extract_lets)
    | with_reducible intro _

theorem keeps_swapWrite (h : Keeps σ s) (v : W32) : Keeps σ (swapWrite v s) := by
  unfold swapWrite
  try extract_lets
  repeat' first
    | with_reducible exact h
    | with_reducible assumption
    | with_reducible apply keeps_takeover
    | with_reducible apply keeps_cfgRefused
    | split
    | extract_lets
    | ((with_reducible conv => arg 2; whnf); first | split | extract_lets)
    | with_reducible intro _

theorem keeps_supvWrite (h : Keeps σ s) (path : Path) (off : Nat) (v : W32) : Keeps σ (supvWrite path off v s) := by
  unfold supvWrite
  try extract_lets
  repeat' first
    | with_reducible exact h
    | with_reducible assumption
    | with_reducible apply keeps_planeMapWrite
    | with_reducible apply keeps_feedTagWrite
    | with_reducible apply keeps_swapWrite
    | with_reducible apply keeps_recoverWrite
    | split
    | extract_lets
    | (clear_value *; split)
    | ((with_reducible conv => arg 2; whnf); first | split | extract_lets)
    | with_reducible apply SndKeeps.pair
    | with_reducible exact OptKeeps.none
    | with_reducible apply OptKeeps.some
    | (with_reducible refine OptKeeps.elim ?_ (by assumption))
    | (with_reducible refine SndKeeps.elim2 ?_ (by assumption))
    | (with_reducible refine SndKeeps.elim ?_ (by assumption))
    | (dsimp only; fail_if_success extract_lets)
    | with_reducible intro _

theorem keeps_claimGo (h : Keeps σ s) (path : Path) (c : Fin 9) (p : Fin 8) (v : W32) : Keeps σ (claimGo path c p v s) := by
  unfold claimGo
  try extract_lets
  repeat' first
    | with_reducible exact h
    | with_reducible assumption
    | with_reducible apply keeps_recallLoans
    | with_reducible apply keeps_fenceChannel
    | with_reducible apply keeps_releaseBlock
    | with_reducible apply keeps_endReset
    | with_reducible apply keeps_beginReset
    | with_reducible apply keeps_setRole
    | with_reducible apply Keeps.modPlat
    | with_reducible apply keeps_control
    | with_reducible refine Keeps.each ?_ _ (fun _ _ _ => ?_)
    | with_reducible refine Keeps.when ?_ _ (fun _ _ => ?_)
    | (with_reducible refine Keeps.modSupv ?_ ?_; rotate_left; focus ((repeat' split) <;> with_reducible rfl))
    | (with_reducible apply Keeps.any; with_reducible first | exact h | assumption | apply keeps_recallLoans | apply keeps_fenceChannel | apply keeps_releaseBlock | apply keeps_endReset | apply keeps_beginReset | apply keeps_setRole | apply Keeps.modPlat | apply keeps_control)
    | split
    | extract_lets
    | ((with_reducible conv => arg 2; whnf); first | split | extract_lets)
    | with_reducible intro _

theorem keeps_platStatusWrite (h : Keeps σ s) (path : Path) (c : Fin 9) (v : W32) : Keeps σ (platStatusWrite path c v s) := by
  unfold platStatusWrite
  try extract_lets
  repeat' first
    | with_reducible exact h
    | with_reducible assumption
    | with_reducible apply keeps_cfgRefused
    | with_reducible apply keeps_claimGo
    | with_reducible apply keeps_releaseIn
    | with_reducible apply keeps_queueCopies
    | with_reducible refine Keeps.when ?_ _ (fun _ _ => ?_)
    | split
    | extract_lets
    | ((with_reducible conv => arg 2; whnf); first | split | extract_lets)
    | with_reducible intro _

theorem keeps_partnerWrite (h : Keeps σ s) (c : Fin 9) (off : Nat) (v : W32) : Keeps σ (partnerWrite c off v s) := by
  unfold partnerWrite
  try extract_lets
  repeat' first
    | with_reducible exact h
    | with_reducible assumption
    | with_reducible apply keeps_storedUnless
    | split
    | extract_lets
    | ((with_reducible conv => arg 2; whnf); first | split | extract_lets)
    | with_reducible intro _

theorem keeps_domainStatWrite (h : Keeps σ s) (v : W32) : Keeps σ (domainStatWrite v s) := by
  unfold domainStatWrite
  try extract_lets
  repeat' first
    | with_reducible exact h
    | with_reducible assumption
    | (with_reducible refine Keeps.modChanSame ?_ _ ?_ ?_; rotate_left; with_reducible rfl; with_reducible rfl)
    | (with_reducible refine Keeps.modChan ?_ _ ?_; rotate_left; focus (intro hw; (repeat' split) <;> first | (refine Chan.wf_same hw ?_ ?_ <;> with_reducible rfl) | (refine Chan.wf_noStakes hw ?_ ?_ <;> with_reducible rfl) | (refine Chan.wf_noMem hw ?_ ?_ <;> with_reducible rfl) | (exact Chan.wf_empty rfl rfl)))
    | (with_reducible refine Keeps.modSupv ?_ ?_; rotate_left; focus ((repeat' split) <;> with_reducible rfl))
    | (with_reducible apply Keeps.any; with_reducible first | exact h | assumption)
    | split
    | extract_lets
    | ((with_reducible conv => arg 2; whnf); first | split | extract_lets)
    | with_reducible intro _

theorem keeps_clocksWrite (h : Keeps σ s) (off : Nat) (v : W32) : Keeps σ (clocksWrite off v s) := by
  unfold clocksWrite
  try extract_lets
  repeat' first
    | with_reducible exact h
    | with_reducible assumption
    | with_reducible apply keeps_storedUnless
    | with_reducible apply keeps_domainStatWrite
    | split
    | extract_lets
    | (clear_value *; split)
    | ((with_reducible conv => arg 2; whnf); first | split | extract_lets)
    | with_reducible apply SndKeeps.pair
    | with_reducible exact OptKeeps.none
    | with_reducible apply OptKeeps.some
    | (with_reducible refine OptKeeps.elim ?_ (by assumption))
    | (with_reducible refine SndKeeps.elim2 ?_ (by assumption))
    | (with_reducible refine SndKeeps.elim ?_ (by assumption))
    | (dsimp only; fail_if_success extract_lets)
    | with_reducible intro _

theorem keeps_stateReqWrite (h : Keeps σ s) (path : Path) (released : Bool) (v : W32) : Keeps σ (stateReqWrite path released v s) := by
  unfold stateReqWrite
  try extract_lets
  repeat' first
    | with_reducible exact h
    | with_reducible assumption
    | with_reducible apply keeps_cfgRefused
    | with_reducible apply keeps_leakClear
    | with_reducible apply keeps_stateReq
    | with_reducible refine Keeps.when ?_ _ (fun _ _ => ?_)
    | split
    | extract_lets
    | ((with_reducible conv => arg 2; whnf); first | split | extract_lets)
    | with_reducible intro _

theorem keeps_tripSeenWrite (h : Keeps σ s) (v : W32) : Keeps σ (tripSeenWrite v s) := by
  unfold tripSeenWrite
  try extract_lets
  repeat' first
    | with_reducible exact h
    | with_reducible assumption
    | with_reducible apply keeps_releaseAlert
    | with_reducible apply Keeps.modPwr
    | (with_reducible apply Keeps.any; with_reducible first | exact h | assumption | apply keeps_releaseAlert | apply Keeps.modPwr)
    | split
    | extract_lets
    | ((with_reducible conv => arg 2; whnf); first | split | extract_lets)
    | with_reducible intro _

theorem keeps_pwrWrite (h : Keeps σ s) (path : Path) (off : Nat) (v : W32) : Keeps σ (pwrWrite path off v s) := by
  unfold pwrWrite
  try extract_lets
  repeat' first
    | with_reducible exact h
    | with_reducible assumption
    | with_reducible apply keeps_tripSeenWrite
    | with_reducible apply keeps_stateReqWrite
    | (with_reducible apply SndKeeps.snd; with_reducible first | apply SndKeeps.draw | apply keeps_tripSeenWrite | apply keeps_stateReqWrite)
    | with_reducible apply Keeps.draw
    | with_reducible apply SndKeeps.draw
    | split
    | extract_lets
    | (clear_value *; split)
    | ((with_reducible conv => arg 2; whnf); first | split | extract_lets)
    | with_reducible apply SndKeeps.pair
    | with_reducible exact OptKeeps.none
    | with_reducible apply OptKeeps.some
    | (with_reducible refine OptKeeps.elim ?_ (by assumption))
    | (with_reducible refine SndKeeps.elim2 ?_ (by assumption))
    | (with_reducible refine SndKeeps.elim ?_ (by assumption))
    | (dsimp only; fail_if_success extract_lets)
    | with_reducible intro _

theorem keeps_surveyCtrlWrite (h : Keeps σ s) (v : W32) : Keeps σ (surveyCtrlWrite v s) := by
  unfold surveyCtrlWrite
  try extract_lets
  repeat' first
    | with_reducible exact h
    | with_reducible assumption
    | with_reducible apply keeps_cfgRefused
    | with_reducible apply keeps_storedWrite
    | (with_reducible refine Keeps.modSupv ?_ ?_; rotate_left; focus ((repeat' split) <;> with_reducible rfl))
    | (with_reducible apply Keeps.any; with_reducible first | exact h | assumption | apply keeps_cfgRefused | apply keeps_storedWrite)
    | split
    | extract_lets
    | ((with_reducible conv => arg 2; whnf); first | split | extract_lets)
    | with_reducible intro _

theorem keeps_bookClear (h : Keeps σ s) (v : W32) : Keeps σ (bookClear v s) := by
  unfold bookClear
  try extract_lets
  repeat' first
    | with_reducible exact h
    | with_reducible assumption
    | with_reducible apply Keeps.modBook
    | with_reducible apply keeps_cfgRefused
    | (with_reducible apply Keeps.any; with_reducible first | exact h | assumption | apply Keeps.modBook | apply keeps_cfgRefused)
    | split
    | extract_lets
    | ((with_reducible conv => arg 2; whnf); first | split | extract_lets)
    | with_reducible intro _

theorem keeps_fbookWrite (h : Keeps σ s) (path : Path) (off : Nat) (v : W32) : Keeps σ (fbookWrite path off v s) := by
  unfold fbookWrite
  try extract_lets
  repeat' first
    | with_reducible exact h
    | with_reducible assumption
    | with_reducible apply keeps_bookClear
    | with_reducible apply Keeps.setIdx
    | split
    | extract_lets
    | (clear_value *; split)
    | ((with_reducible conv => arg 2; whnf); first | split | extract_lets)
    | with_reducible apply SndKeeps.pair
    | with_reducible exact OptKeeps.none
    | with_reducible apply OptKeeps.some
    | (with_reducible refine OptKeeps.elim ?_ (by assumption))
    | (with_reducible refine SndKeeps.elim2 ?_ (by assumption))
    | (with_reducible refine SndKeeps.elim ?_ (by assumption))
    | (dsimp only; fail_if_success extract_lets)
    | with_reducible intro _

theorem keeps_cairnWrite (h : Keeps σ s) (path : Path) (off : Nat) (v : W32) : Keeps σ (cairnWrite path off v s) := by
  unfold cairnWrite
  try extract_lets
  repeat' first
    | with_reducible exact h
    | with_reducible assumption
    | with_reducible apply keeps_releaseRing
    | with_reducible apply Keeps.setIdx
    | with_reducible apply keeps_cairn
    | with_reducible refine Keeps.each ?_ _ (fun _ _ _ => ?_)
    | split
    | extract_lets
    | (clear_value *; split)
    | ((with_reducible conv => arg 2; whnf); first | split | extract_lets)
    | with_reducible apply SndKeeps.pair
    | with_reducible exact OptKeeps.none
    | with_reducible apply OptKeeps.some
    | (with_reducible refine OptKeeps.elim ?_ (by assumption))
    | (with_reducible refine SndKeeps.elim2 ?_ (by assumption))
    | (with_reducible refine SndKeeps.elim ?_ (by assumption))
    | (dsimp only; fail_if_success extract_lets)
    | with_reducible intro _

theorem keeps_sendPfc (h : Keeps σ s) (k : Fin 2) (quanta : H16) : Keeps σ (sendPfc k quanta s) := by
  unfold sendPfc
  try extract_lets
  repeat' first
    | with_reducible exact h
    | with_reducible assumption
    | with_reducible apply Keeps.bump
    | (with_reducible apply Keeps.any; with_reducible first | exact h | assumption | apply Keeps.bump)
    | split
    | extract_lets
    | ((with_reducible conv => arg 2; whnf); first | split | extract_lets)
    | with_reducible intro _

theorem keeps_observeIngress (h : Keeps σ s) (k : Fin 2) (occ : Nat) : Keeps σ (observeIngress k occ s) := by
  unfold observeIngress
  try extract_lets
  repeat' first
    | with_reducible exact h
    | with_reducible assumption
    | with_reducible apply Keeps.modIcp
    | with_reducible apply keeps_sendPfc
    | (with_reducible apply Keeps.any; with_reducible first | exact h | assumption | apply Keeps.modIcp | apply keeps_sendPfc)
    | split
    | extract_lets
    | ((with_reducible conv => arg 2; whnf); first | split | extract_lets)
    | with_reducible intro _

theorem keeps_flushClass (h : Keeps σ s) (k : Fin 2) : Keeps σ (flushClass k s) := by
  unfold flushClass
  try extract_lets
  repeat' first
    | with_reducible exact h
    | with_reducible assumption
    | with_reducible apply keeps_sendOutq
    | with_reducible apply Keeps.modIcp
    | with_reducible apply keeps_transmit
    | with_reducible refine Keeps.each ?_ _ (fun _ _ _ => ?_)
    | (with_reducible apply Keeps.any; with_reducible first | exact h | assumption | apply keeps_sendOutq | apply Keeps.modIcp | apply keeps_transmit)
    | split
    | extract_lets
    | ((with_reducible conv => arg 2; whnf); first | split | extract_lets)
    | with_reducible intro _

theorem keeps_pfcChanged (h : Keeps σ s)  : Keeps σ (pfcChanged s) := by
  unfold pfcChanged
  try extract_lets
  repeat' first
    | with_reducible exact h
    | with_reducible assumption
    | with_reducible apply keeps_observeIngress
    | with_reducible apply keeps_flushClass
    | with_reducible apply Keeps.modIcp
    | with_reducible refine Keeps.each ?_ _ (fun _ _ _ => ?_)
    | (with_reducible apply Keeps.any; with_reducible first | exact h | assumption | apply keeps_observeIngress | apply keeps_flushClass | apply Keeps.modIcp)
    | split
    | extract_lets
    | ((with_reducible conv => arg 2; whnf); first | split | extract_lets)
    | with_reducible intro _

theorem keeps_hmacWrite (h : Keeps σ s) (off : Nat) (v : W32) : Keeps σ (hmacWrite off v s) := by
  unfold hmacWrite
  try extract_lets
  repeat' first
    | with_reducible exact h
    | with_reducible assumption
    | with_reducible apply keeps_cfgRefused
    | with_reducible apply keeps_storedWrite
    | with_reducible apply keeps_pfcChanged
    | split
    | extract_lets
    | (clear_value *; split)
    | ((with_reducible conv => arg 2; whnf); first | split | extract_lets)
    | with_reducible apply SndKeeps.pair
    | with_reducible exact OptKeeps.none
    | with_reducible apply OptKeeps.some
    | (with_reducible refine OptKeeps.elim ?_ (by assumption))
    | (with_reducible refine SndKeeps.elim2 ?_ (by assumption))
    | (with_reducible refine SndKeeps.elim ?_ (by assumption))
    | (dsimp only; fail_if_success extract_lets)
    | with_reducible intro _

theorem keeps_releaseRecs (h : Keeps σ s) (c : Fin 9) : Keeps σ (releaseRecs c s) := by
  unfold releaseRecs
  try extract_lets
  repeat' first
    | with_reducible exact h
    | with_reducible assumption
    | with_reducible apply keeps_sendCompletions
    | with_reducible refine Keeps.each ?_ _ (fun _ _ _ => ?_)
    | (with_reducible refine Keeps.modChanSame ?_ _ ?_ ?_; rotate_left; with_reducible rfl; with_reducible rfl)
    | (with_reducible refine Keeps.modChan ?_ _ ?_; rotate_left; focus (intro hw; (repeat' split) <;> first | (refine Chan.wf_same hw ?_ ?_ <;> with_reducible rfl) | (refine Chan.wf_noStakes hw ?_ ?_ <;> with_reducible rfl) | (refine Chan.wf_noMem hw ?_ ?_ <;> with_reducible rfl) | (exact Chan.wf_empty rfl rfl)))
    | (with_reducible apply Keeps.any; with_reducible first | exact h | assumption | apply keeps_sendCompletions)
    | split
    | extract_lets
    | ((with_reducible conv => arg 2; whnf); first | split | extract_lets)
    | with_reducible intro _

theorem keeps_releaseHeldOut (h : Keeps σ s)  : Keeps σ (releaseHeldOut s) := by
  unfold releaseHeldOut
  try extract_lets
  repeat' first
    | with_reducible exact h
    | with_reducible assumption
    | with_reducible apply keeps_pump
    | with_reducible apply Keeps.modIcp
    | with_reducible apply keeps_sendEvent
    | with_reducible apply keeps_releaseRecs
    | with_reducible refine Keeps.each ?_ _ (fun _ _ _ => ?_)
    | (with_reducible apply Keeps.any; with_reducible first | exact h | assumption | apply keeps_pump | apply Keeps.modIcp | apply keeps_sendEvent | apply keeps_releaseRecs)
    | split
    | extract_lets
    | ((with_reducible conv => arg 2; whnf); first | split | extract_lets)
    | with_reducible intro _

theorem keeps_hostLostClear (h : Keeps σ s)  : Keeps σ (hostLostClear s) := by
  unfold hostLostClear
  try extract_lets
  repeat' first
    | with_reducible exact h
    | with_reducible assumption
    | with_reducible apply keeps_sendOutq
    | with_reducible apply Keeps.modIcp
    | (with_reducible apply Keeps.any; with_reducible first | exact h | assumption | apply keeps_sendOutq | apply Keeps.modIcp)
    | split
    | extract_lets
    | ((with_reducible conv => arg 2; whnf); first | split | extract_lets)
    | with_reducible intro _

theorem keeps_hostFound (h : Keeps σ s)  : Keeps σ (hostFound s) := by
  unfold hostFound
  try extract_lets
  repeat' first
    | with_reducible exact h
    | with_reducible assumption
    | with_reducible apply keeps_releaseHeldOut
    | with_reducible apply keeps_sendOutq
    | with_reducible apply keeps_releaseRecs
    | with_reducible refine Keeps.each ?_ _ (fun _ _ _ => ?_)
    | split
    | extract_lets
    | ((with_reducible conv => arg 2; whnf); first | split | extract_lets)
    | with_reducible intro _

theorem keeps_icpWrite (h : Keeps σ s) (off : Nat) (v : W32) : Keeps σ (icpWrite off v s) := by
  unfold icpWrite
  try extract_lets
  repeat' first
    | with_reducible exact h
    | with_reducible assumption
    | with_reducible apply keeps_storedWrite
    | with_reducible apply keeps_hostFound
    | with_reducible apply keeps_storedUnless
    | with_reducible apply keeps_sendCompletions
    | with_reducible apply keeps_hostLostClear
    | with_reducible refine Keeps.each ?_ _ (fun _ _ _ => ?_)
    | split
    | extract_lets
    | (clear_value *; split)
    | ((with_reducible conv => arg 2; whnf); first | split | extract_lets)
    | with_reducible apply SndKeeps.pair
    | with_reducible exact OptKeeps.none
    | with_reducible apply OptKeeps.some
    | (with_reducible refine OptKeeps.elim ?_ (by assumption))
    | (with_reducible refine SndKeeps.elim2 ?_ (by assumption))
    | (with_reducible refine SndKeeps.elim ?_ (by assumption))
    | (dsimp only; fail_if_success extract_lets)
    | with_reducible intro _

theorem keeps_recallWrite (h : Keeps σ s) (v : W32) : Keeps σ (recallWrite v s) := by
  unfold recallWrite
  try extract_lets
  repeat' first
    | with_reducible exact h
    | with_reducible assumption
    | exact fun _ k => k
    | with_reducible apply keeps_recallLoans
    | with_reducible apply keeps_cfgRefused
    | (with_reducible apply SndKeeps.snd; with_reducible first | apply SndKeeps.draw | apply keeps_recallLoans | apply keeps_cfgRefused)
    | split
    | extract_lets
    | ((with_reducible conv => arg 2; whnf); first | split | extract_lets)
    | with_reducible intro _

theorem keeps_hubWrite (h : Keeps σ s) (off : Nat) (v : W32) : Keeps σ (hubWrite off v s) := by
  unfold hubWrite
  try extract_lets
  repeat' first
    | with_reducible exact h
    | with_reducible assumption
    | with_reducible apply keeps_portEnWrite
    | with_reducible apply keeps_recallWrite
    | with_reducible apply keeps_storedWrite
    | split
    | extract_lets
    | (clear_value *; split)
    | ((with_reducible conv => arg 2; whnf); first | split | extract_lets)
    | with_reducible apply SndKeeps.pair
    | with_reducible exact OptKeeps.none
    | with_reducible apply OptKeeps.some
    | (with_reducible refine OptKeeps.elim ?_ (by assumption))
    | (with_reducible refine SndKeeps.elim2 ?_ (by assumption))
    | (with_reducible refine SndKeeps.elim ?_ (by assumption))
    | (dsimp only; fail_if_success extract_lets)
    | with_reducible intro _

theorem keeps_seqWrite (h : Keeps σ s) (c : Fin 9) (off : Nat) (v : W32) : Keeps σ (seqWrite c off v s) := by
  unfold seqWrite
  try extract_lets
  repeat' first
    | with_reducible exact h
    | with_reducible assumption
    | with_reducible apply keeps_abortId
    | with_reducible apply keeps_streamCtl
    | with_reducible apply Keeps.setStake
    | with_reducible apply keeps_storedWrite
    | split
    | extract_lets
    | (clear_value *; split)
    | ((with_reducible conv => arg 2; whnf); first | split | extract_lets)
    | with_reducible apply SndKeeps.pair
    | with_reducible exact OptKeeps.none
    | with_reducible apply OptKeeps.some
    | (with_reducible refine OptKeeps.elim ?_ (by assumption))
    | (with_reducible refine SndKeeps.elim2 ?_ (by assumption))
    | (with_reducible refine SndKeeps.elim ?_ (by assumption))
    | (dsimp only; fail_if_success extract_lets)
    | with_reducible intro _

theorem keeps_routeWrite (h : Keeps σ s) (c : Fin 9) (off : Nat) (v : W32) : Keeps σ (routeWrite c off v s) := by
  unfold routeWrite
  try extract_lets
  repeat' first
    | with_reducible exact h
    | with_reducible assumption
    | with_reducible apply keeps_storedUnless
    | split
    | extract_lets
    | (clear_value *; split)
    | ((with_reducible conv => arg 2; whnf); first | split | extract_lets)
    | with_reducible apply SndKeeps.pair
    | with_reducible exact OptKeeps.none
    | with_reducible apply OptKeeps.some
    | (with_reducible refine OptKeeps.elim ?_ (by assumption))
    | (with_reducible refine SndKeeps.elim2 ?_ (by assumption))
    | (with_reducible refine SndKeeps.elim ?_ (by assumption))
    | (dsimp only; fail_if_success extract_lets)
    | with_reducible intro _

theorem keeps_layoutWrite (h : Keeps σ s) (c : Fin 9) (off : Nat) (v : W32) : Keeps σ (layoutWrite c off v s) := by
  unfold layoutWrite
  try extract_lets
  repeat' first
    | with_reducible exact h
    | with_reducible assumption
    | with_reducible apply keeps_allocWrite
    | with_reducible apply keeps_storedWrite
    | split
    | extract_lets
    | (clear_value *; split)
    | ((with_reducible conv => arg 2; whnf); first | split | extract_lets)
    | with_reducible apply SndKeeps.pair
    | with_reducible exact OptKeeps.none
    | with_reducible apply OptKeeps.some
    | (with_reducible refine OptKeeps.elim ?_ (by assumption))
    | (with_reducible refine SndKeeps.elim2 ?_ (by assumption))
    | (with_reducible refine SndKeeps.elim ?_ (by assumption))
    | (dsimp only; fail_if_success extract_lets)
    | with_reducible intro _

theorem keeps_numwWrite (h : Keeps σ s) (c : Fin 9) (off : Nat) (v : W32) : Keeps σ (numwWrite c off v s) := by
  unfold numwWrite
  try extract_lets
  repeat' first
    | with_reducible exact h
    | with_reducible assumption
    | with_reducible apply keeps_storedUnless
    | split
    | extract_lets
    | ((with_reducible conv => arg 2; whnf); first | split | extract_lets)
    | with_reducible intro _

theorem keeps_platWrite (h : Keeps σ s) (path : Path) (c : Fin 9) (off : Nat) (v : W32) : Keeps σ (platWrite path c off v s) := by
  unfold platWrite
  try extract_lets
  repeat' first
    | with_reducible exact h
    | with_reducible assumption
    | with_reducible apply keeps_platStatusWrite
    | with_reducible apply keeps_partnerWrite
    | split
    | extract_lets
    | (clear_value *; split)
    | ((with_reducible conv => arg 2; whnf); first | split | extract_lets)
    | with_reducible apply SndKeeps.pair
    | with_reducible exact OptKeeps.none
    | with_reducible apply OptKeeps.some
    | (with_reducible refine OptKeeps.elim ?_ (by assumption))
    | (with_reducible refine SndKeeps.elim2 ?_ (by assumption))
    | (with_reducible refine SndKeeps.elim ?_ (by assumption))
    | (dsimp only; fail_if_success extract_lets)
    | with_reducible intro _

theorem keeps_travWrite (h : Keeps σ s) (c : Fin 9) (i : Fin 6) (off : Nat) (v : W32) : Keeps σ (travWrite c i off v s) := by
  unfold travWrite
  try extract_lets
  repeat' first
    | with_reducible exact h
    | with_reducible assumption
    | with_reducible apply keeps_forceRx
    | with_reducible apply keeps_storedWrite
    | split
    | extract_lets
    | (clear_value *; split)
    | ((with_reducible conv => arg 2; whnf); first | split | extract_lets)
    | with_reducible apply SndKeeps.pair
    | with_reducible exact OptKeeps.none
    | with_reducible apply OptKeeps.some
    | (with_reducible refine OptKeeps.elim ?_ (by assumption))
    | (with_reducible refine SndKeeps.elim2 ?_ (by assumption))
    | (with_reducible refine SndKeeps.elim ?_ (by assumption))
    | (dsimp only; fail_if_success extract_lets)
    | with_reducible intro _

theorem keeps_stationWrite (h : Keeps σ s) (c : Fin 9) (v : W32) : Keeps σ (stationWrite c v s) := by
  unfold stationWrite
  try extract_lets
  repeat' first
    | with_reducible exact h
    | with_reducible assumption
    | with_reducible apply keeps_cfgRefused
    | with_reducible apply keeps_linkCheck
    | with_reducible apply keeps_storedWrite
    | split
    | extract_lets
    | ((with_reducible conv => arg 2; whnf); first | split | extract_lets)
    | with_reducible intro _

theorem keeps_tableWrite (h : Keeps σ s) (c : Fin 9) (v : W32) : Keeps σ (tableWrite c v s) := by
  unfold tableWrite
  try extract_lets
  repeat' first
    | with_reducible exact h
    | with_reducible assumption
    | with_reducible apply keeps_cfgRefused
    | (with_reducible refine Keeps.modChanSame ?_ _ ?_ ?_; rotate_left; with_reducible rfl; with_reducible rfl)
    | (with_reducible refine Keeps.modChan ?_ _ ?_; rotate_left; focus (intro hw; (repeat' split) <;> first | (refine Chan.wf_same hw ?_ ?_ <;> with_reducible rfl) | (refine Chan.wf_noStakes hw ?_ ?_ <;> with_reducible rfl) | (refine Chan.wf_noMem hw ?_ ?_ <;> with_reducible rfl) | (exact Chan.wf_empty rfl rfl)))
    | (with_reducible apply Keeps.any; with_reducible first | exact h | assumption | apply keeps_cfgRefused)
    | split
    | extract_lets
    | ((with_reducible conv => arg 2; whnf); first | split | extract_lets)
    | with_reducible intro _

theorem keeps_bearingWrite (h : Keeps σ s) (c : Fin 9) (off : Nat) (v : W32) : Keeps σ (bearingWrite c off v s) := by
  unfold bearingWrite
  try extract_lets
  repeat' first
    | with_reducible exact h
    | with_reducible assumption
    | with_reducible apply keeps_stationWrite
    | with_reducible apply keeps_tableWrite
    | with_reducible apply keeps_storedWrite
    | split
    | extract_lets
    | (clear_value *; split)
    | ((with_reducible conv => arg 2; whnf); first | split | extract_lets)
    | with_reducible apply SndKeeps.pair
    | with_reducible exact OptKeeps.none
    | with_reducible apply OptKeeps.some
    | (with_reducible refine OptKeeps.elim ?_ (by assumption))
    | (with_reducible refine SndKeeps.elim2 ?_ (by assumption))
    | (with_reducible refine SndKeeps.elim ?_ (by assumption))
    | (dsimp only; fail_if_success extract_lets)
    | with_reducible intro _

theorem keeps_rampCtrlWrite (h : Keeps σ s) (c : Fin 9) (v : W32) : Keeps σ (rampCtrlWrite c v s) := by
  unfold rampCtrlWrite
  try extract_lets
  repeat' first
    | with_reducible exact h
    | with_reducible assumption
    | exact fun _ k => k
    | with_reducible apply keeps_setPark
    | with_reducible apply Keeps.setField
    | with_reducible apply keeps_rampDown
    | with_reducible apply keeps_holdUp
    | with_reducible refine Keeps.each ?_ _ (fun _ _ _ => ?_)
    | split
    | extract_lets
    | ((with_reducible conv => arg 2; whnf); first | split | extract_lets)
    | with_reducible intro _

theorem keeps_cpwrWrite (h : Keeps σ s) (c : Fin 9) (off : Nat) (v : W32) : Keeps σ (cpwrWrite c off v s) := by
  unfold cpwrWrite
  try extract_lets
  repeat' first
    | with_reducible exact h
    | with_reducible assumption
    | with_reducible apply keeps_storedUnless
    | with_reducible apply keeps_rampCtrlWrite
    | split
    | extract_lets
    | (clear_value *; split)
    | ((with_reducible conv => arg 2; whnf); first | split | extract_lets)
    | with_reducible apply SndKeeps.pair
    | with_reducible exact OptKeeps.none
    | with_reducible apply OptKeeps.some
    | (with_reducible refine OptKeeps.elim ?_ (by assumption))
    | (with_reducible refine SndKeeps.elim2 ?_ (by assumption))
    | (with_reducible refine SndKeeps.elim ?_ (by assumption))
    | (dsimp only; fail_if_success extract_lets)
    | with_reducible intro _

theorem keeps_cclkWrite (h : Keeps σ s) (c : Fin 9) (off : Nat) (v : W32) : Keeps σ (cclkWrite c off v s) := by
  unfold cclkWrite
  try extract_lets
  repeat' first
    | with_reducible exact h
    | with_reducible assumption
    | with_reducible apply keeps_storedUnless
    | with_reducible apply keeps_domainEnWrite
    | split
    | extract_lets
    | (clear_value *; split)
    | ((with_reducible conv => arg 2; whnf); first | split | extract_lets)
    | with_reducible apply SndKeeps.pair
    | with_reducible exact OptKeeps.none
    | with_reducible apply OptKeeps.some
    | (with_reducible refine OptKeeps.elim ?_ (by assumption))
    | (with_reducible refine SndKeeps.elim2 ?_ (by assumption))
    | (with_reducible refine SndKeeps.elim ?_ (by assumption))
    | (dsimp only; fail_if_success extract_lets)
    | with_reducible intro _

theorem keeps_writeSpecific (h : Keeps σ s) (path : Path) (p : Page) (off : Nat) (v : W32) : Keeps σ (writeSpecific path p off v s) := by
  unfold writeSpecific
  try extract_lets
  repeat' first
    | with_reducible exact h
    | with_reducible assumption
    | with_reducible apply keeps_pairWrite
    | with_reducible apply keeps_supvWrite
    | with_reducible apply keeps_clocksWrite
    | with_reducible apply keeps_pwrWrite
    | with_reducible apply keeps_surveyCtrlWrite
    | with_reducible apply keeps_fbookWrite
    | with_reducible apply keeps_cairn
    | with_reducible apply keeps_cairnWrite
    | with_reducible apply keeps_slotCommand
    | with_reducible apply keeps_hmacWrite
    | with_reducible apply keeps_icpWrite
    | with_reducible apply keeps_hubWrite
    | with_reducible apply keeps_seqWrite
    | with_reducible apply keeps_routeWrite
    | with_reducible apply keeps_layoutWrite
    | with_reducible apply keeps_numwWrite
    | with_reducible apply keeps_platWrite
    | with_reducible apply keeps_travWrite
    | with_reducible apply keeps_bearingWrite
    | with_reducible apply keeps_cpwrWrite
    | with_reducible apply keeps_cclkWrite
    | with_reducible apply keeps_storedWrite
    | split
    | extract_lets
    | (clear_value *; split)
    | ((with_reducible conv => arg 2; whnf); first | split | extract_lets)
    | with_reducible apply SndKeeps.pair
    | with_reducible exact OptKeeps.none
    | with_reducible apply OptKeeps.some
    | (with_reducible refine OptKeeps.elim ?_ (by assumption))
    | (with_reducible refine SndKeeps.elim2 ?_ (by assumption))
    | (with_reducible refine SndKeeps.elim ?_ (by assumption))
    | (dsimp only; fail_if_success extract_lets)
    | with_reducible intro _

theorem keeps_writeAccess (h : Keeps σ s) (path : Path) (a : W32) (v : W32) (k : Page → State → State) (hk : ∀ x0 t, Keeps σ t → Keeps σ (k x0 t)) : SndKeeps σ (writeAccess path a v k s) := by
  unfold writeAccess
  try extract_lets
  repeat' first
    | with_reducible exact h
    | with_reducible assumption
    | with_reducible apply hk
    | with_reducible apply keeps_writeHeader
    | with_reducible apply keeps_advance
    | with_reducible apply SndKeeps.pair
    | (with_reducible apply SndKeeps.snd; with_reducible first | apply SndKeeps.draw | apply hk | apply keeps_writeHeader | apply keeps_advance)
    | split
    | extract_lets
    | (clear_value *; split)
    | ((with_reducible conv => arg 2; whnf); first | split | extract_lets)
    | with_reducible exact OptKeeps.none
    | with_reducible apply OptKeeps.some
    | (with_reducible refine OptKeeps.elim ?_ (by assumption))
    | (with_reducible refine SndKeeps.elim2 ?_ (by assumption))
    | (with_reducible refine SndKeeps.elim ?_ (by assumption))
    | (dsimp only; fail_if_success extract_lets)
    | with_reducible intro _

theorem keeps_writeReg (h : Keeps σ s) (path : Path) (a : W32) (v : W32) : SndKeeps σ (writeReg path a v s) := by
  unfold writeReg
  try extract_lets
  repeat' first
    | with_reducible exact h
    | with_reducible assumption
    | with_reducible apply keeps_writeAccess
    | with_reducible apply keeps_writeSpecific
    | with_reducible apply SndKeeps.pair
    | (with_reducible apply SndKeeps.snd; with_reducible first | apply SndKeeps.draw | apply keeps_writeAccess | apply keeps_writeSpecific)
    | split
    | extract_lets
    | ((with_reducible conv => arg 2; whnf); first | split | extract_lets)
    | with_reducible intro _

end Sys2Proof.Machine
end

