-- ==== Sys2Proof/Laws/KeepsRegCmds.lean ====
section
/-! SUPPORT. What every operation of Machine/RegCmds.lean keeps (see Keeps). -/
namespace Sys2Proof.Machine
set_option linter.unusedTactic false
set_option linter.unreachableTactic false
set_option linter.unnecessarySeqFocus false
variable {σ s : State}

theorem keeps_coreForAccess (h : Keeps σ s) (path : Path) : Keeps σ (coreForAccess path s) := by
  unfold coreForAccess
  try extract_lets
  repeat' first
    | with_reducible exact h
    | with_reducible assumption
    | with_reducible apply Keeps.modPwr
    | (with_reducible apply Keeps.any; with_reducible first | exact h | assumption | apply Keeps.modPwr)
    | split
    | extract_lets
    | ((with_reducible conv => arg 2; whnf); first | split | extract_lets)
    | with_reducible intro _

theorem keeps_pathRead (h : Keeps σ s) (path : Path) (a : W32) : SndKeeps σ ((pathRead path a s)).2 := by
  unfold pathRead
  try extract_lets
  repeat' first
    | with_reducible exact h
    | with_reducible assumption
    | with_reducible apply keeps_coreForAccess
    | with_reducible apply keeps_readReg
    | with_reducible apply SndKeeps.pair
    | (with_reducible apply SndKeeps.snd; with_reducible first | apply SndKeeps.draw | apply keeps_coreForAccess | apply keeps_readReg)
    | split
    | extract_lets
    | (clear_value *; split)
    | ((with_reducible conv => arg 2; whnf); first | split | extract_lets)
    | with_reducible exact OptKeeps.none
    | with_reducible apply OptKeeps.some
    | (with_reducible refine OptKeeps.elim ?_ (by assumption))
    | (with_reducible refine SndKeeps.elim2 ?_ (by assumption))
    | (with_reducible refine SndKeeps.elim ?_ (by assumption))
    | (dsimp only; fail_if_success extract_lets)
    | with_reducible intro _

theorem keeps_pathWriteK (h : Keeps σ s) (path : Path) (a : W32) (v : W32) (k : Page → State → State) (hk : ∀ x0 t, Keeps σ t → Keeps σ (k x0 t)) : SndKeeps σ (pathWriteK path a v k s) := by
  unfold pathWriteK
  try extract_lets
  repeat' first
    | with_reducible exact h
    | with_reducible assumption
    | with_reducible apply hk
    | with_reducible apply keeps_coreForAccess
    | with_reducible apply keeps_writeAccess
    | with_reducible apply SndKeeps.pair
    | (with_reducible apply SndKeeps.snd; with_reducible first | apply SndKeeps.draw | apply hk | apply keeps_coreForAccess | apply keeps_writeAccess)
    | split
    | extract_lets
    | (clear_value *; split)
    | ((with_reducible conv => arg 2; whnf); first | split | extract_lets)
    | with_reducible exact OptKeeps.none
    | with_reducible apply OptKeeps.some
    | (with_reducible refine OptKeeps.elim ?_ (by assumption))
    | (with_reducible refine SndKeeps.elim2 ?_ (by assumption))
    | (with_reducible refine SndKeeps.elim ?_ (by assumption))
    | (dsimp only; fail_if_success extract_lets)
    | with_reducible intro _

theorem keeps_pathWrite (h : Keeps σ s) (path : Path) (a : W32) (v : W32) : SndKeeps σ (pathWrite path a v s) := by
  unfold pathWrite
  try extract_lets
  repeat' first
    | with_reducible exact h
    | with_reducible assumption
    | with_reducible apply keeps_pathWriteK
    | with_reducible apply keeps_writeSpecific
    | with_reducible apply SndKeeps.pair
    | (with_reducible apply SndKeeps.snd; with_reducible first | apply SndKeeps.draw | apply keeps_pathWriteK | apply keeps_writeSpecific)
    | split
    | extract_lets
    | ((with_reducible conv => arg 2; whnf); first | split | extract_lets)
    | with_reducible intro _

theorem keeps_failRecovery (h : Keeps σ s) (c : Fin 9) (answers : Bool) : Keeps σ (failRecovery c answers s) := by
  unfold failRecovery
  try extract_lets
  repeat' first
    | with_reducible exact h
    | with_reducible assumption
    | with_reducible apply keeps_ringAdd
    | with_reducible apply keeps_setRole
    | (with_reducible refine Keeps.modChanSame ?_ _ ?_ ?_; rotate_left; with_reducible rfl; with_reducible rfl)
    | (with_reducible refine Keeps.modChan ?_ _ ?_; rotate_left; focus (intro hw; (repeat' split) <;> first | (refine Chan.wf_same hw ?_ ?_ <;> with_reducible rfl) | (refine Chan.wf_noStakes hw ?_ ?_ <;> with_reducible rfl) | (refine Chan.wf_noMem hw ?_ ?_ <;> with_reducible rfl) | (exact Chan.wf_empty rfl rfl)))
    | (with_reducible apply Keeps.any; with_reducible first | exact h | assumption | apply keeps_ringAdd | apply keeps_setRole)
    | split
    | extract_lets
    | ((with_reducible conv => arg 2; whnf); first | split | extract_lets)
    | with_reducible intro _

theorem keeps_sbAnswer (h : Keeps σ s) (st : H16) (v : List Byte) : Keeps σ (sbAnswer st v s) := by
  unfold sbAnswer
  try extract_lets
  repeat' first
    | with_reducible exact h
    | with_reducible assumption
    | with_reducible apply Keeps.modPwr
    | (with_reducible apply Keeps.any; with_reducible first | exact h | assumption | apply Keeps.modPwr)
    | split
    | extract_lets
    | ((with_reducible conv => arg 2; whnf); first | split | extract_lets)
    | with_reducible intro _

theorem keeps_sbPecBad (h : Keeps σ s)  : Keeps σ (sbPecBad s) := by
  unfold sbPecBad
  try extract_lets
  repeat' first
    | with_reducible exact h
    | with_reducible assumption
    | with_reducible apply keeps_sbAnswer
    | with_reducible apply keeps_coreForAccess
    | split
    | extract_lets
    | ((with_reducible conv => arg 2; whnf); first | split | extract_lets)
    | with_reducible intro _

theorem keeps_telemValue (h : Keeps σ s) (q ch inst : Byte) : SndKeeps σ (telemValue q ch inst s) := by
  unfold telemValue
  try extract_lets
  repeat' first
    | with_reducible exact h
    | with_reducible assumption
    | with_reducible apply SndKeeps.pair
    | (with_reducible apply SndKeeps.snd; with_reducible first | apply SndKeeps.draw)
    | with_reducible apply Keeps.draw
    | with_reducible apply SndKeeps.draw
    | split
    | extract_lets
    | (clear_value *; split)
    | ((with_reducible conv => arg 2; whnf); first | split | extract_lets)
    | with_reducible exact OptKeeps.none
    | with_reducible apply OptKeeps.some
    | (with_reducible refine OptKeeps.elim ?_ (by assumption))
    | (with_reducible refine SndKeeps.elim2 ?_ (by assumption))
    | (with_reducible refine SndKeeps.elim ?_ (by assumption))
    | (dsimp only; fail_if_success extract_lets)
    | with_reducible intro _

end Sys2Proof.Machine
end

