-- ==== Sys2Proof/Laws/KeepsHost.lean ====
section
/-! SUPPORT. What every operation of Machine/Host.lean keeps (see Keeps). -/
namespace Sys2Proof.Machine
set_option linter.unusedTactic false
set_option linter.unreachableTactic false
set_option linter.unnecessarySeqFocus false
variable {σ s : State}

theorem keeps_enterWindow (h : Keeps σ s) (f : HostFrame) : Keeps σ (enterWindow f s) := by
  unfold enterWindow
  try extract_lets
  repeat' first
    | with_reducible exact h
    | with_reducible assumption
    | with_reducible apply Keeps.modIcp
    | with_reducible apply Keeps.bump
    | with_reducible apply Keeps.setReg
    | with_reducible apply keeps_takeInjection
    | with_reducible apply keeps_injectedIf
    | with_reducible apply keeps_transientEvent
    | (with_reducible apply SndKeeps.snd; with_reducible first | apply SndKeeps.draw | apply keeps_takeInjection | apply keeps_injectedIf | apply keeps_transientEvent)
    | (with_reducible apply Keeps.any; with_reducible first | exact h | assumption | apply Keeps.modIcp | apply Keeps.bump | apply Keeps.setReg | apply keeps_takeInjection | apply keeps_injectedIf | apply keeps_transientEvent | refine SndKeeps.elim ?_ (by assumption))
    | split
    | extract_lets
    | (clear_value *; split)
    | ((with_reducible conv => arg 2; whnf); first | split | extract_lets)
    | with_reducible apply SndKeeps.pair
    | with_reducible exact OptKeeps.none
    | with_reducible apply OptKeeps.some
    | (with_reducible refine OptKeeps.elim ?_ (by assumption))
    | (with_reducible refine SndKeeps.elim2 ?_ (by assumption))
    | (with_reducible refine SndKeeps.elim ?_ (by assumption))
    | (dsimp only; fail_if_success extract_lets)
    | with_reducible intro _

theorem keeps_keepResponse (h : Keeps σ s) (q : W32) (r : TxFrame) : Keeps σ (keepResponse q r s) := by
  unfold keepResponse
  try extract_lets
  repeat' first
    | with_reducible exact h
    | with_reducible assumption
    | with_reducible apply Keeps.modIcp
    | (with_reducible apply Keeps.any; with_reducible first | exact h | assumption | apply Keeps.modIcp)
    | split
    | extract_lets
    | ((with_reducible conv => arg 2; whnf); first | split | extract_lets)
    | with_reducible intro _

theorem keeps_resend (h : Keeps σ s) (dst : BitVec 48) (r : TxFrame) : Keeps σ (resend dst r s) := by
  unfold resend
  try extract_lets
  repeat' first
    | with_reducible exact h
    | with_reducible assumption
    | with_reducible apply keeps_transmit
    | (with_reducible apply Keeps.any; with_reducible first | exact h | assumption | apply keeps_transmit)
    | split
    | extract_lets
    | ((with_reducible conv => arg 2; whnf); first | split | extract_lets)
    | with_reducible intro _

theorem keeps_sendBusy (h : Keeps σ s) (f : HostFrame) (cls : Fin 2) (detail : Nat) : Keeps σ (sendBusy f cls detail s) := by
  unfold sendBusy
  try extract_lets
  repeat' first
    | with_reducible exact h
    | with_reducible assumption
    | with_reducible apply keeps_transmit
    | with_reducible apply Keeps.bump
    | split
    | extract_lets
    | ((with_reducible conv => arg 2; whnf); first | split | extract_lets)
    | with_reducible intro _

theorem keeps_answerDup (h : Keeps σ s) (typ : Nat) (f : HostFrame) (cls : Fin 2) : Keeps σ (answerDup typ f cls s) := by
  unfold answerDup
  try extract_lets
  repeat' first
    | with_reducible exact h
    | with_reducible assumption
    | with_reducible apply Keeps.bump
    | with_reducible apply keeps_sendBusy
    | with_reducible apply keeps_resend
    | with_reducible apply keeps_transmit
    | (with_reducible apply SndKeeps.snd; with_reducible first | apply SndKeeps.draw | apply keeps_sendBusy | apply keeps_resend | apply keeps_transmit)
    | with_reducible refine Keeps.each ?_ _ (fun _ _ _ => ?_)
    | split
    | extract_lets
    | (clear_value *; split)
    | ((with_reducible conv => arg 2; whnf); first | split | extract_lets)
    | with_reducible apply SndKeeps.pair
    | with_reducible exact OptKeeps.none
    | with_reducible apply OptKeeps.some
    | (with_reducible refine OptKeeps.elim ?_ (by assumption))
    | (with_reducible refine SndKeeps.elim2 ?_ (by assumption))
    | (with_reducible refine SndKeeps.elim ?_ (by assumption))
    | (dsimp only; fail_if_success extract_lets)
    | with_reducible intro _

theorem keeps_probe (h : Keeps σ s) (typ : Nat) (cls : Fin 2) (f : HostFrame) (nak : Option Nak) (act : Act) (hact : ∀ t, Keeps σ t → SndKeeps σ (act t)) : Keeps σ (probe typ cls f nak act s) := by
  unfold probe
  try extract_lets
  repeat' first
    | with_reducible exact h
    | with_reducible assumption
    | with_reducible apply hact
    | with_reducible apply keeps_transmit
    | with_reducible apply keeps_sendBusy
    | (with_reducible apply SndKeeps.snd; with_reducible first | apply SndKeeps.draw | apply hact | apply keeps_transmit | apply keeps_sendBusy)
    | split
    | extract_lets
    | (clear_value *; split)
    | ((with_reducible conv => arg 2; whnf); first | split | extract_lets)
    | with_reducible apply SndKeeps.pair
    | with_reducible exact OptKeeps.none
    | with_reducible apply OptKeeps.some
    | (with_reducible refine OptKeeps.elim ?_ (by assumption))
    | (with_reducible refine SndKeeps.elim2 ?_ (by assumption))
    | (with_reducible refine SndKeeps.elim ?_ (by assumption))
    | (dsimp only; fail_if_success extract_lets)
    | with_reducible intro _

theorem keeps_numbered (h : Keeps σ s) (cls : Fin 2) (f : HostFrame) (nak : Option Nak) (act : Act) (hact : ∀ t, Keeps σ t → SndKeeps σ (act t)) : Keeps σ (numbered cls f nak act s) := by
  unfold numbered
  try extract_lets
  repeat' first
    | with_reducible exact h
    | with_reducible assumption
    | with_reducible apply hact
    | with_reducible apply keeps_sendBusy
    | with_reducible apply keeps_transmit
    | with_reducible apply keeps_keepResponse
    | with_reducible apply keeps_enterWindow
    | (with_reducible apply SndKeeps.snd; with_reducible first | apply SndKeeps.draw | apply hact | apply keeps_sendBusy | apply keeps_transmit | apply keeps_keepResponse | apply keeps_enterWindow)
    | split
    | extract_lets
    | (clear_value *; split)
    | ((with_reducible conv => arg 2; whnf); first | split | extract_lets)
    | with_reducible apply SndKeeps.pair
    | with_reducible exact OptKeeps.none
    | with_reducible apply OptKeeps.some
    | (with_reducible refine OptKeeps.elim ?_ (by assumption))
    | (with_reducible refine SndKeeps.elim2 ?_ (by assumption))
    | (with_reducible refine SndKeeps.elim ?_ (by assumption))
    | (dsimp only; fail_if_success extract_lets)
    | with_reducible intro _

theorem keeps_again (h : Keeps σ s) (cls : Fin 2) (f : HostFrame) (nak : Option Nak) (act : Act) (hact : ∀ t, Keeps σ t → SndKeeps σ (act t)) : Keeps σ (again cls f nak act s) := by
  unfold again
  try extract_lets
  repeat' first
    | with_reducible exact h
    | with_reducible assumption
    | with_reducible apply hact
    | with_reducible apply keeps_sendBusy
    | with_reducible apply keeps_transmit
    | (with_reducible apply SndKeeps.snd; with_reducible first | apply SndKeeps.draw | apply hact | apply keeps_sendBusy | apply keeps_transmit)
    | split
    | extract_lets
    | (clear_value *; split)
    | ((with_reducible conv => arg 2; whnf); first | split | extract_lets)
    | with_reducible apply SndKeeps.pair
    | with_reducible exact OptKeeps.none
    | with_reducible apply OptKeeps.some
    | (with_reducible refine OptKeeps.elim ?_ (by assumption))
    | (with_reducible refine SndKeeps.elim2 ?_ (by assumption))
    | (with_reducible refine SndKeeps.elim ?_ (by assumption))
    | (dsimp only; fail_if_success extract_lets)
    | with_reducible intro _

theorem keeps_arrival (h : Keeps σ s) (typ : Nat) (cls : Fin 2) (f : HostFrame) (nak : Option Nak) (act : Act) (hact : ∀ t, Keeps σ t → SndKeeps σ (act t)) : Keeps σ (arrival typ cls f nak act s) := by
  unfold arrival
  try extract_lets
  repeat' first
    | with_reducible exact h
    | with_reducible assumption
    | with_reducible apply hact
    | with_reducible apply Keeps.bump
    | with_reducible apply keeps_observeIngress
    | with_reducible apply keeps_probe
    | with_reducible apply keeps_again
    | with_reducible apply keeps_answerDup
    | with_reducible apply keeps_numbered
    | split
    | extract_lets
    | (clear_value *; split)
    | ((with_reducible conv => arg 2; whnf); first | split | extract_lets)
    | with_reducible apply SndKeeps.pair
    | with_reducible exact OptKeeps.none
    | with_reducible apply OptKeeps.some
    | (with_reducible refine OptKeeps.elim ?_ (by assumption))
    | (with_reducible refine SndKeeps.elim2 ?_ (by assumption))
    | (with_reducible refine SndKeeps.elim ?_ (by assumption))
    | (dsimp only; fail_if_success extract_lets)
    | with_reducible intro _

theorem keeps_request (h : Keeps σ s) (typ : Nat) (cls : Fin 2) (f : HostFrame) (own : Option Nak) (act : Act) (hact : ∀ t, Keeps σ t → SndKeeps σ (act t)) : Keeps σ (request typ cls f own act s) := by
  unfold request
  try extract_lets
  repeat' first
    | with_reducible exact h
    | with_reducible assumption
    | with_reducible apply hact
    | with_reducible apply keeps_arrival
    | split
    | extract_lets
    | ((with_reducible conv => arg 2; whnf); first | split | extract_lets)
    | with_reducible intro _

theorem keeps_answer (h : Keeps σ s) (r : TxFrame) : SndKeeps σ (answer r s) := by
  unfold answer
  try extract_lets
  repeat' first
    | with_reducible exact h
    | with_reducible assumption
    | with_reducible apply keeps_transmit
    | with_reducible apply SndKeeps.pair
    | (with_reducible apply SndKeeps.snd; with_reducible first | apply SndKeeps.draw | apply keeps_transmit)
    | split
    | extract_lets
    | ((with_reducible conv => arg 2; whnf); first | split | extract_lets)
    | with_reducible intro _

theorem keeps_answerFirst (h : Keeps σ s) (f : TxFrame) (b : State) : SndKeeps σ (answerFirst f b s) := by
  unfold answerFirst
  dsimp only
  split
  · exact keeps_answer h f
  · exact h.any

theorem keeps_hostReset (h : Keeps σ s)  : Keeps σ (hostReset s) := by
  unfold hostReset
  try extract_lets
  repeat' first
    | with_reducible exact h
    | with_reducible assumption
    | with_reducible apply Keeps.bump
    | split
    | extract_lets
    | ((with_reducible conv => arg 2; whnf); first | split | extract_lets)
    | with_reducible intro _

theorem keeps_memWriteAct (h : Keeps σ s) (f : HostFrame) : SndKeeps σ (memWriteAct f s) := by
  unfold memWriteAct
  try extract_lets
  repeat' first
    | with_reducible exact h
    | with_reducible assumption
    | with_reducible apply keeps_answer
    | with_reducible apply keeps_hostReset
    | with_reducible apply keeps_writeMem
    | with_reducible apply Keeps.store
    | with_reducible apply keeps_countGet
    | with_reducible apply keeps_deliverReplies
    | with_reducible apply keeps_drainPort
    | with_reducible apply SndKeeps.pair
    | (with_reducible apply SndKeeps.snd; with_reducible first | apply SndKeeps.draw | apply keeps_answer | apply keeps_hostReset | apply keeps_writeMem | apply keeps_countGet | apply keeps_deliverReplies | apply keeps_drainPort)
    | with_reducible apply Keeps.draw
    | with_reducible apply SndKeeps.draw
    | split
    | extract_lets
    | (clear_value *; split)
    | ((with_reducible conv => arg 2; whnf); first | split | extract_lets)
    | with_reducible exact OptKeeps.none
    | with_reducible apply OptKeeps.some
    | (with_reducible refine OptKeeps.elim ?_ (by assumption))
    | (with_reducible refine SndKeeps.elim2 ?_ (by assumption))
    | (with_reducible refine SndKeeps.elim ?_ (by assumption))
    | (dsimp only; fail_if_success extract_lets)
    | with_reducible intro _

theorem keeps_memReadAct (h : Keeps σ s) (f : HostFrame) (failAt : Option Nat) : SndKeeps σ (memReadAct f failAt s) := by
  unfold memReadAct
  try extract_lets
  repeat' first
    | with_reducible exact h
    | with_reducible assumption
    | with_reducible apply keeps_answer
    | with_reducible apply keeps_readSpans
    | with_reducible apply keeps_transmit
    | with_reducible apply keeps_hostReset
    | with_reducible apply SndKeeps.pair
    | (with_reducible apply SndKeeps.snd; with_reducible first | apply SndKeeps.draw | apply keeps_answer | apply keeps_readSpans | apply keeps_transmit | apply keeps_hostReset)
    | with_reducible refine Keeps.each ?_ _ (fun _ _ _ => ?_)
    | with_reducible refine Keeps.when ?_ _ (fun _ _ => ?_)
    | split
    | extract_lets
    | (clear_value *; split)
    | ((with_reducible conv => arg 2; whnf); first | split | extract_lets)
    | with_reducible exact OptKeeps.none
    | with_reducible apply OptKeeps.some
    | (with_reducible refine OptKeeps.elim ?_ (by assumption))
    | (with_reducible refine SndKeeps.elim2 ?_ (by assumption))
    | (with_reducible refine SndKeeps.elim ?_ (by assumption))
    | (dsimp only; fail_if_success extract_lets)
    | with_reducible intro _

theorem keeps_batchAct (h : Keeps σ s) (f : HostFrame) : SndKeeps σ (batchAct f s) := by
  unfold batchAct
  try extract_lets
  repeat' first
    | with_reducible exact h
    | with_reducible assumption
    | with_reducible apply keeps_answer
    | with_reducible apply keeps_hostReset
    | with_reducible apply Keeps.modStream
    | with_reducible apply keeps_settle
    | with_reducible apply SndKeeps.pair
    | (with_reducible apply SndKeeps.snd; with_reducible first | apply SndKeeps.draw | apply keeps_answer | apply keeps_hostReset | apply keeps_settle)
    | with_reducible refine Keeps.each ?_ _ (fun _ _ _ => ?_)
    | (with_reducible apply Keeps.any; with_reducible first | exact h | assumption | apply keeps_answer | apply keeps_hostReset | apply Keeps.modStream | apply keeps_settle | refine SndKeeps.elim ?_ (by assumption))
    | split
    | extract_lets
    | (clear_value *; split)
    | ((with_reducible conv => arg 2; whnf); first | split | extract_lets)
    | with_reducible exact OptKeeps.none
    | with_reducible apply OptKeeps.some
    | (with_reducible refine OptKeeps.elim ?_ (by assumption))
    | (with_reducible refine SndKeeps.elim2 ?_ (by assumption))
    | (with_reducible refine SndKeeps.elim ?_ (by assumption))
    | (dsimp only; fail_if_success extract_lets)
    | with_reducible intro _

theorem keeps_hostAck (h : Keeps σ s) (a : W32) : Keeps σ (hostAck a s) := by
  unfold hostAck
  try extract_lets
  repeat' first
    | with_reducible exact h
    | with_reducible assumption
    | with_reducible apply keeps_again
    | with_reducible apply keeps_takeInjection
    | with_reducible apply Keeps.modIcp
    | with_reducible apply keeps_transientEvent
    | with_reducible apply keeps_releaseHeldOut
    | with_reducible apply keeps_injectedIf
    | (with_reducible apply SndKeeps.snd; with_reducible first | apply SndKeeps.draw | apply keeps_again | apply keeps_takeInjection | apply keeps_transientEvent | apply keeps_releaseHeldOut | apply keeps_injectedIf)
    | with_reducible refine Keeps.each ?_ _ (fun _ _ _ => ?_)
    | (with_reducible apply Keeps.any; with_reducible first | exact h | assumption | apply keeps_again | apply keeps_takeInjection | apply Keeps.modIcp | apply keeps_transientEvent | apply keeps_releaseHeldOut | apply keeps_injectedIf | refine SndKeeps.elim ?_ (by assumption))
    | split
    | extract_lets
    | ((with_reducible conv => arg 2; whnf); first | split | extract_lets)
    | with_reducible apply SndKeeps.pair
    | with_reducible exact OptKeeps.none
    | with_reducible apply OptKeeps.some
    | (with_reducible refine OptKeeps.elim ?_ (by assumption))
    | (with_reducible refine SndKeeps.elim2 ?_ (by assumption))
    | (with_reducible refine SndKeeps.elim ?_ (by assumption))
    | (dsimp only; fail_if_success extract_lets)
    | with_reducible intro _

theorem keeps_hostLost (h : Keeps σ s) (inj : Bool) : Keeps σ (hostLost inj s) := by
  unfold hostLost
  try extract_lets
  repeat' first
    | with_reducible exact h
    | with_reducible assumption
    | with_reducible apply keeps_lastingEvent
    | with_reducible apply Keeps.modIcp
    | with_reducible apply keeps_injectedCause
    | with_reducible refine Keeps.when ?_ _ (fun _ _ => ?_)
    | (with_reducible apply Keeps.any; with_reducible first | exact h | assumption | apply keeps_lastingEvent | apply Keeps.modIcp | apply keeps_injectedCause)
    | split
    | extract_lets
    | ((with_reducible conv => arg 2; whnf); first | split | extract_lets)
    | with_reducible intro _

theorem keeps_resumeClass (h : Keeps σ s) (k : Fin 2) : Keeps σ (resumeClass k s) := by
  unfold resumeClass
  try extract_lets
  repeat' first
    | with_reducible exact h
    | with_reducible assumption
    | with_reducible apply keeps_flushClass
    | with_reducible apply Keeps.modIcp
    | (with_reducible apply Keeps.any; with_reducible first | exact h | assumption | apply keeps_flushClass | apply Keeps.modIcp)
    | split
    | extract_lets
    | ((with_reducible conv => arg 2; whnf); first | split | extract_lets)
    | with_reducible intro _

end Sys2Proof.Machine
end

