-- ==== Sys2Proof/Laws/KeepsTick.lean ====
section
/-! SUPPORT. What every operation of Machine/Tick.lean keeps (see Keeps). -/
namespace Sys2Proof.Machine
set_option linter.unusedTactic false
set_option linter.unreachableTactic false
set_option linter.unnecessarySeqFocus false
variable {σ s : State}

theorem keeps_memoryCycle (h : Keeps σ s) (c : Fin 9) : Keeps σ (memoryCycle c s) := by
  unfold memoryCycle
  try extract_lets
  repeat' first
    | with_reducible exact h
    | with_reducible assumption
    | with_reducible apply keeps_deliverReplies
    | with_reducible apply keeps_flushHeld
    | with_reducible apply keeps_busCycles
    | split
    | extract_lets
    | ((with_reducible conv => arg 2; whnf); first | split | extract_lets)
    | with_reducible intro _

theorem keeps_tick (h : Keeps σ s) : Keeps σ (tick s) := by
  have k : Keeps σ (s.each allChans memoryCycle) := h.each _ fun c _ k => keeps_memoryCycle k c
  unfold tick
  split
  · with_reducible exact k.any
  · exact h

end Sys2Proof.Machine
end

