-- ==== Sys2Proof/Laws/Regs.lean ====
section
/-! SUPPORT. Register addresses, and what one register access does: the page and offset an address names, the read or write that is performed. -/
namespace Sys2Proof.Machine
theorem pageOf_base : ∀ (b : Blk) (c : Fin 9) (i : Fin 6), (⟨b, c, i⟩ : Page).ok = true → pageOf (w32 (⟨b, c, i⟩ : Page).base) = some ⟨b, c, i⟩ := by
  intro b
  cases b <;> decide +kernel
theorem pageOf_add (n off : Nat) (hn : n % 4096 = 0) (ho : off < 4096) (hl : n < 2 ^ 32) : pageOf (w32 (n + off)) = pageOf (w32 n) := by
  have e : ∀ m : Nat, m < 2 ^ 32 → (w32 m).toNat = m := fun m hm => by rw [w32, BitVec.toNat_ofNat, Nat.mod_eq_of_lt hm]
  unfold pageOf
  simp only [e _ hl, e (n + off) (by omega)]
  have h1 : bitsOf (n + off) 31 28 = bitsOf n 31 28 := by simp only [bitsOf]; omega
  have h2 : bitsOf (n + off) 27 16 = bitsOf n 27 16 := by simp only [bitsOf]; omega
  have h3 : bitsOf (n + off) 15 12 = bitsOf n 15 12 := by simp only [bitsOf]; omega
  simp only [h1, h2, h3]
theorem key_lt : ∀ (b : Blk) (c : Fin 9) (i : Fin 6), (⟨b, c, i⟩ : Page).key < 2 ^ 20 := by
  intro b
  cases b <;> decide +kernel
theorem pageOf_regAddr (p : Page) (off : Nat) (hp : p.ok = true) (ho : off < 4096) : pageOf (regAddr p off) = some p := by
  obtain ⟨b, c, i⟩ := p
  have := key_lt b c i
  unfold regAddr
  rw [pageOf_add _ _ (by simp [Page.base]) ho (by simp only [Page.base]; omega)]
  exact pageOf_base b c i hp
theorem regAddr_off (p : Page) (off : Nat) (ho : off < 4096) : (regAddr p off).toNat % 4096 = off := by
  obtain ⟨b, c, i⟩ := p
  have := key_lt b c i
  simp only [regAddr, w32, BitVec.toNat_ofNat, Page.base]
  omega

variable {path : Path} {s : State} {p : Page} {off : Nat}

theorem coreForAccess_unreachable (path : Path) (s : State) (p : Page) : unreachable (coreForAccess path s) p = unreachable s p := by
  unfold coreForAccess
  split <;> rfl

theorem coreForAccess_domOn (path : Path) (s : State) (p : Page) : (coreForAccess path s).domOn p = s.domOn p := by
  unfold coreForAccess
  split <;> rfl

theorem coreForAccess_fenced (path : Path) (s : State) (p : Page) : (coreForAccess path s).fenced p = s.fenced p := by
  unfold coreForAccess
  split <;> rfl

theorem coreForAccess_icp (s : State) : coreForAccess .icp s = s := rfl

theorem assigned_ge (ha : assigned p.blk off = true) : ¬off < 256 := by
  simp only [assigned, Bool.and_eq_true, decide_eq_true_eq] at ha
  omega

theorem pathRead_ok (h : s.answersOn path p off) (ho : off < 4096) (ha : assigned p.blk off = true) :
    pathRead path (regAddr p off) s =
      (rsOk, (readSpecific path p off (coreForAccess path s)).1, (readSpecific path p off (coreForAccess path s)).2) := by
  obtain ⟨_, hr, hp, hx, hd⟩ := h
  simp only [pathRead, hr, readReg, pageOf_regAddr p off hp ho, regAddr_off p off ho, coreForAccess_unreachable,
    coreForAccess_domOn, hx, hd, ha, assigned_ge ha, if_false, Bool.not_true, Bool.false_eq_true]

/-- A block-specific register that answers is read. -/
theorem readCmd_ok (h : s.answersOn path p off) (ho : off < 4096) (ha : assigned p.blk off = true) :
    readCmd path (regAddr p off) s =
      .next ((readSpecific path p off (coreForAccess path s)).2.answered rsOk (readSpecific path p off (coreForAccess path s)).1) := by
  unfold readCmd
  rw [if_pos h.1, pathRead_ok h ho ha]
  rfl

theorem pathWrite_ok (h : s.takesOn path p off) (ho : off < 4096) (ha : assigned p.blk off = true) (v : W32) :
    pathWrite path (regAddr p off) v s = (rsOk,
      let t := writeSpecific path p off v (coreForAccess path s)
      if indirect p.blk off then advance path p t else t) := by
  obtain ⟨_, hr, hp, hx, hd, hf⟩ := h
  simp only [pathWrite, pathWriteK, hr, writeAccess, pageOf_regAddr p off hp ho, regAddr_off p off ho, coreForAccess_unreachable,
    coreForAccess_domOn, coreForAccess_fenced, hx, hd, hf, ha, assigned_ge ha, if_false, Bool.not_true, Bool.false_eq_true, Bool.false_or]

/-- A block-specific register that takes writes is written. -/
theorem writeCmd_ok (h : s.takesOn path p off) (ho : off < 4096) (ha : assigned p.blk off = true) (v : W32) :
    writeCmd path (regAddr p off) v s =
      .next (State.answered (
        let t := writeSpecific path p off v (coreForAccess path s)
        if indirect p.blk off then advance path p t else t) rsOk 0) := by
  unfold writeCmd
  rw [if_pos h.1, pathWrite_ok h ho ha]
  rfl

/-- Over ICP no aligned address is refused before its page sees it. -/
theorem pathRefuses_icp (reach : Page → Nat → Bool) {a : W32} (h : a.toNat % 4 = 0) : pathRefuses .icp reach a = none := by
  simp [pathRefuses, h]

theorem regAddr_aligned (p : Page) (ho : off < 4096) (h : off % 4 = 0) : (regAddr p off).toNat % 4 = 0 := by
  have := regAddr_off p off ho
  omega

/-- What `answers` says of one register read over ICP. -/
theorem State.answers.on (h : s.answers p) (ho : off < 4096) (h4 : off % 4 = 0) : s.answersOn .icp p off :=
  ⟨h.1.1, pathRefuses_icp _ (regAddr_aligned p ho h4), h.1.2.1, h.1.2.2, h.2⟩

/-- What `takes` says of one register write over ICP. -/
theorem State.takes.on (h : s.takes p) (ho : off < 4096) (h4 : off % 4 = 0) : s.takesOn .icp p off :=
  ⟨h.1.1.1, pathRefuses_icp _ (regAddr_aligned p ho h4), h.1.1.2.1, h.1.1.2.2, h.1.2, by simp [h.2]⟩

/-- A header register is read, whatever the block's fence and its domain. -/
theorem readCmd_header (h : s.headerUp p) (ho : off < 256) (h4 : off % 4 = 0) :
    readCmd .icp (regAddr p off) s = .next ((readHeader p off s).2.answered rsOk (readHeader p off s).1) := by
  have hr : pathRead .icp (regAddr p off) s = (rsOk, (readHeader p off s).1, (readHeader p off s).2) := by
    simp only [pathRead, pathRefuses_icp _ (regAddr_aligned p (by omega : off < 4096) h4), readReg,
      pageOf_regAddr p off h.2.1 (by omega), regAddr_off p off (by omega), coreForAccess_icp, h.2.2, ho, if_true, if_false, Bool.false_eq_true]
  unfold readCmd
  rw [if_pos (show pathUp .icp s = true from h.1), hr]
  rfl

/-- A header register is written, whatever the block's fence and its domain. -/
theorem writeCmd_header (h : s.headerUp p) (ho : off < 256) (h4 : off % 4 = 0) (v : W32) :
    writeCmd .icp (regAddr p off) v s = .next ((writeHeader .icp p off v s).answered rsOk 0) := by
  have hw : pathWrite .icp (regAddr p off) v s = (rsOk, writeHeader .icp p off v s) := by
    simp only [pathWrite, pathWriteK, pathRefuses_icp _ (regAddr_aligned p (by omega : off < 4096) h4), writeAccess,
      pageOf_regAddr p off h.2.1 (by omega), regAddr_off p off (by omega), coreForAccess_icp, h.2.2, ho, if_true, if_false, Bool.false_eq_true]
  unfold writeCmd
  rw [if_pos (show pathUp .icp s = true from h.1), hw]
  rfl

end Sys2Proof.Machine
end

