-- ==== Sys2Proof/Laws/State.lean ====
section
/-! SUPPORT. One lemma for each field of the state and each named update: what the update leaves in the field. -/
namespace Sys2Proof.Machine

variable (s : State)

/-! ### modIcp -/

@[simp] theorem State.modIcp_pending (f : IcpS → IcpS) : (s.modIcp f).pending = s.pending := rfl
@[simp] theorem State.modIcp_refCycles (f : IcpS → IcpS) : (s.modIcp f).refCycles = s.refCycles := rfl
@[simp] theorem State.modIcp_draws (f : IcpS → IcpS) : (s.modIcp f).draws = s.draws := rfl
@[simp] theorem State.modIcp_hdrs (f : IcpS → IcpS) : (s.modIcp f).hdrs = s.hdrs := rfl
@[simp] theorem State.modIcp_regs (f : IcpS → IcpS) : (s.modIcp f).regs = s.regs := rfl
@[simp] theorem State.modIcp_loLatch (f : IcpS → IcpS) : (s.modIcp f).loLatch = s.loLatch := rfl
@[simp] theorem State.modIcp_loHeld (f : IcpS → IcpS) : (s.modIcp f).loHeld = s.loHeld := rfl
@[simp] theorem State.modIcp_regOut (f : IcpS → IcpS) : (s.modIcp f).regOut = s.regOut := rfl
@[simp] theorem State.modIcp_sent (f : IcpS → IcpS) : (s.modIcp f).sent = s.sent := rfl
@[simp] theorem State.modIcp_icp (f : IcpS → IcpS) : (s.modIcp f).icp = f s.icp := rfl
@[simp] theorem State.modIcp_chans (f : IcpS → IcpS) : (s.modIcp f).chans = s.chans := rfl
@[simp] theorem State.modIcp_hub (f : IcpS → IcpS) : (s.modIcp f).hub = s.hub := rfl
@[simp] theorem State.modIcp_rings (f : IcpS → IcpS) : (s.modIcp f).rings = s.rings := rfl
@[simp] theorem State.modIcp_slots (f : IcpS → IcpS) : (s.modIcp f).slots = s.slots := rfl
@[simp] theorem State.modIcp_book (f : IcpS → IcpS) : (s.modIcp f).book = s.book := rfl
@[simp] theorem State.modIcp_sec (f : IcpS → IcpS) : (s.modIcp f).sec = s.sec := rfl
@[simp] theorem State.modIcp_pwr (f : IcpS → IcpS) : (s.modIcp f).pwr = s.pwr := rfl
@[simp] theorem State.modIcp_supv (f : IcpS → IcpS) : (s.modIcp f).supv = s.supv := rfl
@[simp] theorem State.modIcp_chan (f : IcpS → IcpS) (d : Fin 9) : (s.modIcp f).chan d = s.chan d := rfl
@[simp] theorem State.modIcp_hdr (f : IcpS → IcpS) (q : Page) : (s.modIcp f).hdr q = s.hdr q := rfl
@[simp] theorem State.modIcp_reg (f : IcpS → IcpS) (q : Page) (o : Nat) : (s.modIcp f).reg q o = s.reg q o := rfl

/-! ### modHub -/

@[simp] theorem State.modHub_pending (f : HubS → HubS) : (s.modHub f).pending = s.pending := rfl
@[simp] theorem State.modHub_refCycles (f : HubS → HubS) : (s.modHub f).refCycles = s.refCycles := rfl
@[simp] theorem State.modHub_draws (f : HubS → HubS) : (s.modHub f).draws = s.draws := rfl
@[simp] theorem State.modHub_hdrs (f : HubS → HubS) : (s.modHub f).hdrs = s.hdrs := rfl
@[simp] theorem State.modHub_regs (f : HubS → HubS) : (s.modHub f).regs = s.regs := rfl
@[simp] theorem State.modHub_loLatch (f : HubS → HubS) : (s.modHub f).loLatch = s.loLatch := rfl
@[simp] theorem State.modHub_loHeld (f : HubS → HubS) : (s.modHub f).loHeld = s.loHeld := rfl
@[simp] theorem State.modHub_regOut (f : HubS → HubS) : (s.modHub f).regOut = s.regOut := rfl
@[simp] theorem State.modHub_sent (f : HubS → HubS) : (s.modHub f).sent = s.sent := rfl
@[simp] theorem State.modHub_icp (f : HubS → HubS) : (s.modHub f).icp = s.icp := rfl
@[simp] theorem State.modHub_chans (f : HubS → HubS) : (s.modHub f).chans = s.chans := rfl
@[simp] theorem State.modHub_hub (f : HubS → HubS) : (s.modHub f).hub = f s.hub := rfl
@[simp] theorem State.modHub_rings (f : HubS → HubS) : (s.modHub f).rings = s.rings := rfl
@[simp] theorem State.modHub_slots (f : HubS → HubS) : (s.modHub f).slots = s.slots := rfl
@[simp] theorem State.modHub_book (f : HubS → HubS) : (s.modHub f).book = s.book := rfl
@[simp] theorem State.modHub_sec (f : HubS → HubS) : (s.modHub f).sec = s.sec := rfl
@[simp] theorem State.modHub_pwr (f : HubS → HubS) : (s.modHub f).pwr = s.pwr := rfl
@[simp] theorem State.modHub_supv (f : HubS → HubS) : (s.modHub f).supv = s.supv := rfl
@[simp] theorem State.modHub_chan (f : HubS → HubS) (d : Fin 9) : (s.modHub f).chan d = s.chan d := rfl
@[simp] theorem State.modHub_hdr (f : HubS → HubS) (q : Page) : (s.modHub f).hdr q = s.hdr q := rfl
@[simp] theorem State.modHub_reg (f : HubS → HubS) (q : Page) (o : Nat) : (s.modHub f).reg q o = s.reg q o := rfl

/-! ### modPwr -/

@[simp] theorem State.modPwr_pending (f : PwrS → PwrS) : (s.modPwr f).pending = s.pending := rfl
@[simp] theorem State.modPwr_refCycles (f : PwrS → PwrS) : (s.modPwr f).refCycles = s.refCycles := rfl
@[simp] theorem State.modPwr_draws (f : PwrS → PwrS) : (s.modPwr f).draws = s.draws := rfl
@[simp] theorem State.modPwr_hdrs (f : PwrS → PwrS) : (s.modPwr f).hdrs = s.hdrs := rfl
@[simp] theorem State.modPwr_regs (f : PwrS → PwrS) : (s.modPwr f).regs = s.regs := rfl
@[simp] theorem State.modPwr_loLatch (f : PwrS → PwrS) : (s.modPwr f).loLatch = s.loLatch := rfl
@[simp] theorem State.modPwr_loHeld (f : PwrS → PwrS) : (s.modPwr f).loHeld = s.loHeld := rfl
@[simp] theorem State.modPwr_regOut (f : PwrS → PwrS) : (s.modPwr f).regOut = s.regOut := rfl
@[simp] theorem State.modPwr_sent (f : PwrS → PwrS) : (s.modPwr f).sent = s.sent := rfl
@[simp] theorem State.modPwr_icp (f : PwrS → PwrS) : (s.modPwr f).icp = s.icp := rfl
@[simp] theorem State.modPwr_chans (f : PwrS → PwrS) : (s.modPwr f).chans = s.chans := rfl
@[simp] theorem State.modPwr_hub (f : PwrS → PwrS) : (s.modPwr f).hub = s.hub := rfl
@[simp] theorem State.modPwr_rings (f : PwrS → PwrS) : (s.modPwr f).rings = s.rings := rfl
@[simp] theorem State.modPwr_slots (f : PwrS → PwrS) : (s.modPwr f).slots = s.slots := rfl
@[simp] theorem State.modPwr_book (f : PwrS → PwrS) : (s.modPwr f).book = s.book := rfl
@[simp] theorem State.modPwr_sec (f : PwrS → PwrS) : (s.modPwr f).sec = s.sec := rfl
@[simp] theorem State.modPwr_pwr (f : PwrS → PwrS) : (s.modPwr f).pwr = f s.pwr := rfl
@[simp] theorem State.modPwr_supv (f : PwrS → PwrS) : (s.modPwr f).supv = s.supv := rfl
@[simp] theorem State.modPwr_chan (f : PwrS → PwrS) (d : Fin 9) : (s.modPwr f).chan d = s.chan d := rfl
@[simp] theorem State.modPwr_hdr (f : PwrS → PwrS) (q : Page) : (s.modPwr f).hdr q = s.hdr q := rfl
@[simp] theorem State.modPwr_reg (f : PwrS → PwrS) (q : Page) (o : Nat) : (s.modPwr f).reg q o = s.reg q o := rfl

/-! ### modSec -/

@[simp] theorem State.modSec_pending (f : SecS → SecS) : (s.modSec f).pending = s.pending := rfl
@[simp] theorem State.modSec_refCycles (f : SecS → SecS) : (s.modSec f).refCycles = s.refCycles := rfl
@[simp] theorem State.modSec_draws (f : SecS → SecS) : (s.modSec f).draws = s.draws := rfl
@[simp] theorem State.modSec_hdrs (f : SecS → SecS) : (s.modSec f).hdrs = s.hdrs := rfl
@[simp] theorem State.modSec_regs (f : SecS → SecS) : (s.modSec f).regs = s.regs := rfl
@[simp] theorem State.modSec_loLatch (f : SecS → SecS) : (s.modSec f).loLatch = s.loLatch := rfl
@[simp] theorem State.modSec_loHeld (f : SecS → SecS) : (s.modSec f).loHeld = s.loHeld := rfl
@[simp] theorem State.modSec_regOut (f : SecS → SecS) : (s.modSec f).regOut = s.regOut := rfl
@[simp] theorem State.modSec_sent (f : SecS → SecS) : (s.modSec f).sent = s.sent := rfl
@[simp] theorem State.modSec_icp (f : SecS → SecS) : (s.modSec f).icp = s.icp := rfl
@[simp] theorem State.modSec_chans (f : SecS → SecS) : (s.modSec f).chans = s.chans := rfl
@[simp] theorem State.modSec_hub (f : SecS → SecS) : (s.modSec f).hub = s.hub := rfl
@[simp] theorem State.modSec_rings (f : SecS → SecS) : (s.modSec f).rings = s.rings := rfl
@[simp] theorem State.modSec_slots (f : SecS → SecS) : (s.modSec f).slots = s.slots := rfl
@[simp] theorem State.modSec_book (f : SecS → SecS) : (s.modSec f).book = s.book := rfl
@[simp] theorem State.modSec_sec (f : SecS → SecS) : (s.modSec f).sec = f s.sec := rfl
@[simp] theorem State.modSec_pwr (f : SecS → SecS) : (s.modSec f).pwr = s.pwr := rfl
@[simp] theorem State.modSec_supv (f : SecS → SecS) : (s.modSec f).supv = s.supv := rfl
@[simp] theorem State.modSec_chan (f : SecS → SecS) (d : Fin 9) : (s.modSec f).chan d = s.chan d := rfl
@[simp] theorem State.modSec_hdr (f : SecS → SecS) (q : Page) : (s.modSec f).hdr q = s.hdr q := rfl
@[simp] theorem State.modSec_reg (f : SecS → SecS) (q : Page) (o : Nat) : (s.modSec f).reg q o = s.reg q o := rfl

/-! ### modSupv -/

@[simp] theorem State.modSupv_pending (f : SupvS → SupvS) : (s.modSupv f).pending = s.pending := rfl
@[simp] theorem State.modSupv_refCycles (f : SupvS → SupvS) : (s.modSupv f).refCycles = s.refCycles := rfl
@[simp] theorem State.modSupv_draws (f : SupvS → SupvS) : (s.modSupv f).draws = s.draws := rfl
@[simp] theorem State.modSupv_hdrs (f : SupvS → SupvS) : (s.modSupv f).hdrs = s.hdrs := rfl
@[simp] theorem State.modSupv_regs (f : SupvS → SupvS) : (s.modSupv f).regs = s.regs := rfl
@[simp] theorem State.modSupv_loLatch (f : SupvS → SupvS) : (s.modSupv f).loLatch = s.loLatch := rfl
@[simp] theorem State.modSupv_loHeld (f : SupvS → SupvS) : (s.modSupv f).loHeld = s.loHeld := rfl
@[simp] theorem State.modSupv_regOut (f : SupvS → SupvS) : (s.modSupv f).regOut = s.regOut := rfl
@[simp] theorem State.modSupv_sent (f : SupvS → SupvS) : (s.modSupv f).sent = s.sent := rfl
@[simp] theorem State.modSupv_icp (f : SupvS → SupvS) : (s.modSupv f).icp = s.icp := rfl
@[simp] theorem State.modSupv_chans (f : SupvS → SupvS) : (s.modSupv f).chans = s.chans := rfl
@[simp] theorem State.modSupv_hub (f : SupvS → SupvS) : (s.modSupv f).hub = s.hub := rfl
@[simp] theorem State.modSupv_rings (f : SupvS → SupvS) : (s.modSupv f).rings = s.rings := rfl
@[simp] theorem State.modSupv_slots (f : SupvS → SupvS) : (s.modSupv f).slots = s.slots := rfl
@[simp] theorem State.modSupv_book (f : SupvS → SupvS) : (s.modSupv f).book = s.book := rfl
@[simp] theorem State.modSupv_sec (f : SupvS → SupvS) : (s.modSupv f).sec = s.sec := rfl
@[simp] theorem State.modSupv_pwr (f : SupvS → SupvS) : (s.modSupv f).pwr = s.pwr := rfl
@[simp] theorem State.modSupv_supv (f : SupvS → SupvS) : (s.modSupv f).supv = f s.supv := rfl
@[simp] theorem State.modSupv_chan (f : SupvS → SupvS) (d : Fin 9) : (s.modSupv f).chan d = s.chan d := rfl
@[simp] theorem State.modSupv_hdr (f : SupvS → SupvS) (q : Page) : (s.modSupv f).hdr q = s.hdr q := rfl
@[simp] theorem State.modSupv_reg (f : SupvS → SupvS) (q : Page) (o : Nat) : (s.modSupv f).reg q o = s.reg q o := rfl

/-! ### modBook -/

@[simp] theorem State.modBook_pending (f : BookS → BookS) : (s.modBook f).pending = s.pending := rfl
@[simp] theorem State.modBook_refCycles (f : BookS → BookS) : (s.modBook f).refCycles = s.refCycles := rfl
@[simp] theorem State.modBook_draws (f : BookS → BookS) : (s.modBook f).draws = s.draws := rfl
@[simp] theorem State.modBook_hdrs (f : BookS → BookS) : (s.modBook f).hdrs = s.hdrs := rfl
@[simp] theorem State.modBook_regs (f : BookS → BookS) : (s.modBook f).regs = s.regs := rfl
@[simp] theorem State.modBook_loLatch (f : BookS → BookS) : (s.modBook f).loLatch = s.loLatch := rfl
@[simp] theorem State.modBook_loHeld (f : BookS → BookS) : (s.modBook f).loHeld = s.loHeld := rfl
@[simp] theorem State.modBook_regOut (f : BookS → BookS) : (s.modBook f).regOut = s.regOut := rfl
@[simp] theorem State.modBook_sent (f : BookS → BookS) : (s.modBook f).sent = s.sent := rfl
@[simp] theorem State.modBook_icp (f : BookS → BookS) : (s.modBook f).icp = s.icp := rfl
@[simp] theorem State.modBook_chans (f : BookS → BookS) : (s.modBook f).chans = s.chans := rfl
@[simp] theorem State.modBook_hub (f : BookS → BookS) : (s.modBook f).hub = s.hub := rfl
@[simp] theorem State.modBook_rings (f : BookS → BookS) : (s.modBook f).rings = s.rings := rfl
@[simp] theorem State.modBook_slots (f : BookS → BookS) : (s.modBook f).slots = s.slots := rfl
@[simp] theorem State.modBook_book (f : BookS → BookS) : (s.modBook f).book = f s.book := rfl
@[simp] theorem State.modBook_sec (f : BookS → BookS) : (s.modBook f).sec = s.sec := rfl
@[simp] theorem State.modBook_pwr (f : BookS → BookS) : (s.modBook f).pwr = s.pwr := rfl
@[simp] theorem State.modBook_supv (f : BookS → BookS) : (s.modBook f).supv = s.supv := rfl
@[simp] theorem State.modBook_chan (f : BookS → BookS) (d : Fin 9) : (s.modBook f).chan d = s.chan d := rfl
@[simp] theorem State.modBook_hdr (f : BookS → BookS) (q : Page) : (s.modBook f).hdr q = s.hdr q := rfl
@[simp] theorem State.modBook_reg (f : BookS → BookS) (q : Page) (o : Nat) : (s.modBook f).reg q o = s.reg q o := rfl

/-! ### modRing -/

@[simp] theorem State.modRing_pending (i : Fin 10) (f : Ring → Ring) : (s.modRing i f).pending = s.pending := rfl
@[simp] theorem State.modRing_refCycles (i : Fin 10) (f : Ring → Ring) : (s.modRing i f).refCycles = s.refCycles := rfl
@[simp] theorem State.modRing_draws (i : Fin 10) (f : Ring → Ring) : (s.modRing i f).draws = s.draws := rfl
@[simp] theorem State.modRing_hdrs (i : Fin 10) (f : Ring → Ring) : (s.modRing i f).hdrs = s.hdrs := rfl
@[simp] theorem State.modRing_regs (i : Fin 10) (f : Ring → Ring) : (s.modRing i f).regs = s.regs := rfl
@[simp] theorem State.modRing_loLatch (i : Fin 10) (f : Ring → Ring) : (s.modRing i f).loLatch = s.loLatch := rfl
@[simp] theorem State.modRing_loHeld (i : Fin 10) (f : Ring → Ring) : (s.modRing i f).loHeld = s.loHeld := rfl
@[simp] theorem State.modRing_regOut (i : Fin 10) (f : Ring → Ring) : (s.modRing i f).regOut = s.regOut := rfl
@[simp] theorem State.modRing_sent (i : Fin 10) (f : Ring → Ring) : (s.modRing i f).sent = s.sent := rfl
@[simp] theorem State.modRing_icp (i : Fin 10) (f : Ring → Ring) : (s.modRing i f).icp = s.icp := rfl
@[simp] theorem State.modRing_chans (i : Fin 10) (f : Ring → Ring) : (s.modRing i f).chans = s.chans := rfl
@[simp] theorem State.modRing_hub (i : Fin 10) (f : Ring → Ring) : (s.modRing i f).hub = s.hub := rfl
@[simp] theorem State.modRing_slots (i : Fin 10) (f : Ring → Ring) : (s.modRing i f).slots = s.slots := rfl
@[simp] theorem State.modRing_book (i : Fin 10) (f : Ring → Ring) : (s.modRing i f).book = s.book := rfl
@[simp] theorem State.modRing_sec (i : Fin 10) (f : Ring → Ring) : (s.modRing i f).sec = s.sec := rfl
@[simp] theorem State.modRing_pwr (i : Fin 10) (f : Ring → Ring) : (s.modRing i f).pwr = s.pwr := rfl
@[simp] theorem State.modRing_supv (i : Fin 10) (f : Ring → Ring) : (s.modRing i f).supv = s.supv := rfl
@[simp] theorem State.modRing_chan (i : Fin 10) (f : Ring → Ring) (d : Fin 9) : (s.modRing i f).chan d = s.chan d := rfl
@[simp] theorem State.modRing_hdr (i : Fin 10) (f : Ring → Ring) (q : Page) : (s.modRing i f).hdr q = s.hdr q := rfl
@[simp] theorem State.modRing_reg (i : Fin 10) (f : Ring → Ring) (q : Page) (o : Nat) : (s.modRing i f).reg q o = s.reg q o := rfl

/-! ### modChan -/

@[simp] theorem State.modChan_pending (c : Fin 9) (f : Chan → Chan) : (s.modChan c f).pending = s.pending := rfl
@[simp] theorem State.modChan_refCycles (c : Fin 9) (f : Chan → Chan) : (s.modChan c f).refCycles = s.refCycles := rfl
@[simp] theorem State.modChan_draws (c : Fin 9) (f : Chan → Chan) : (s.modChan c f).draws = s.draws := rfl
@[simp] theorem State.modChan_hdrs (c : Fin 9) (f : Chan → Chan) : (s.modChan c f).hdrs = s.hdrs := rfl
@[simp] theorem State.modChan_regs (c : Fin 9) (f : Chan → Chan) : (s.modChan c f).regs = s.regs := rfl
@[simp] theorem State.modChan_loLatch (c : Fin 9) (f : Chan → Chan) : (s.modChan c f).loLatch = s.loLatch := rfl
@[simp] theorem State.modChan_loHeld (c : Fin 9) (f : Chan → Chan) : (s.modChan c f).loHeld = s.loHeld := rfl
@[simp] theorem State.modChan_regOut (c : Fin 9) (f : Chan → Chan) : (s.modChan c f).regOut = s.regOut := rfl
@[simp] theorem State.modChan_sent (c : Fin 9) (f : Chan → Chan) : (s.modChan c f).sent = s.sent := rfl
@[simp] theorem State.modChan_icp (c : Fin 9) (f : Chan → Chan) : (s.modChan c f).icp = s.icp := rfl
@[simp] theorem State.modChan_hub (c : Fin 9) (f : Chan → Chan) : (s.modChan c f).hub = s.hub := rfl
@[simp] theorem State.modChan_rings (c : Fin 9) (f : Chan → Chan) : (s.modChan c f).rings = s.rings := rfl
@[simp] theorem State.modChan_slots (c : Fin 9) (f : Chan → Chan) : (s.modChan c f).slots = s.slots := rfl
@[simp] theorem State.modChan_book (c : Fin 9) (f : Chan → Chan) : (s.modChan c f).book = s.book := rfl
@[simp] theorem State.modChan_sec (c : Fin 9) (f : Chan → Chan) : (s.modChan c f).sec = s.sec := rfl
@[simp] theorem State.modChan_pwr (c : Fin 9) (f : Chan → Chan) : (s.modChan c f).pwr = s.pwr := rfl
@[simp] theorem State.modChan_supv (c : Fin 9) (f : Chan → Chan) : (s.modChan c f).supv = s.supv := rfl
@[simp] theorem State.modChan_hdr (c : Fin 9) (f : Chan → Chan) (q : Page) : (s.modChan c f).hdr q = s.hdr q := rfl
@[simp] theorem State.modChan_reg (c : Fin 9) (f : Chan → Chan) (q : Page) (o : Nat) : (s.modChan c f).reg q o = s.reg q o := rfl

/-! ### mapChans -/

@[simp] theorem State.mapChans_pending (f : Fin 9 → Chan → Chan) : (s.mapChans f).pending = s.pending := rfl
@[simp] theorem State.mapChans_refCycles (f : Fin 9 → Chan → Chan) : (s.mapChans f).refCycles = s.refCycles := rfl
@[simp] theorem State.mapChans_draws (f : Fin 9 → Chan → Chan) : (s.mapChans f).draws = s.draws := rfl
@[simp] theorem State.mapChans_hdrs (f : Fin 9 → Chan → Chan) : (s.mapChans f).hdrs = s.hdrs := rfl
@[simp] theorem State.mapChans_regs (f : Fin 9 → Chan → Chan) : (s.mapChans f).regs = s.regs := rfl
@[simp] theorem State.mapChans_loLatch (f : Fin 9 → Chan → Chan) : (s.mapChans f).loLatch = s.loLatch := rfl
@[simp] theorem State.mapChans_loHeld (f : Fin 9 → Chan → Chan) : (s.mapChans f).loHeld = s.loHeld := rfl
@[simp] theorem State.mapChans_regOut (f : Fin 9 → Chan → Chan) : (s.mapChans f).regOut = s.regOut := rfl
@[simp] theorem State.mapChans_sent (f : Fin 9 → Chan → Chan) : (s.mapChans f).sent = s.sent := rfl
@[simp] theorem State.mapChans_icp (f : Fin 9 → Chan → Chan) : (s.mapChans f).icp = s.icp := rfl
@[simp] theorem State.mapChans_hub (f : Fin 9 → Chan → Chan) : (s.mapChans f).hub = s.hub := rfl
@[simp] theorem State.mapChans_rings (f : Fin 9 → Chan → Chan) : (s.mapChans f).rings = s.rings := rfl
@[simp] theorem State.mapChans_slots (f : Fin 9 → Chan → Chan) : (s.mapChans f).slots = s.slots := rfl
@[simp] theorem State.mapChans_book (f : Fin 9 → Chan → Chan) : (s.mapChans f).book = s.book := rfl
@[simp] theorem State.mapChans_sec (f : Fin 9 → Chan → Chan) : (s.mapChans f).sec = s.sec := rfl
@[simp] theorem State.mapChans_pwr (f : Fin 9 → Chan → Chan) : (s.mapChans f).pwr = s.pwr := rfl
@[simp] theorem State.mapChans_supv (f : Fin 9 → Chan → Chan) : (s.mapChans f).supv = s.supv := rfl
@[simp] theorem State.mapChans_hdr (f : Fin 9 → Chan → Chan) (q : Page) : (s.mapChans f).hdr q = s.hdr q := rfl
@[simp] theorem State.mapChans_reg (f : Fin 9 → Chan → Chan) (q : Page) (o : Nat) : (s.mapChans f).reg q o = s.reg q o := rfl

/-! ### modHdr -/

@[simp] theorem State.modHdr_pending (p : Page) (f : Hdr → Hdr) : (s.modHdr p f).pending = s.pending := rfl
@[simp] theorem State.modHdr_refCycles (p : Page) (f : Hdr → Hdr) : (s.modHdr p f).refCycles = s.refCycles := rfl
@[simp] theorem State.modHdr_draws (p : Page) (f : Hdr → Hdr) : (s.modHdr p f).draws = s.draws := rfl
@[simp] theorem State.modHdr_regs (p : Page) (f : Hdr → Hdr) : (s.modHdr p f).regs = s.regs := rfl
@[simp] theorem State.modHdr_loLatch (p : Page) (f : Hdr → Hdr) : (s.modHdr p f).loLatch = s.loLatch := rfl
@[simp] theorem State.modHdr_loHeld (p : Page) (f : Hdr → Hdr) : (s.modHdr p f).loHeld = s.loHeld := rfl
@[simp] theorem State.modHdr_regOut (p : Page) (f : Hdr → Hdr) : (s.modHdr p f).regOut = s.regOut := rfl
@[simp] theorem State.modHdr_sent (p : Page) (f : Hdr → Hdr) : (s.modHdr p f).sent = s.sent := rfl
@[simp] theorem State.modHdr_icp (p : Page) (f : Hdr → Hdr) : (s.modHdr p f).icp = s.icp := rfl
@[simp] theorem State.modHdr_chans (p : Page) (f : Hdr → Hdr) : (s.modHdr p f).chans = s.chans := rfl
@[simp] theorem State.modHdr_hub (p : Page) (f : Hdr → Hdr) : (s.modHdr p f).hub = s.hub := rfl
@[simp] theorem State.modHdr_rings (p : Page) (f : Hdr → Hdr) : (s.modHdr p f).rings = s.rings := rfl
@[simp] theorem State.modHdr_slots (p : Page) (f : Hdr → Hdr) : (s.modHdr p f).slots = s.slots := rfl
@[simp] theorem State.modHdr_book (p : Page) (f : Hdr → Hdr) : (s.modHdr p f).book = s.book := rfl
@[simp] theorem State.modHdr_sec (p : Page) (f : Hdr → Hdr) : (s.modHdr p f).sec = s.sec := rfl
@[simp] theorem State.modHdr_pwr (p : Page) (f : Hdr → Hdr) : (s.modHdr p f).pwr = s.pwr := rfl
@[simp] theorem State.modHdr_supv (p : Page) (f : Hdr → Hdr) : (s.modHdr p f).supv = s.supv := rfl
@[simp] theorem State.modHdr_chan (p : Page) (f : Hdr → Hdr) (d : Fin 9) : (s.modHdr p f).chan d = s.chan d := rfl
@[simp] theorem State.modHdr_reg (p : Page) (f : Hdr → Hdr) (q : Page) (o : Nat) : (s.modHdr p f).reg q o = s.reg q o := rfl

/-! ### setRegAt -/

@[simp] theorem State.setRegAt_pending (a : Nat) (v : W32) : (s.setRegAt a v).pending = s.pending := rfl
@[simp] theorem State.setRegAt_refCycles (a : Nat) (v : W32) : (s.setRegAt a v).refCycles = s.refCycles := rfl
@[simp] theorem State.setRegAt_draws (a : Nat) (v : W32) : (s.setRegAt a v).draws = s.draws := rfl
@[simp] theorem State.setRegAt_hdrs (a : Nat) (v : W32) : (s.setRegAt a v).hdrs = s.hdrs := rfl
@[simp] theorem State.setRegAt_loLatch (a : Nat) (v : W32) : (s.setRegAt a v).loLatch = s.loLatch := rfl
@[simp] theorem State.setRegAt_loHeld (a : Nat) (v : W32) : (s.setRegAt a v).loHeld = s.loHeld := rfl
@[simp] theorem State.setRegAt_regOut (a : Nat) (v : W32) : (s.setRegAt a v).regOut = s.regOut := rfl
@[simp] theorem State.setRegAt_sent (a : Nat) (v : W32) : (s.setRegAt a v).sent = s.sent := rfl
@[simp] theorem State.setRegAt_icp (a : Nat) (v : W32) : (s.setRegAt a v).icp = s.icp := rfl
@[simp] theorem State.setRegAt_chans (a : Nat) (v : W32) : (s.setRegAt a v).chans = s.chans := rfl
@[simp] theorem State.setRegAt_hub (a : Nat) (v : W32) : (s.setRegAt a v).hub = s.hub := rfl
@[simp] theorem State.setRegAt_rings (a : Nat) (v : W32) : (s.setRegAt a v).rings = s.rings := rfl
@[simp] theorem State.setRegAt_slots (a : Nat) (v : W32) : (s.setRegAt a v).slots = s.slots := rfl
@[simp] theorem State.setRegAt_book (a : Nat) (v : W32) : (s.setRegAt a v).book = s.book := rfl
@[simp] theorem State.setRegAt_sec (a : Nat) (v : W32) : (s.setRegAt a v).sec = s.sec := rfl
@[simp] theorem State.setRegAt_pwr (a : Nat) (v : W32) : (s.setRegAt a v).pwr = s.pwr := rfl
@[simp] theorem State.setRegAt_supv (a : Nat) (v : W32) : (s.setRegAt a v).supv = s.supv := rfl
@[simp] theorem State.setRegAt_chan (a : Nat) (v : W32) (d : Fin 9) : (s.setRegAt a v).chan d = s.chan d := rfl
@[simp] theorem State.setRegAt_hdr (a : Nat) (v : W32) (q : Page) : (s.setRegAt a v).hdr q = s.hdr q := rfl

/-! ### answered -/

@[simp] theorem State.answered_pending (st : H16) (v : W32) : (s.answered st v).pending = s.pending := rfl
@[simp] theorem State.answered_refCycles (st : H16) (v : W32) : (s.answered st v).refCycles = s.refCycles := rfl
@[simp] theorem State.answered_draws (st : H16) (v : W32) : (s.answered st v).draws = s.draws := rfl
@[simp] theorem State.answered_hdrs (st : H16) (v : W32) : (s.answered st v).hdrs = s.hdrs := rfl
@[simp] theorem State.answered_regs (st : H16) (v : W32) : (s.answered st v).regs = s.regs := rfl
@[simp] theorem State.answered_loLatch (st : H16) (v : W32) : (s.answered st v).loLatch = s.loLatch := rfl
@[simp] theorem State.answered_loHeld (st : H16) (v : W32) : (s.answered st v).loHeld = s.loHeld := rfl
@[simp] theorem State.answered_regOut (st : H16) (v : W32) : (s.answered st v).regOut = some (st, v) := rfl
@[simp] theorem State.answered_sent (st : H16) (v : W32) : (s.answered st v).sent = s.sent := rfl
@[simp] theorem State.answered_icp (st : H16) (v : W32) : (s.answered st v).icp = s.icp := rfl
@[simp] theorem State.answered_chans (st : H16) (v : W32) : (s.answered st v).chans = s.chans := rfl
@[simp] theorem State.answered_hub (st : H16) (v : W32) : (s.answered st v).hub = s.hub := rfl
@[simp] theorem State.answered_rings (st : H16) (v : W32) : (s.answered st v).rings = s.rings := rfl
@[simp] theorem State.answered_slots (st : H16) (v : W32) : (s.answered st v).slots = s.slots := rfl
@[simp] theorem State.answered_book (st : H16) (v : W32) : (s.answered st v).book = s.book := rfl
@[simp] theorem State.answered_sec (st : H16) (v : W32) : (s.answered st v).sec = s.sec := rfl
@[simp] theorem State.answered_pwr (st : H16) (v : W32) : (s.answered st v).pwr = s.pwr := rfl
@[simp] theorem State.answered_supv (st : H16) (v : W32) : (s.answered st v).supv = s.supv := rfl
@[simp] theorem State.answered_chan (st : H16) (v : W32) (d : Fin 9) : (s.answered st v).chan d = s.chan d := rfl
@[simp] theorem State.answered_hdr (st : H16) (v : W32) (q : Page) : (s.answered st v).hdr q = s.hdr q := rfl
@[simp] theorem State.answered_reg (st : H16) (v : W32) (q : Page) (o : Nat) : (s.answered st v).reg q o = s.reg q o := rfl

/-! ### modPort -/

@[simp] theorem State.modPort_pending (c : Fin 9) (p : Fin 6) (f : Port → Port) : (s.modPort c p f).pending = s.pending := rfl
@[simp] theorem State.modPort_refCycles (c : Fin 9) (p : Fin 6) (f : Port → Port) : (s.modPort c p f).refCycles = s.refCycles := rfl
@[simp] theorem State.modPort_draws (c : Fin 9) (p : Fin 6) (f : Port → Port) : (s.modPort c p f).draws = s.draws := rfl
@[simp] theorem State.modPort_hdrs (c : Fin 9) (p : Fin 6) (f : Port → Port) : (s.modPort c p f).hdrs = s.hdrs := rfl
@[simp] theorem State.modPort_regs (c : Fin 9) (p : Fin 6) (f : Port → Port) : (s.modPort c p f).regs = s.regs := rfl
@[simp] theorem State.modPort_loLatch (c : Fin 9) (p : Fin 6) (f : Port → Port) : (s.modPort c p f).loLatch = s.loLatch := rfl
@[simp] theorem State.modPort_loHeld (c : Fin 9) (p : Fin 6) (f : Port → Port) : (s.modPort c p f).loHeld = s.loHeld := rfl
@[simp] theorem State.modPort_regOut (c : Fin 9) (p : Fin 6) (f : Port → Port) : (s.modPort c p f).regOut = s.regOut := rfl
@[simp] theorem State.modPort_sent (c : Fin 9) (p : Fin 6) (f : Port → Port) : (s.modPort c p f).sent = s.sent := rfl
@[simp] theorem State.modPort_icp (c : Fin 9) (p : Fin 6) (f : Port → Port) : (s.modPort c p f).icp = s.icp := rfl
@[simp] theorem State.modPort_hub (c : Fin 9) (p : Fin 6) (f : Port → Port) : (s.modPort c p f).hub = s.hub := rfl
@[simp] theorem State.modPort_rings (c : Fin 9) (p : Fin 6) (f : Port → Port) : (s.modPort c p f).rings = s.rings := rfl
@[simp] theorem State.modPort_slots (c : Fin 9) (p : Fin 6) (f : Port → Port) : (s.modPort c p f).slots = s.slots := rfl
@[simp] theorem State.modPort_book (c : Fin 9) (p : Fin 6) (f : Port → Port) : (s.modPort c p f).book = s.book := rfl
@[simp] theorem State.modPort_sec (c : Fin 9) (p : Fin 6) (f : Port → Port) : (s.modPort c p f).sec = s.sec := rfl
@[simp] theorem State.modPort_pwr (c : Fin 9) (p : Fin 6) (f : Port → Port) : (s.modPort c p f).pwr = s.pwr := rfl
@[simp] theorem State.modPort_supv (c : Fin 9) (p : Fin 6) (f : Port → Port) : (s.modPort c p f).supv = s.supv := rfl
@[simp] theorem State.modPort_hdr (c : Fin 9) (p : Fin 6) (f : Port → Port) (q : Page) : (s.modPort c p f).hdr q = s.hdr q := rfl
@[simp] theorem State.modPort_reg (c : Fin 9) (p : Fin 6) (f : Port → Port) (q : Page) (o : Nat) : (s.modPort c p f).reg q o = s.reg q o := rfl

/-! ### modStream -/

@[simp] theorem State.modStream_pending (c : Fin 9) (st : Fin 4) (f : Stream → Stream) : (s.modStream c st f).pending = s.pending := rfl
@[simp] theorem State.modStream_refCycles (c : Fin 9) (st : Fin 4) (f : Stream → Stream) : (s.modStream c st f).refCycles = s.refCycles := rfl
@[simp] theorem State.modStream_draws (c : Fin 9) (st : Fin 4) (f : Stream → Stream) : (s.modStream c st f).draws = s.draws := rfl
@[simp] theorem State.modStream_hdrs (c : Fin 9) (st : Fin 4) (f : Stream → Stream) : (s.modStream c st f).hdrs = s.hdrs := rfl
@[simp] theorem State.modStream_regs (c : Fin 9) (st : Fin 4) (f : Stream → Stream) : (s.modStream c st f).regs = s.regs := rfl
@[simp] theorem State.modStream_loLatch (c : Fin 9) (st : Fin 4) (f : Stream → Stream) : (s.modStream c st f).loLatch = s.loLatch := rfl
@[simp] theorem State.modStream_loHeld (c : Fin 9) (st : Fin 4) (f : Stream → Stream) : (s.modStream c st f).loHeld = s.loHeld := rfl
@[simp] theorem State.modStream_regOut (c : Fin 9) (st : Fin 4) (f : Stream → Stream) : (s.modStream c st f).regOut = s.regOut := rfl
@[simp] theorem State.modStream_sent (c : Fin 9) (st : Fin 4) (f : Stream → Stream) : (s.modStream c st f).sent = s.sent := rfl
@[simp] theorem State.modStream_icp (c : Fin 9) (st : Fin 4) (f : Stream → Stream) : (s.modStream c st f).icp = s.icp := rfl
@[simp] theorem State.modStream_hub (c : Fin 9) (st : Fin 4) (f : Stream → Stream) : (s.modStream c st f).hub = s.hub := rfl
@[simp] theorem State.modStream_rings (c : Fin 9) (st : Fin 4) (f : Stream → Stream) : (s.modStream c st f).rings = s.rings := rfl
@[simp] theorem State.modStream_slots (c : Fin 9) (st : Fin 4) (f : Stream → Stream) : (s.modStream c st f).slots = s.slots := rfl
@[simp] theorem State.modStream_book (c : Fin 9) (st : Fin 4) (f : Stream → Stream) : (s.modStream c st f).book = s.book := rfl
@[simp] theorem State.modStream_sec (c : Fin 9) (st : Fin 4) (f : Stream → Stream) : (s.modStream c st f).sec = s.sec := rfl
@[simp] theorem State.modStream_pwr (c : Fin 9) (st : Fin 4) (f : Stream → Stream) : (s.modStream c st f).pwr = s.pwr := rfl
@[simp] theorem State.modStream_supv (c : Fin 9) (st : Fin 4) (f : Stream → Stream) : (s.modStream c st f).supv = s.supv := rfl
@[simp] theorem State.modStream_hdr (c : Fin 9) (st : Fin 4) (f : Stream → Stream) (q : Page) : (s.modStream c st f).hdr q = s.hdr q := rfl
@[simp] theorem State.modStream_reg (c : Fin 9) (st : Fin 4) (f : Stream → Stream) (q : Page) (o : Nat) : (s.modStream c st f).reg q o = s.reg q o := rfl

/-! ### modArray -/

@[simp] theorem State.modArray_pending (c : Fin 9) (a : Fin 2) (f : ArrayS → ArrayS) : (s.modArray c a f).pending = s.pending := rfl
@[simp] theorem State.modArray_refCycles (c : Fin 9) (a : Fin 2) (f : ArrayS → ArrayS) : (s.modArray c a f).refCycles = s.refCycles := rfl
@[simp] theorem State.modArray_draws (c : Fin 9) (a : Fin 2) (f : ArrayS → ArrayS) : (s.modArray c a f).draws = s.draws := rfl
@[simp] theorem State.modArray_hdrs (c : Fin 9) (a : Fin 2) (f : ArrayS → ArrayS) : (s.modArray c a f).hdrs = s.hdrs := rfl
@[simp] theorem State.modArray_regs (c : Fin 9) (a : Fin 2) (f : ArrayS → ArrayS) : (s.modArray c a f).regs = s.regs := rfl
@[simp] theorem State.modArray_loLatch (c : Fin 9) (a : Fin 2) (f : ArrayS → ArrayS) : (s.modArray c a f).loLatch = s.loLatch := rfl
@[simp] theorem State.modArray_loHeld (c : Fin 9) (a : Fin 2) (f : ArrayS → ArrayS) : (s.modArray c a f).loHeld = s.loHeld := rfl
@[simp] theorem State.modArray_regOut (c : Fin 9) (a : Fin 2) (f : ArrayS → ArrayS) : (s.modArray c a f).regOut = s.regOut := rfl
@[simp] theorem State.modArray_sent (c : Fin 9) (a : Fin 2) (f : ArrayS → ArrayS) : (s.modArray c a f).sent = s.sent := rfl
@[simp] theorem State.modArray_icp (c : Fin 9) (a : Fin 2) (f : ArrayS → ArrayS) : (s.modArray c a f).icp = s.icp := rfl
@[simp] theorem State.modArray_hub (c : Fin 9) (a : Fin 2) (f : ArrayS → ArrayS) : (s.modArray c a f).hub = s.hub := rfl
@[simp] theorem State.modArray_rings (c : Fin 9) (a : Fin 2) (f : ArrayS → ArrayS) : (s.modArray c a f).rings = s.rings := rfl
@[simp] theorem State.modArray_slots (c : Fin 9) (a : Fin 2) (f : ArrayS → ArrayS) : (s.modArray c a f).slots = s.slots := rfl
@[simp] theorem State.modArray_book (c : Fin 9) (a : Fin 2) (f : ArrayS → ArrayS) : (s.modArray c a f).book = s.book := rfl
@[simp] theorem State.modArray_sec (c : Fin 9) (a : Fin 2) (f : ArrayS → ArrayS) : (s.modArray c a f).sec = s.sec := rfl
@[simp] theorem State.modArray_pwr (c : Fin 9) (a : Fin 2) (f : ArrayS → ArrayS) : (s.modArray c a f).pwr = s.pwr := rfl
@[simp] theorem State.modArray_supv (c : Fin 9) (a : Fin 2) (f : ArrayS → ArrayS) : (s.modArray c a f).supv = s.supv := rfl
@[simp] theorem State.modArray_hdr (c : Fin 9) (a : Fin 2) (f : ArrayS → ArrayS) (q : Page) : (s.modArray c a f).hdr q = s.hdr q := rfl
@[simp] theorem State.modArray_reg (c : Fin 9) (a : Fin 2) (f : ArrayS → ArrayS) (q : Page) (o : Nat) : (s.modArray c a f).reg q o = s.reg q o := rfl

/-! ### modPlat -/

@[simp] theorem State.modPlat_pending (c : Fin 9) (f : PlatS → PlatS) : (s.modPlat c f).pending = s.pending := rfl
@[simp] theorem State.modPlat_refCycles (c : Fin 9) (f : PlatS → PlatS) : (s.modPlat c f).refCycles = s.refCycles := rfl
@[simp] theorem State.modPlat_draws (c : Fin 9) (f : PlatS → PlatS) : (s.modPlat c f).draws = s.draws := rfl
@[simp] theorem State.modPlat_hdrs (c : Fin 9) (f : PlatS → PlatS) : (s.modPlat c f).hdrs = s.hdrs := rfl
@[simp] theorem State.modPlat_regs (c : Fin 9) (f : PlatS → PlatS) : (s.modPlat c f).regs = s.regs := rfl
@[simp] theorem State.modPlat_loLatch (c : Fin 9) (f : PlatS → PlatS) : (s.modPlat c f).loLatch = s.loLatch := rfl
@[simp] theorem State.modPlat_loHeld (c : Fin 9) (f : PlatS → PlatS) : (s.modPlat c f).loHeld = s.loHeld := rfl
@[simp] theorem State.modPlat_regOut (c : Fin 9) (f : PlatS → PlatS) : (s.modPlat c f).regOut = s.regOut := rfl
@[simp] theorem State.modPlat_sent (c : Fin 9) (f : PlatS → PlatS) : (s.modPlat c f).sent = s.sent := rfl
@[simp] theorem State.modPlat_icp (c : Fin 9) (f : PlatS → PlatS) : (s.modPlat c f).icp = s.icp := rfl
@[simp] theorem State.modPlat_hub (c : Fin 9) (f : PlatS → PlatS) : (s.modPlat c f).hub = s.hub := rfl
@[simp] theorem State.modPlat_rings (c : Fin 9) (f : PlatS → PlatS) : (s.modPlat c f).rings = s.rings := rfl
@[simp] theorem State.modPlat_slots (c : Fin 9) (f : PlatS → PlatS) : (s.modPlat c f).slots = s.slots := rfl
@[simp] theorem State.modPlat_book (c : Fin 9) (f : PlatS → PlatS) : (s.modPlat c f).book = s.book := rfl
@[simp] theorem State.modPlat_sec (c : Fin 9) (f : PlatS → PlatS) : (s.modPlat c f).sec = s.sec := rfl
@[simp] theorem State.modPlat_pwr (c : Fin 9) (f : PlatS → PlatS) : (s.modPlat c f).pwr = s.pwr := rfl
@[simp] theorem State.modPlat_supv (c : Fin 9) (f : PlatS → PlatS) : (s.modPlat c f).supv = s.supv := rfl
@[simp] theorem State.modPlat_hdr (c : Fin 9) (f : PlatS → PlatS) (q : Page) : (s.modPlat c f).hdr q = s.hdr q := rfl
@[simp] theorem State.modPlat_reg (c : Fin 9) (f : PlatS → PlatS) (q : Page) (o : Nat) : (s.modPlat c f).reg q o = s.reg q o := rfl

/-! ### modRoute -/

@[simp] theorem State.modRoute_pending (c : Fin 9) (f : RouteS → RouteS) : (s.modRoute c f).pending = s.pending := rfl
@[simp] theorem State.modRoute_refCycles (c : Fin 9) (f : RouteS → RouteS) : (s.modRoute c f).refCycles = s.refCycles := rfl
@[simp] theorem State.modRoute_draws (c : Fin 9) (f : RouteS → RouteS) : (s.modRoute c f).draws = s.draws := rfl
@[simp] theorem State.modRoute_hdrs (c : Fin 9) (f : RouteS → RouteS) : (s.modRoute c f).hdrs = s.hdrs := rfl
@[simp] theorem State.modRoute_regs (c : Fin 9) (f : RouteS → RouteS) : (s.modRoute c f).regs = s.regs := rfl
@[simp] theorem State.modRoute_loLatch (c : Fin 9) (f : RouteS → RouteS) : (s.modRoute c f).loLatch = s.loLatch := rfl
@[simp] theorem State.modRoute_loHeld (c : Fin 9) (f : RouteS → RouteS) : (s.modRoute c f).loHeld = s.loHeld := rfl
@[simp] theorem State.modRoute_regOut (c : Fin 9) (f : RouteS → RouteS) : (s.modRoute c f).regOut = s.regOut := rfl
@[simp] theorem State.modRoute_sent (c : Fin 9) (f : RouteS → RouteS) : (s.modRoute c f).sent = s.sent := rfl
@[simp] theorem State.modRoute_icp (c : Fin 9) (f : RouteS → RouteS) : (s.modRoute c f).icp = s.icp := rfl
@[simp] theorem State.modRoute_hub (c : Fin 9) (f : RouteS → RouteS) : (s.modRoute c f).hub = s.hub := rfl
@[simp] theorem State.modRoute_rings (c : Fin 9) (f : RouteS → RouteS) : (s.modRoute c f).rings = s.rings := rfl
@[simp] theorem State.modRoute_slots (c : Fin 9) (f : RouteS → RouteS) : (s.modRoute c f).slots = s.slots := rfl
@[simp] theorem State.modRoute_book (c : Fin 9) (f : RouteS → RouteS) : (s.modRoute c f).book = s.book := rfl
@[simp] theorem State.modRoute_sec (c : Fin 9) (f : RouteS → RouteS) : (s.modRoute c f).sec = s.sec := rfl
@[simp] theorem State.modRoute_pwr (c : Fin 9) (f : RouteS → RouteS) : (s.modRoute c f).pwr = s.pwr := rfl
@[simp] theorem State.modRoute_supv (c : Fin 9) (f : RouteS → RouteS) : (s.modRoute c f).supv = s.supv := rfl
@[simp] theorem State.modRoute_hdr (c : Fin 9) (f : RouteS → RouteS) (q : Page) : (s.modRoute c f).hdr q = s.hdr q := rfl
@[simp] theorem State.modRoute_reg (c : Fin 9) (f : RouteS → RouteS) (q : Page) (o : Nat) : (s.modRoute c f).reg q o = s.reg q o := rfl

/-! ### modFly -/

@[simp] theorem State.modFly_pending (c : Fin 9) (no : Nat) (f : Fly → Fly) : (s.modFly c no f).pending = s.pending := rfl
@[simp] theorem State.modFly_refCycles (c : Fin 9) (no : Nat) (f : Fly → Fly) : (s.modFly c no f).refCycles = s.refCycles := rfl
@[simp] theorem State.modFly_draws (c : Fin 9) (no : Nat) (f : Fly → Fly) : (s.modFly c no f).draws = s.draws := rfl
@[simp] theorem State.modFly_hdrs (c : Fin 9) (no : Nat) (f : Fly → Fly) : (s.modFly c no f).hdrs = s.hdrs := rfl
@[simp] theorem State.modFly_regs (c : Fin 9) (no : Nat) (f : Fly → Fly) : (s.modFly c no f).regs = s.regs := rfl
@[simp] theorem State.modFly_loLatch (c : Fin 9) (no : Nat) (f : Fly → Fly) : (s.modFly c no f).loLatch = s.loLatch := rfl
@[simp] theorem State.modFly_loHeld (c : Fin 9) (no : Nat) (f : Fly → Fly) : (s.modFly c no f).loHeld = s.loHeld := rfl
@[simp] theorem State.modFly_regOut (c : Fin 9) (no : Nat) (f : Fly → Fly) : (s.modFly c no f).regOut = s.regOut := rfl
@[simp] theorem State.modFly_sent (c : Fin 9) (no : Nat) (f : Fly → Fly) : (s.modFly c no f).sent = s.sent := rfl
@[simp] theorem State.modFly_icp (c : Fin 9) (no : Nat) (f : Fly → Fly) : (s.modFly c no f).icp = s.icp := rfl
@[simp] theorem State.modFly_hub (c : Fin 9) (no : Nat) (f : Fly → Fly) : (s.modFly c no f).hub = s.hub := rfl
@[simp] theorem State.modFly_rings (c : Fin 9) (no : Nat) (f : Fly → Fly) : (s.modFly c no f).rings = s.rings := rfl
@[simp] theorem State.modFly_slots (c : Fin 9) (no : Nat) (f : Fly → Fly) : (s.modFly c no f).slots = s.slots := rfl
@[simp] theorem State.modFly_book (c : Fin 9) (no : Nat) (f : Fly → Fly) : (s.modFly c no f).book = s.book := rfl
@[simp] theorem State.modFly_sec (c : Fin 9) (no : Nat) (f : Fly → Fly) : (s.modFly c no f).sec = s.sec := rfl
@[simp] theorem State.modFly_pwr (c : Fin 9) (no : Nat) (f : Fly → Fly) : (s.modFly c no f).pwr = s.pwr := rfl
@[simp] theorem State.modFly_supv (c : Fin 9) (no : Nat) (f : Fly → Fly) : (s.modFly c no f).supv = s.supv := rfl
@[simp] theorem State.modFly_hdr (c : Fin 9) (no : Nat) (f : Fly → Fly) (q : Page) : (s.modFly c no f).hdr q = s.hdr q := rfl
@[simp] theorem State.modFly_reg (c : Fin 9) (no : Nat) (f : Fly → Fly) (q : Page) (o : Nat) : (s.modFly c no f).reg q o = s.reg q o := rfl

/-! ### store -/

@[simp] theorem State.store_pending (c : Fin 9) (a : Nat) (bs : List Byte) : (s.store c a bs).pending = s.pending := rfl
@[simp] theorem State.store_refCycles (c : Fin 9) (a : Nat) (bs : List Byte) : (s.store c a bs).refCycles = s.refCycles := rfl
@[simp] theorem State.store_draws (c : Fin 9) (a : Nat) (bs : List Byte) : (s.store c a bs).draws = s.draws := rfl
@[simp] theorem State.store_hdrs (c : Fin 9) (a : Nat) (bs : List Byte) : (s.store c a bs).hdrs = s.hdrs := rfl
@[simp] theorem State.store_regs (c : Fin 9) (a : Nat) (bs : List Byte) : (s.store c a bs).regs = s.regs := rfl
@[simp] theorem State.store_loLatch (c : Fin 9) (a : Nat) (bs : List Byte) : (s.store c a bs).loLatch = s.loLatch := rfl
@[simp] theorem State.store_loHeld (c : Fin 9) (a : Nat) (bs : List Byte) : (s.store c a bs).loHeld = s.loHeld := rfl
@[simp] theorem State.store_regOut (c : Fin 9) (a : Nat) (bs : List Byte) : (s.store c a bs).regOut = s.regOut := rfl
@[simp] theorem State.store_sent (c : Fin 9) (a : Nat) (bs : List Byte) : (s.store c a bs).sent = s.sent := rfl
@[simp] theorem State.store_icp (c : Fin 9) (a : Nat) (bs : List Byte) : (s.store c a bs).icp = s.icp := rfl
@[simp] theorem State.store_hub (c : Fin 9) (a : Nat) (bs : List Byte) : (s.store c a bs).hub = s.hub := rfl
@[simp] theorem State.store_rings (c : Fin 9) (a : Nat) (bs : List Byte) : (s.store c a bs).rings = s.rings := rfl
@[simp] theorem State.store_slots (c : Fin 9) (a : Nat) (bs : List Byte) : (s.store c a bs).slots = s.slots := rfl
@[simp] theorem State.store_book (c : Fin 9) (a : Nat) (bs : List Byte) : (s.store c a bs).book = s.book := rfl
@[simp] theorem State.store_sec (c : Fin 9) (a : Nat) (bs : List Byte) : (s.store c a bs).sec = s.sec := rfl
@[simp] theorem State.store_pwr (c : Fin 9) (a : Nat) (bs : List Byte) : (s.store c a bs).pwr = s.pwr := rfl
@[simp] theorem State.store_supv (c : Fin 9) (a : Nat) (bs : List Byte) : (s.store c a bs).supv = s.supv := rfl
@[simp] theorem State.store_hdr (c : Fin 9) (a : Nat) (bs : List Byte) (q : Page) : (s.store c a bs).hdr q = s.hdr q := rfl
@[simp] theorem State.store_reg (c : Fin 9) (a : Nat) (bs : List Byte) (q : Page) (o : Nat) : (s.store c a bs).reg q o = s.reg q o := rfl

/-! ### setStake -/

@[simp] theorem State.setStake_pending (c : Fin 9) (i : Nat) (v : W32) : (s.setStake c i v).pending = s.pending := rfl
@[simp] theorem State.setStake_refCycles (c : Fin 9) (i : Nat) (v : W32) : (s.setStake c i v).refCycles = s.refCycles := rfl
@[simp] theorem State.setStake_draws (c : Fin 9) (i : Nat) (v : W32) : (s.setStake c i v).draws = s.draws := rfl
@[simp] theorem State.setStake_hdrs (c : Fin 9) (i : Nat) (v : W32) : (s.setStake c i v).hdrs = s.hdrs := rfl
@[simp] theorem State.setStake_regs (c : Fin 9) (i : Nat) (v : W32) : (s.setStake c i v).regs = s.regs := rfl
@[simp] theorem State.setStake_loLatch (c : Fin 9) (i : Nat) (v : W32) : (s.setStake c i v).loLatch = s.loLatch := rfl
@[simp] theorem State.setStake_loHeld (c : Fin 9) (i : Nat) (v : W32) : (s.setStake c i v).loHeld = s.loHeld := rfl
@[simp] theorem State.setStake_regOut (c : Fin 9) (i : Nat) (v : W32) : (s.setStake c i v).regOut = s.regOut := rfl
@[simp] theorem State.setStake_sent (c : Fin 9) (i : Nat) (v : W32) : (s.setStake c i v).sent = s.sent := rfl
@[simp] theorem State.setStake_icp (c : Fin 9) (i : Nat) (v : W32) : (s.setStake c i v).icp = s.icp := rfl
@[simp] theorem State.setStake_hub (c : Fin 9) (i : Nat) (v : W32) : (s.setStake c i v).hub = s.hub := rfl
@[simp] theorem State.setStake_rings (c : Fin 9) (i : Nat) (v : W32) : (s.setStake c i v).rings = s.rings := rfl
@[simp] theorem State.setStake_slots (c : Fin 9) (i : Nat) (v : W32) : (s.setStake c i v).slots = s.slots := rfl
@[simp] theorem State.setStake_book (c : Fin 9) (i : Nat) (v : W32) : (s.setStake c i v).book = s.book := rfl
@[simp] theorem State.setStake_sec (c : Fin 9) (i : Nat) (v : W32) : (s.setStake c i v).sec = s.sec := rfl
@[simp] theorem State.setStake_pwr (c : Fin 9) (i : Nat) (v : W32) : (s.setStake c i v).pwr = s.pwr := rfl
@[simp] theorem State.setStake_supv (c : Fin 9) (i : Nat) (v : W32) : (s.setStake c i v).supv = s.supv := rfl
@[simp] theorem State.setStake_hdr (c : Fin 9) (i : Nat) (v : W32) (q : Page) : (s.setStake c i v).hdr q = s.hdr q := rfl
@[simp] theorem State.setStake_reg (c : Fin 9) (i : Nat) (v : W32) (q : Page) (o : Nat) : (s.setStake c i v).reg q o = s.reg q o := rfl

/-! ### addStake -/

@[simp] theorem State.addStake_pending (c : Fin 9) (i n : Nat) : (s.addStake c i n).pending = s.pending := rfl
@[simp] theorem State.addStake_refCycles (c : Fin 9) (i n : Nat) : (s.addStake c i n).refCycles = s.refCycles := rfl
@[simp] theorem State.addStake_draws (c : Fin 9) (i n : Nat) : (s.addStake c i n).draws = s.draws := rfl
@[simp] theorem State.addStake_hdrs (c : Fin 9) (i n : Nat) : (s.addStake c i n).hdrs = s.hdrs := rfl
@[simp] theorem State.addStake_regs (c : Fin 9) (i n : Nat) : (s.addStake c i n).regs = s.regs := rfl
@[simp] theorem State.addStake_loLatch (c : Fin 9) (i n : Nat) : (s.addStake c i n).loLatch = s.loLatch := rfl
@[simp] theorem State.addStake_loHeld (c : Fin 9) (i n : Nat) : (s.addStake c i n).loHeld = s.loHeld := rfl
@[simp] theorem State.addStake_regOut (c : Fin 9) (i n : Nat) : (s.addStake c i n).regOut = s.regOut := rfl
@[simp] theorem State.addStake_sent (c : Fin 9) (i n : Nat) : (s.addStake c i n).sent = s.sent := rfl
@[simp] theorem State.addStake_icp (c : Fin 9) (i n : Nat) : (s.addStake c i n).icp = s.icp := rfl
@[simp] theorem State.addStake_hub (c : Fin 9) (i n : Nat) : (s.addStake c i n).hub = s.hub := rfl
@[simp] theorem State.addStake_rings (c : Fin 9) (i n : Nat) : (s.addStake c i n).rings = s.rings := rfl
@[simp] theorem State.addStake_slots (c : Fin 9) (i n : Nat) : (s.addStake c i n).slots = s.slots := rfl
@[simp] theorem State.addStake_book (c : Fin 9) (i n : Nat) : (s.addStake c i n).book = s.book := rfl
@[simp] theorem State.addStake_sec (c : Fin 9) (i n : Nat) : (s.addStake c i n).sec = s.sec := rfl
@[simp] theorem State.addStake_pwr (c : Fin 9) (i n : Nat) : (s.addStake c i n).pwr = s.pwr := rfl
@[simp] theorem State.addStake_supv (c : Fin 9) (i n : Nat) : (s.addStake c i n).supv = s.supv := rfl
@[simp] theorem State.addStake_hdr (c : Fin 9) (i n : Nat) (q : Page) : (s.addStake c i n).hdr q = s.hdr q := rfl
@[simp] theorem State.addStake_reg (c : Fin 9) (i n : Nat) (q : Page) (o : Nat) : (s.addStake c i n).reg q o = s.reg q o := rfl

/-! ### setReg -/

@[simp] theorem State.setReg_pending (p : Page) (off : Nat) (v : W32) : (s.setReg p off v).pending = s.pending := rfl
@[simp] theorem State.setReg_refCycles (p : Page) (off : Nat) (v : W32) : (s.setReg p off v).refCycles = s.refCycles := rfl
@[simp] theorem State.setReg_draws (p : Page) (off : Nat) (v : W32) : (s.setReg p off v).draws = s.draws := rfl
@[simp] theorem State.setReg_hdrs (p : Page) (off : Nat) (v : W32) : (s.setReg p off v).hdrs = s.hdrs := rfl
@[simp] theorem State.setReg_loLatch (p : Page) (off : Nat) (v : W32) : (s.setReg p off v).loLatch = s.loLatch := rfl
@[simp] theorem State.setReg_loHeld (p : Page) (off : Nat) (v : W32) : (s.setReg p off v).loHeld = s.loHeld := rfl
@[simp] theorem State.setReg_regOut (p : Page) (off : Nat) (v : W32) : (s.setReg p off v).regOut = s.regOut := rfl
@[simp] theorem State.setReg_sent (p : Page) (off : Nat) (v : W32) : (s.setReg p off v).sent = s.sent := rfl
@[simp] theorem State.setReg_icp (p : Page) (off : Nat) (v : W32) : (s.setReg p off v).icp = s.icp := rfl
@[simp] theorem State.setReg_chans (p : Page) (off : Nat) (v : W32) : (s.setReg p off v).chans = s.chans := rfl
@[simp] theorem State.setReg_hub (p : Page) (off : Nat) (v : W32) : (s.setReg p off v).hub = s.hub := rfl
@[simp] theorem State.setReg_rings (p : Page) (off : Nat) (v : W32) : (s.setReg p off v).rings = s.rings := rfl
@[simp] theorem State.setReg_slots (p : Page) (off : Nat) (v : W32) : (s.setReg p off v).slots = s.slots := rfl
@[simp] theorem State.setReg_book (p : Page) (off : Nat) (v : W32) : (s.setReg p off v).book = s.book := rfl
@[simp] theorem State.setReg_sec (p : Page) (off : Nat) (v : W32) : (s.setReg p off v).sec = s.sec := rfl
@[simp] theorem State.setReg_pwr (p : Page) (off : Nat) (v : W32) : (s.setReg p off v).pwr = s.pwr := rfl
@[simp] theorem State.setReg_supv (p : Page) (off : Nat) (v : W32) : (s.setReg p off v).supv = s.supv := rfl
@[simp] theorem State.setReg_chan (p : Page) (off : Nat) (v : W32) (d : Fin 9) : (s.setReg p off v).chan d = s.chan d := rfl
@[simp] theorem State.setReg_hdr (p : Page) (off : Nat) (v : W32) (q : Page) : (s.setReg p off v).hdr q = s.hdr q := rfl

/-! ### bump -/

@[simp] theorem State.bump_pending (p : Page) (off n : Nat) : (s.bump p off n).pending = s.pending := rfl
@[simp] theorem State.bump_refCycles (p : Page) (off n : Nat) : (s.bump p off n).refCycles = s.refCycles := rfl
@[simp] theorem State.bump_draws (p : Page) (off n : Nat) : (s.bump p off n).draws = s.draws := rfl
@[simp] theorem State.bump_hdrs (p : Page) (off n : Nat) : (s.bump p off n).hdrs = s.hdrs := rfl
@[simp] theorem State.bump_loLatch (p : Page) (off n : Nat) : (s.bump p off n).loLatch = s.loLatch := rfl
@[simp] theorem State.bump_loHeld (p : Page) (off n : Nat) : (s.bump p off n).loHeld = s.loHeld := rfl
@[simp] theorem State.bump_regOut (p : Page) (off n : Nat) : (s.bump p off n).regOut = s.regOut := rfl
@[simp] theorem State.bump_sent (p : Page) (off n : Nat) : (s.bump p off n).sent = s.sent := rfl
@[simp] theorem State.bump_icp (p : Page) (off n : Nat) : (s.bump p off n).icp = s.icp := rfl
@[simp] theorem State.bump_chans (p : Page) (off n : Nat) : (s.bump p off n).chans = s.chans := rfl
@[simp] theorem State.bump_hub (p : Page) (off n : Nat) : (s.bump p off n).hub = s.hub := rfl
@[simp] theorem State.bump_rings (p : Page) (off n : Nat) : (s.bump p off n).rings = s.rings := rfl
@[simp] theorem State.bump_slots (p : Page) (off n : Nat) : (s.bump p off n).slots = s.slots := rfl
@[simp] theorem State.bump_book (p : Page) (off n : Nat) : (s.bump p off n).book = s.book := rfl
@[simp] theorem State.bump_sec (p : Page) (off n : Nat) : (s.bump p off n).sec = s.sec := rfl
@[simp] theorem State.bump_pwr (p : Page) (off n : Nat) : (s.bump p off n).pwr = s.pwr := rfl
@[simp] theorem State.bump_supv (p : Page) (off n : Nat) : (s.bump p off n).supv = s.supv := rfl
@[simp] theorem State.bump_chan (p : Page) (off n : Nat) (d : Fin 9) : (s.bump p off n).chan d = s.chan d := rfl
@[simp] theorem State.bump_hdr (p : Page) (off n : Nat) (q : Page) : (s.bump p off n).hdr q = s.hdr q := rfl

/-! ### bumpField -/

@[simp] theorem State.bumpField_pending (p : Page) (off hi lo n : Nat) : (s.bumpField p off hi lo n).pending = s.pending := rfl
@[simp] theorem State.bumpField_refCycles (p : Page) (off hi lo n : Nat) : (s.bumpField p off hi lo n).refCycles = s.refCycles := rfl
@[simp] theorem State.bumpField_draws (p : Page) (off hi lo n : Nat) : (s.bumpField p off hi lo n).draws = s.draws := rfl
@[simp] theorem State.bumpField_hdrs (p : Page) (off hi lo n : Nat) : (s.bumpField p off hi lo n).hdrs = s.hdrs := rfl
@[simp] theorem State.bumpField_loLatch (p : Page) (off hi lo n : Nat) : (s.bumpField p off hi lo n).loLatch = s.loLatch := rfl
@[simp] theorem State.bumpField_loHeld (p : Page) (off hi lo n : Nat) : (s.bumpField p off hi lo n).loHeld = s.loHeld := rfl
@[simp] theorem State.bumpField_regOut (p : Page) (off hi lo n : Nat) : (s.bumpField p off hi lo n).regOut = s.regOut := rfl
@[simp] theorem State.bumpField_sent (p : Page) (off hi lo n : Nat) : (s.bumpField p off hi lo n).sent = s.sent := rfl
@[simp] theorem State.bumpField_icp (p : Page) (off hi lo n : Nat) : (s.bumpField p off hi lo n).icp = s.icp := rfl
@[simp] theorem State.bumpField_chans (p : Page) (off hi lo n : Nat) : (s.bumpField p off hi lo n).chans = s.chans := rfl
@[simp] theorem State.bumpField_hub (p : Page) (off hi lo n : Nat) : (s.bumpField p off hi lo n).hub = s.hub := rfl
@[simp] theorem State.bumpField_rings (p : Page) (off hi lo n : Nat) : (s.bumpField p off hi lo n).rings = s.rings := rfl
@[simp] theorem State.bumpField_slots (p : Page) (off hi lo n : Nat) : (s.bumpField p off hi lo n).slots = s.slots := rfl
@[simp] theorem State.bumpField_book (p : Page) (off hi lo n : Nat) : (s.bumpField p off hi lo n).book = s.book := rfl
@[simp] theorem State.bumpField_sec (p : Page) (off hi lo n : Nat) : (s.bumpField p off hi lo n).sec = s.sec := rfl
@[simp] theorem State.bumpField_pwr (p : Page) (off hi lo n : Nat) : (s.bumpField p off hi lo n).pwr = s.pwr := rfl
@[simp] theorem State.bumpField_supv (p : Page) (off hi lo n : Nat) : (s.bumpField p off hi lo n).supv = s.supv := rfl
@[simp] theorem State.bumpField_chan (p : Page) (off hi lo n : Nat) (d : Fin 9) : (s.bumpField p off hi lo n).chan d = s.chan d := rfl
@[simp] theorem State.bumpField_hdr (p : Page) (off hi lo n : Nat) (q : Page) : (s.bumpField p off hi lo n).hdr q = s.hdr q := rfl

/-! ### setField -/

@[simp] theorem State.setField_pending (p : Page) (off hi lo v : Nat) : (s.setField p off hi lo v).pending = s.pending := rfl
@[simp] theorem State.setField_refCycles (p : Page) (off hi lo v : Nat) : (s.setField p off hi lo v).refCycles = s.refCycles := rfl
@[simp] theorem State.setField_draws (p : Page) (off hi lo v : Nat) : (s.setField p off hi lo v).draws = s.draws := rfl
@[simp] theorem State.setField_hdrs (p : Page) (off hi lo v : Nat) : (s.setField p off hi lo v).hdrs = s.hdrs := rfl
@[simp] theorem State.setField_loLatch (p : Page) (off hi lo v : Nat) : (s.setField p off hi lo v).loLatch = s.loLatch := rfl
@[simp] theorem State.setField_loHeld (p : Page) (off hi lo v : Nat) : (s.setField p off hi lo v).loHeld = s.loHeld := rfl
@[simp] theorem State.setField_regOut (p : Page) (off hi lo v : Nat) : (s.setField p off hi lo v).regOut = s.regOut := rfl
@[simp] theorem State.setField_sent (p : Page) (off hi lo v : Nat) : (s.setField p off hi lo v).sent = s.sent := rfl
@[simp] theorem State.setField_icp (p : Page) (off hi lo v : Nat) : (s.setField p off hi lo v).icp = s.icp := rfl
@[simp] theorem State.setField_chans (p : Page) (off hi lo v : Nat) : (s.setField p off hi lo v).chans = s.chans := rfl
@[simp] theorem State.setField_hub (p : Page) (off hi lo v : Nat) : (s.setField p off hi lo v).hub = s.hub := rfl
@[simp] theorem State.setField_rings (p : Page) (off hi lo v : Nat) : (s.setField p off hi lo v).rings = s.rings := rfl
@[simp] theorem State.setField_slots (p : Page) (off hi lo v : Nat) : (s.setField p off hi lo v).slots = s.slots := rfl
@[simp] theorem State.setField_book (p : Page) (off hi lo v : Nat) : (s.setField p off hi lo v).book = s.book := rfl
@[simp] theorem State.setField_sec (p : Page) (off hi lo v : Nat) : (s.setField p off hi lo v).sec = s.sec := rfl
@[simp] theorem State.setField_pwr (p : Page) (off hi lo v : Nat) : (s.setField p off hi lo v).pwr = s.pwr := rfl
@[simp] theorem State.setField_supv (p : Page) (off hi lo v : Nat) : (s.setField p off hi lo v).supv = s.supv := rfl
@[simp] theorem State.setField_chan (p : Page) (off hi lo v : Nat) (d : Fin 9) : (s.setField p off hi lo v).chan d = s.chan d := rfl
@[simp] theorem State.setField_hdr (p : Page) (off hi lo v : Nat) (q : Page) : (s.setField p off hi lo v).hdr q = s.hdr q := rfl

/-! ### Reading back -/

theorem State.modChan_chan_self (c : Fin 9) (f : Chan → Chan) : (s.modChan c f).chan c = f (s.chan c) := by
  simp [State.modChan, State.chan]

theorem State.modChan_chan_ne {c d : Fin 9} (h : d ≠ c) (f : Chan → Chan) : (s.modChan c f).chan d = s.chan d := by
  have : c.val ≠ d.val := fun e => h (Fin.ext e.symm)
  simp [State.modChan, State.chan, this]

/-- What a change of one channel leaves in any channel. -/
@[simp] theorem State.modChan_chan (c d : Fin 9) (f : Chan → Chan) : (s.modChan c f).chan d = if d = c then f (s.chan c) else s.chan d := by
  by_cases h : d = c
  · subst h; simp [State.modChan_chan_self]
  · simp [h, State.modChan_chan_ne s h]

@[simp] theorem State.mapChans_chan (f : Fin 9 → Chan → Chan) (d : Fin 9) : (s.mapChans f).chan d = f d (s.chan d) := by
  simp [State.mapChans, State.chan]

variable {s}

theorem State.modHdr_hdr_self (hw : s.wf) (p : Page) (f : Hdr → Hdr) : (s.modHdr p f).hdr p = f (s.hdr p) :=
  spGet_spSet_same _ _ _ 0 hw.1

theorem State.modHdr_hdr_ne {p q : Page} (h : q.key ≠ p.key) (f : Hdr → Hdr) : (s.modHdr p f).hdr q = s.hdr q :=
  spGet_spSet_ne _ _ _ _ h

theorem State.setReg_reg_self (hw : s.wf) (p : Page) (off : Nat) (v : W32) : (s.setReg p off v).reg p off = v :=
  spGet_spSet_same _ _ _ 0 hw.2.1

theorem State.setReg_reg_ne {p q : Page} {o o' : Nat} (h : q.base + o' ≠ p.base + o) (v : W32) : (s.setReg p o v).reg q o' = s.reg q o' :=
  spGet_spSet_ne _ _ _ _ h

end Sys2Proof.Machine
end

