-- ==== Sys2Proof/Tests/Slice0.lean ====
section
/-! SUPPORT. The model's own tests: ill-formed commands that the check refuses, the states in which the statements' hypotheses are met,
and single commands on small states with results taken from the rules. -/

namespace Sys2Proof.Tests
open Machine

set_option Elab.async false

/-! ## States -/

def upHdr : Hdr := { Hdr.reset with enable := true, fence := false }

def upChan (c : Fin 9) : Chan :=
  { Chan.off with role := if c = 8 then .spare else .serving, answers := true, domRun := .replicate 6 true }

/-- The module in service: every block released, channels 0 to 7 serving, channel 8 spare, both SX loaded. -/
def upState : State :=
  { State.reset with
    hdrs := allPages.map fun p => (p.key, upHdr)
    chans := .ofFn upChan
    pwr := { PwrS.new with power := .active, coreRunning := true }
    sec := { SecS.new with slotB := .ofFn fun i => .shipped (BitVec.ofNat 16 (i.val + 1)) 0xF, identOk := true, standbyOk := true }
    icp := { IcpS.reset with linkUp := true }
    supv := { SupvS.reset with hmacRun := .replicate 6 true } }

def darkState : State := upState.modIcp fun i => { i with linkUp := false }
def coldState : State := { upState with chans := .replicate 9 .off }
def stoppedState : State :=
  (upState.modChan 0 fun ch => { ch with domRun := ch.domRun.set 0 false }).setReg (cpage 0 .cclk) 0x104 0x3E
def fencedState : State := upState.modChan 0 fun ch => { ch with role := .fenced }
def latchedState : State :=
  { upState with loLatch := [(latchKey .icp (cpage 2 .update) 0x100, some 7)], loHeld := [(latchKey .icp (cpage 2 .update) 0x108, some 9)] }
def drainingState : State := upState.modHdr (cpage 0 .seq) fun h => { h with draining := true, fence := true }
def resettingState : State := upState.modHdr (gpage .sec) fun h => { h with resetting := true }
def recoverableState : State :=
  (upState.modChan 8 fun ch => { ch with role := .fenced }).modSec fun x => { x with standbyOk := false }
def claimedState : State := upState.modSupv fun x => { x with recovering := 4, switching := 8, claim := some ⟨8, 3⟩ }
def wakeableState : State := upState.modPwr fun x => { x with power := .standby }
def standbyState : State := upState.modPwr fun x => { x with power := .standby, uv := true }
def dormantState : State := upState.modPwr fun x => { x with power := .dormant }
def idleState : State := upState.modPwr fun x => { x with power := .idle }
def changingState : State := upState.modPwr fun x => { x with changing := true }
def phaseState : State := upState.modPwr fun x => { x with phasesLost := [(7, 2)] }
def installingState : State := upState.modSec fun x => { x with installing := some (0, 0, 0) }
def agedState : State :=
  (((upState.modPwr fun x => { x with opHours := 48 }).modSec fun x => { x with inForce := [.shipped 0x0104 56] }).modSupv fun x =>
    { x with surveyAsked := 256 }).mapChans fun c ch =>
      { ch with bench := { ch.bench with samples := if c = 5 then [(0, [1])] else [], done := if c = 8 then 8 else 0 } }
def spareClaim : State := upState.modChan 3 fun ch => { ch with role := .fenced }
def sparedState : State := upState.setReg (travPage 2 5) 0x10C 0x1FF
/-- A read of two transactions at array A's port, waiting for the bus. -/
def aRun : MRun := ⟨2, false, 8, false, false, 0, arrPage 0 0, 0, some 7, 0⟩
def busyMerid : MeridS := { MeridS.reset with queue := MeridS.reset.queue.set 3 [aRun], held := MeridS.reset.held.set 3 1 }
def lockedState : State := upState.modMerid 4 fun m => { m with lock := some 2, queue := m.queue.set 2 [aRun], held := m.held.set 2 1 }
def loanState : State := upState.modHub fun h => { h with loans := [(5, ⟨0, 0, 64, false⟩)] }
def stoppableState : State := upState.modHdr (hbmPage 0 1) fun h => { h with fence := true }

theorem upState_inv : upState.Inv := by decide +kernel
theorem resettingState_inv : resettingState.Inv := by decide +kernel
theorem loanState_inv : loanState.Inv := upState_inv

/-! ## Descriptors, in stream 1 -/

/-- A descriptor of an opcode with some bytes of its body set. -/
def desc (op : Byte) (l : List (Nat × Byte)) : List Byte :=
  l.foldl (fun d e => d.set e.1 e.2) ([op, 0, 1, 0] ++ List.replicate 60 0)

/-- The module with a descriptor at the head of stream 1 of channel 0. -/
def headState (d : List Byte) : State := upState.modStream 0 1 fun x => { x with queue := [⟨d, false⟩] }

theorem due_of_head {u : UnitId} (s : State) (d : List Byte) (hg : grantOf s 0 = some 1)
    (hh : headOf 1 ((s.chan 0).stream 1) = some (⟨d, false⟩, none)) (hu : unitFor s 0 d = u) (hf : dueFenced s 0 u d = false) :
    s.due 0 1 d false u :=
  ⟨hg, ⟨_, _, hh, rfl, rfl⟩, hu, hf⟩

/-- A rank 1 tensor of four FP32 elements. -/
def vec4 : List Byte := ([tFP32.toUInt8.toBitVec, 1] ++ List.replicate 126 0).set 24 4

def closeDesc : List Byte := desc 0x31 [(16, 2)]
def badCopy : List Byte := desc 0x02 [(16, 1), (18, 2)]
def getDesc : List Byte := desc 0x5B [(24, 64), (32, 1)]
def zeroTag : List Byte := desc 0x5B [(24, 64)]
def dropDesc : List Byte := desc 0x01 [(16, 3), (18, 1)]
def badCreate : List Byte := desc 0x01 [(63, 255)]
def reduceDesc : List Byte := desc 0x40 [(16, 1), (18, 2), (21, 1), (28, 4)]
def recvDesc : List Byte := desc 0x39 [(33, 1), (36, 64)]
def waitDesc : List Byte := desc 0x60 []
def signalDesc : List Byte := desc 0x61 [(17, 0x80), (18, 5)]
def tableDesc : List Byte := desc 0x08 []
def fetchDesc : List Byte := desc 0x68 [(24, 2)]
def fetchState : State := upState.modStream 0 1 fun x => { x with fetch := some ⟨fetchDesc, false, 0, 2, 0, [], false, false, 0, false⟩ }
def recvState : State := (headState recvDesc).setReg (cpage 0 .bearing) 0x100 0x0A004005
def reduceState : State :=
  (headState reduceDesc).modChan 0 fun ch => { ch with tensors := [(1, some ⟨vec4, false⟩), (2, some ⟨vec4, false⟩)] }

/-! ## Units at work -/

def aFly (u : UnitId) (comm : Bool) : Fly :=
  ⟨desc 0x11 [], 1, false, 7, u, envOf reduceState 0, .feeding, true, comm, comm, false, false, 0, 0, 0, []⟩
def flyState (u : UnitId) (comm : Bool) : State := upState.modChan 0 fun ch => { ch with fly := [aFly u comm] }
def ungrantedState : State :=
  (upState.modChan 0 fun ch => { ch with fly := [{ aFly .arrayB true with granted := false }] }).modArray 0 1 fun x =>
    { x with grants := [(0, 7), (1, 7)] }
def knownState (u : UnitId) : State := (flyState u false).setReg (gpage .icp) 0x110 0x80000000
def rampState : State :=
  (upState.modArray 0 0 fun x => { x with ramp := .full }).modArray 0 1 fun x => { x with ramp := .rampUp }
def aClosure (excess : Bool) : Closure := ⟨7, [], [], true, excess, 0⟩
def sampleState (excess : Bool) : State :=
  (upState.modChan 0 fun ch => { ch with fly := [{ aFly .arrayB true with phase := .fed }] }).modArray 0 1 fun x =>
    { x with closure := some (aClosure excess) }
def runningState : State :=
  upState.modCtx 0 2 fun k => { k with isOpen := true, running := true }
def aPart : RedPart := ⟨0, 0, 7, false, 1, 4, false⟩
def reducing : State := upState.modChan 0 fun ch => { ch with fly := [{ aFly .reduce false with desc := reduceDesc }] }
def waitingState : State := reducing.modHub fun h => { h with waiting := [(77, aPart)] }
def metState : State := reducing.modHub fun h => { h with reductions := [⟨77, [aPart], false⟩] }
def aTri : TriWait := ⟨9, 1, 0, 1, [], [], false, 0, 7, false⟩
def triState : State := upState.modHub fun h => { h with tris := [aTri] }
theorem rampState_inv : rampState.Inv := by decide +kernel
theorem sampleState_inv (b : Bool) : (sampleState b).Inv := by cases b <;> decide +kernel

/-! ## Stations and ports -/

def stationState : State := upState.setReg (cpage 2 .bearing) 0x100 0x0A004005
def boundState : State := stationState.modPlat 2 fun x =>
  { x with inbound := #v[⟨some 1, 0, none, none⟩, ⟨some 2, 0, none, none⟩], copyOut := some ⟨false, 9, 4, false⟩ }
def sendingState : State := stationState.modPlat 2 fun x => { x with copyOut := some ⟨false, 9, 4, true⟩ }
theorem boundState_inv : boundState.Inv := by decide +kernel

/-- Channel 0 a station; its ports active, active with a switch-over and a replay awaited, in training, off, held, and in training a second
time. -/
def portState : State :=
  ((upState.setReg (cpage 0 .bearing) 0x100 0x0A004005).setReg (travPage 0 0) 0x10C 0x1C7).modChan 0 fun ch =>
    { ch with ports := #v[{ Port.reset with state := .active },
        { Port.reset with state := .active, nakking := true, switching := [⟨0, 2, false, false, none⟩, ⟨0, 2, true, false, none⟩] },
        { Port.reset with state := .training, identOk := true, light := true }, .reset,
        { Port.reset with state := .hold, rxHeld := [⟨5, 9, 0, 1, 3, 0, 0, 64, 1, []⟩] },
        { Port.reset with state := .training, light := true, failures := 1 }] }
theorem portState_inv : portState.Inv := by decide +kernel

/-- A data flit of link sequence 1: an envelope and a payload of zeros, and their CRC. -/
def envBytes : List Byte := [5, 0, 9, 0x40, 3, 0, 0, 0x40, 1, 0, 0, 0]
def goodFlit : List Byte := envBytes ++ toLE 4 0x359f63ce ++ List.replicate 256 0
def badFlit : List Byte := envBytes ++ toLE 4 0x359f63cf ++ List.replicate 256 0

theorem crc_0 : (List.replicate 20 0).foldl crcByte (envBytes.foldl crcByte 0xFFFFFFFF) = 0xdb4f93c6 := by decide +kernel
theorem crc_1 : (List.replicate 32 (0 : Byte)).foldl crcByte 0xdb4f93c6 = 0xcf692e4c := by decide +kernel
theorem crc_2 : (List.replicate 32 (0 : Byte)).foldl crcByte 0xcf692e4c = 0xd47a7206 := by decide +kernel
theorem crc_3 : (List.replicate 32 (0 : Byte)).foldl crcByte 0xd47a7206 = 0x7233daf5 := by decide +kernel
theorem crc_4 : (List.replicate 32 (0 : Byte)).foldl crcByte 0x7233daf5 = 0xf55577e9 := by decide +kernel
theorem crc_5 : (List.replicate 32 (0 : Byte)).foldl crcByte 0xf55577e9 = 0xe1c2d9fd := by decide +kernel
theorem crc_6 : (List.replicate 32 (0 : Byte)).foldl crcByte 0xe1c2d9fd = 0xe17357e9 := by decide +kernel
theorem crc_7 : (List.replicate 32 (0 : Byte)).foldl crcByte 0xe17357e9 = 0x98e2877e := by decide +kernel
theorem crc_8 : (List.replicate 12 (0 : Byte)).foldl crcByte 0x98e2877e = 0xca609c31 := by decide +kernel

theorem crc_flit : crc32c (envBytes ++ List.replicate 256 0) = 0x359f63ce := by
  have h : envBytes ++ List.replicate 256 (0 : Byte) = (envBytes ++ List.replicate 20 0) ++ (List.replicate 32 0 ++ (List.replicate 32 0 ++
      (List.replicate 32 0 ++ (List.replicate 32 0 ++ (List.replicate 32 0 ++ (List.replicate 32 0 ++ (List.replicate 32 0 ++
      List.replicate 12 0))))))) := by decide +kernel
  unfold crc32c
  rw [h]
  simp only [List.foldl_append]
  rw [crc_0, crc_1, crc_2, crc_3, crc_4, crc_5, crc_6, crc_7, crc_8]
  decide

theorem goodFlit_crc : flitCrcOk goodFlit = true := by
  have e : goodFlit.take 12 ++ (goodFlit.drop 16).take 256 = envBytes ++ List.replicate 256 0 := by decide +kernel
  unfold flitCrcOk
  rw [e, crc_flit]
  decide +kernel

theorem badFlit_crc : flitCrcOk badFlit = false := by
  have e : badFlit.take 12 ++ (badFlit.drop 16).take 256 = envBytes ++ List.replicate 256 0 := by decide +kernel
  unfold flitCrcOk
  rw [e, crc_flit]
  decide +kernel

/-! ## Frames -/

def linkState : State := upState.setReg (gpage .icp) 0x110 0x80000000
def frameOf (zone cls : Byte) (addr : W64) (payload : List Byte) : HostFrame :=
  ⟨0x0A, false, 1, 6, zone, cls, 1, 0, BitVec.ofNat 16 payload.length, addr, 0, payload, 0, none⟩
def readFrame (n : Byte) : HostFrame := frameOf 0 0 0x100 [n, 0, 0, 0]
def writeFrame : HostFrame := frameOf 0 0 0x10C [1, 0, 0, 0]
def memFrame : HostFrame := frameOf 5 1 0x5000000000000040 (List.replicate 64 0xAB)
def getFrame : HostFrame := frameOf 5 1 0x5000000000000040 [64, 0, 0, 0]
def batchFrame : HostFrame := frameOf 5 1 0x5000000000000000 closeDesc
def planFrag : HostFrame := frameOf 5 0 0x5000000000000000 []
def attestFrame : HostFrame := frameOf 0 0 0 (List.replicate 32 7)
def ackFrame1 : HostFrame := { frameOf 0 0 0 [] with ack := 1 }
def queuedState : State := linkState.modIcp fun i =>
  { i with txSeq := 3, outq := [⟨{ originated linkState 9 0 0 true true [] with seq := 1 }, 1, true, none, none⟩,
                                ⟨{ originated linkState 9 0 0 true true [] with seq := 2 }, 2, true, none, none⟩] }
def pfcState : State := linkState.setReg (gpage .hmac) 0x10C 0x136

/-! ## The hypotheses of the statements are met together -/

theorem wit_CounterReadsClear :
    ∃ (i : Instr) (p : Page) (off : Nat) (rc : W32), counterOf i = some (p, off, rc) ∧ upState.answers p := by
  refine ⟨.satCntRead 3, _, _, _, rfl, ?_⟩; decide +kernel

theorem wit_HeaderCountersClear :
    upState.headerUp (travPage 4 2) := by decide +kernel

theorem wit_MeridianDecides :
    upState.answers (cpage 8 .merid) ∧ busyMerid.lock = none ∧ decision 0xEAAA1BAF busyMerid = some 3 ∧
    busyMerid.queue[3] = [aRun] ∧ { busyMerid with lock := some (2 : Fin 16) }.lock = some 2 := by decide +kernel

theorem wit_StatusReads :
    upState.answers (gpage .sec) ∧ upState.answers (travPage 0 5) ∧ pathUp .icp upState = true ∧ pathUp .sideband upState = true := by decide +kernel

theorem wit_AccessRefusals :
    (upState.hostUp = true ∧ pageOf 0x30000000 = none) ∧ (upState.hostUp = true ∧ (0x20010102 : W32).toNat % 4 ≠ 0) ∧
    (coldState.hostUp = true ∧ pageOf 0x20010100 = some (cpage 0 .seq) ∧ unreachable coldState (cpage 0 .seq) = true) ∧
    (pageOf 0x20010114 = some (cpage 0 .seq) ∧ unreachable upState (cpage 0 .seq) = false ∧ assigned .seq 0x114 = false) ∧
    (pageOf 0x20020100 = some (arrPage 0 0) ∧ stoppedState.domOn (arrPage 0 0) = false ∧ assigned .dense 0x100 = true ∧
      unreachable stoppedState (arrPage 0 0) = false) ∧
    (pageOf 0x20010100 = some (cpage 0 .seq) ∧ fencedState.fenced (cpage 0 .seq) = true ∧ fencedState.hostUp = true ∧
      unreachable fencedState (cpage 0 .seq) = false ∧ assigned .seq 0x100 = true) ∧
    (sbReads (cpage 0 .seq) 0x100 = false ∧ sbWrites (cpage 0 .seq) 0x100 = false ∧ pathUp .sideband upState = true) := by decide +kernel

theorem wit_PairReads :
    (pairHalf (cpage 2 .update).blk 0x100 = some false ∧ upState.answersOn .icp (cpage 2 .update) 0x100 ∧
      upState.answersOn .icp (cpage 2 .update) 0x104 ∧ spGet noLatch upState.loLatch (latchKey .icp (cpage 2 .update) 0x100) = none) ∧
    (pairHalf (gpage .supv).blk 0x110 = some false ∧ upState.answersOn .sideband (gpage .supv) 0x110 ∧
      upState.answersOn .sideband (gpage .supv) 0x114) ∧
    spGet noLatch latchedState.loLatch (latchKey .icp (cpage 2 .update) 0x100) = some 7 := by decide +kernel

theorem wit_PairWrites :
    (pairHalf (cpage 2 .update).blk 0x108 = some false ∧ upState.takes (cpage 2 .update) ∧
      spGet noLatch upState.loHeld (latchKey .icp (cpage 2 .update) 0x108) = none) ∧
    (latchedState.takes (cpage 2 .update) ∧ spGet noLatch latchedState.loHeld (latchKey .icp (cpage 2 .update) 0x108) = some 9) ∧
    (pairHalf (arrPage 1 1).blk 0x100 = some false ∧ upState.takes (arrPage 1 1) ∧ (arrPage 1 1).blk ≠ .update) := by decide +kernel

theorem wit_IndirectReads :
    upState.answers (cpage 6 .seq) ∧ upState.answers (cpage 6 .layout) ∧ upState.answers (cpage 6 .bearing) ∧
    upState.answers (cpage 6 .cbench) ∧ pathUp .icp upState = true ∧ pathUp .sideband upState = true := by decide +kernel

theorem wit_IndirectWrites :
    upState.takes (cpage 1 .seq) ∧ upState.takes (cpage 1 .layout) ∧ upState.takes (cpage 1 .bearing) ∧
    (upState.reg (cpage 1 .bearing) 0x104).toNat < 320 ∧
    (bitsOf ((0x0E : W32).toNat % 256) 2 0 = 6) ∧ (bitsOf ((0x05 : W32).toNat % 256) 2 0 ≠ 6 ∧ bitsOf ((0x05 : W32).toNat % 256) 4 3 ≠ 3 ∧
      bitsOf ((0x05 : W32).toNat % 256) 7 5 = 0) := by decide +kernel

theorem wit_HeaderControlCommands :
    fencedState.headerUp (travPage 0 1) := by decide +kernel

theorem wit_BlkCtrlHeader :
    upState.Inv ∧ (upState.hdr (gpage .sec)).resetting = false ∧ (resettingState.hdr (gpage .sec)).resetting = true ∧
    (fencedState.chanFenced (cpage 0 .seq).chan = true) ∧ (upState.hdr (cpage 5 .seq)).faulted = false ∧
    upState.chanFenced (cpage 5 .seq).chan = false ∧ (upState.hdr (cpage 5 .seq)).errInject.getLsbD 31 = false := by
  refine ⟨upState_inv, ?_⟩; decide +kernel

theorem wit_DrainAndResetEnd :
    (drainingState.hdr (cpage 0 .seq)).draining = true ∧ quiet drainingState (cpage 0 .seq) = true ∧ resettingState.Inv ∧
    (gpage .sec).ok = true ∧ (resettingState.hdr (gpage .sec)).resetting = true := by
  refine ⟨by decide +kernel, by decide +kernel, resettingState_inv, by decide +kernel, by decide +kernel⟩

theorem wit_ErrorRegisterWrites :
    upState.headerUp (cpage 2 .merid) ∧ upState.Inv ∧ upState.fenced (cpage 2 .merid) = false ∧ fencedState.fenced (cpage 0 .seq) = true ∧
    bitsOf (0x101 : W32).toNat 9 8 ≠ 3 ∧ retryCause (cpage 2 .merid) (bitsOf (0x101 : W32).toNat 4 0) = true ∧
    bitsOf (0x312 : W32).toNat 9 8 = 3 := by
  refine ⟨by decide +kernel, upState_inv, ?_⟩; decide +kernel

theorem wit_StoredRegisterWrites :
    upState.takes (cpage 0 .merid) ∧ assigned (cpage 0 .merid).blk 0x104 = true ∧ pairHalf (cpage 0 .merid).blk 0x104 = none ∧
    indirect (cpage 0 .merid).blk 0x104 = false ∧ regMasks (cpage 0 .merid).blk 0x104 = some (0xFFFFFFFF, 0, 0, 0xEAAA1BAF) ∧
    upState.takes (cpage 7 .numw) ∧ upState.takes (cpage 7 .gather) := by decide +kernel

theorem wit_IcpRangeRefused :
    upState.Inv ∧ upState.takes (gpage .icp) ∧ ((1 : W32).toNat < 2) ∧ (1000 < (1001 : W32).toNat) := by
  refine ⟨upState_inv, ?_⟩; decide +kernel

theorem wit_HbmAndCacheEvents :
    memLive upState 4 = true ∧ armed upState (hbmPage 4 1) = none ∧ armed upState (cpage 4 .cache) = none ∧ (upState.chan 4).merid.idle = true ∧
    memLive lockedState 4 = true ∧ (lockedState.chan 4).merid.lock = some 2 ∧ (lockedState.chan 4).merid.lockLong = false ∧
    (lockedState.chan 4).merid.idle = false := by decide +kernel

theorem wit_TransientEventCounts :
    upState.Inv := upState_inv

theorem wit_LastingMemoryFaults :
    memLive upState 4 = true := by decide +kernel

theorem wit_StackTemperature :
    upState.powered 2 = true ∧ upState.Inv := ⟨by decide +kernel, upState_inv⟩

theorem wit_UnassignedOffsets :
    upState.headerUp (cpage 3 .seq) ∧ assigned (cpage 3 .seq).blk 0x30 = false ∧ assigned (cpage 3 .seq).blk 0x114 = false := by decide +kernel

theorem wit_EqualPfcPrioritiesRefused :
    upState.Inv ∧ upState.takes (gpage .hmac) ∧ bitsOf (0x333 : W32).toNat 2 0 = bitsOf (0x333 : W32).toNat 6 4 := by
  refine ⟨upState_inv, ?_⟩; decide +kernel

theorem wit_PlaneMapWrites :
    upState.Inv ∧ upState.takes (gpage .supv) ∧ (∃ k : Fin 8, bitsOf (0x76543211 : W32).toNat (4 * k.val + 3) (4 * k.val) ≠ k.val ∧
      bitsOf (0x76543211 : W32).toNat (4 * k.val + 3) (4 * k.val) ≠ 8) ∧ mapBad 0x76543210 upState = false := by
  refine ⟨upState_inv, by decide +kernel, ⟨0, by decide +kernel⟩, by decide +kernel⟩

theorem wit_SupervisorCommands :
    upState.takes (gpage .supv) ∧ recoverOk (BitVec.toNat (256 : BitVec 9)) recoverableState = true ∧ recoverableState.takes (gpage .supv) ∧
    recoverOk (BitVec.toNat (1 : BitVec 9)) upState = false ∧ upState.sec.standbyOk = true ∧ recoverableState.sec.standbyOk = false ∧
    claimedState.supv.recovering.getLsbD 2 = true ∧ claimedState.supv.switching.getLsbD 3 = true ∧ claimedState.supv.claim = some ⟨8, 3⟩ ∧
    ∀ i ∈ [(2 : Fin 6), 3, 4, 5], loadable claimedState i (claimedState.sec.preferred.getLsbD i.val) = true := by decide +kernel

theorem wit_ReleasesAndWakes :
    (standbyState.pwr.power = .standby ∧ standbyState.pwr.ov = false ∧ standbyState.pwr.coolant = false ∧ standbyState.pwr.leak = false ∧
      standbyState.pwr.uv = true) ∧ upState.pwr.power ≠ .standby ∧ upState.takesOn .icp (gpage .pwr) 0x104 ∧
    standbyState.takesOn .sideband (gpage .pwr) 0x104 ∧ upState.takesOn .sideband (gpage .pwr) 0x100 := by decide +kernel

theorem wit_StateRequests :
    upState.takesOn .icp (gpage .pwr) 0x104 ∧ stateReqOk .icp 1 upState = false ∧ stateReqOk .icp 4 upState = true ∧ stateReqOk .icp 3 upState = true ∧
    stateReqOk .icp 2 upState = true ∧ platPausing upState = false ∧ stateReqOk .icp 1 dormantState = true ∧ stateReqOk .icp 2 dormantState = true ∧
    dormantState.pwr.power = .dormant ∧ wakeableState.takesOn .sideband (gpage .pwr) 0x104 ∧ stateReqOk .sideband 3 wakeableState = true ∧
    (changingState.pwr.power = .active ∧ changingState.pwr.changing = true ∧ changingState.pwr.idleWanted = false ∧
      ∀ c : Fin 9, (changingState.chan c).fly = [] ∧ changingState.supv.surveyRunning.getLsbD c.val = false) := by decide +kernel

theorem wit_PowerAndThermalEvents :
    upState.on = true ∧ railsGone upState [7] = false ∧ railsGone phaseState [7] = false ∧
    railsGone (phaseState.modPwr fun x => { x with phasesLost := [(7, 3)] }) [7] = true ∧ min 3 (spGet (fun _ => 0) upState.pwr.phasesLost 7 + 1) ≠ 3 ∧ min 3 (spGet (fun _ => 0) phaseState.pwr.phasesLost 7 + 1) = 3 ∧
    phaseState.on = true ∧ phaseState.powered 1 = true ∧ (upState.chan 1).thermalPark ≠ true ∧ upState.chanFenced 1 = false ∧
    upState.sec.standbyOk = true := by decide +kernel

theorem wit_SidebandRequests :
    pathUp .sideband upState = true ∧ upState.answersOn .sideband (gpage .pwr) 0x110 ∧ upState.takesOn .sideband (gpage .fbook) 0x10C ∧
    pageOf 0x20010100 = some (cpage 0 .seq) ∧ sbReads (cpage 0 .seq) 0x100 = false ∧ sbWrites (cpage 0 .seq) 0x100 = false ∧
    gaugeKeys.contains ((0x7F : Byte).toNat, (0 : Byte).toNat, (0 : Byte).toNat) = false ∧
    (∃ k ∈ gaugeKeys, k.1 ≠ 0x10 ∧ k.1 ≠ 0x20) := by
  refine ⟨by decide +kernel, by decide +kernel, by decide +kernel, by decide +kernel, by decide +kernel, by decide +kernel, by decide +kernel, ?_⟩
  decide +kernel

theorem wit_PowerOnReachesService :
    (State.reset.pwr.power = .unpowered ∧ State.reset.pwr.uv = false ∧ State.reset.pwr.ov = false ∧ State.reset.pwr.coolant = false ∧
      State.reset.pwr.leak = false ∧ loadable State.reset 0 (State.reset.sec.preferred.getLsbD 0) = true ∧
      loadable State.reset 1 (State.reset.sec.preferred.getLsbD 1) = true ∧ (State.reset.sec.faultedA && State.reset.sec.faultedB) = false ∧
      railsGone State.reset [54, 55] = false) ∧
    (wakeableState.pwr.power = .standby ∧ { wakeableState.pwr with wakePending := some true }.wakePending.isSome = true) := by decide +kernel

theorem wit_LoadTimeouts :
    upState.on = true ∧ armed upState (gpage .sec) = none ∧ loadable upState ⟨(2 : BitVec 3).toNat, by decide +kernel⟩ (!upState.sec.preferred.getLsbD (2 : BitVec 3).toNat) = true := by decide +kernel

theorem wit_FirmwareCommands :
    upState.takes (gpage .sec) ∧ upState.sec.installing = none ∧ mayStage upState ⟨(3 : BitVec 4).toNat, by decide +kernel⟩ = true ∧
    otherValid upState ⟨(1 : BitVec 3).toNat, by decide +kernel⟩ = true ∧ upState.sec.active.getLsbD 1 = upState.sec.preferred.getLsbD 1 ∧
    installingState.takes (gpage .sec) ∧ installingState.sec.installing ≠ none := by decide +kernel

theorem wit_LockLossOutcome :
    upState.on = true ∧ Domain.place (.gather 3) = .inl (3, 1) ∧ upState.powered 3 = true ∧ (upState.chan 3).domRun[1] = true ∧
    (upState.chan 3).domOnce[1] = false ∧ (upState.chan 3).role ≠ .failed ∧ Domain.place .hub = .inr 1 ∧ upState.supv.hmacRun[1] = true ∧
    upState.supv.hmacOnce[1] = false ∧ Domain.place .scoreB = .inr 4 ∧ activeCore upState 4 = false ∧ activeCore upState 3 = true ∧
    armed upState (cpage 3 .cclk) = none ∧ armed upState (gpage .clocks) = none := by decide +kernel

theorem wit_FrequencyChanges :
    Domain.place (.mside 8) = .inl (8, 2) ∧ upState.powered 8 = true ∧ (upState.chan 8).domRun[2] = true ∧ windowOpen upState 8 = true ∧
    (∀ p ∈ domainPages 8 2, quiet upState p = true) ∧ idleState.on = true ∧ idleState.supv.hmacRun[1] = true ∧
    quiet idleState (gpage .hub) = true ∧ idleState.pwr.power = .idle := by decide +kernel

theorem wit_AgeingRecords :
    upState.on = true ∧ upState.powered 5 = true ∧ upState.pwr.opHours.toNat < 24 ∧ (upState.chan 5).bench.done.getLsbD 0 = false ∧
    agedState.on = true ∧ 24 ≤ agedState.pwr.opHours.toNat ∧ agedState.pwr.opHours.toNat % 24 = 0 ∧
    (agedState.chan 5).bench.done.getLsbD 0 = false ∧ (∃ e ∈ (agedState.chan 5).bench.samples, e.1 / 24 = 0) ∧
    (ratingOf State.reset .hp).isNone = true := by decide +kernel

theorem wit_ResurveyCompletes :
    agedState.on = true ∧ benchPlace (.px 8) = some (.inl (8, 3)) ∧ ratingOf agedState (.px 8) = some (.shipped 0x0104 56) ∧
    surveyWanted agedState 8 = true ∧ (agedState.chan 8).role = .spare ∧ (agedState.chan 8).fly = [] ∧
    (agedState.chan 8).bench.done.getLsbD 3 = true ∧ (agedState.chan 8).bench.bad.getLsbD 3 = false ∧
    (agedState.chan 8).surveyed.getLsbD 3 = false ∧
    (∀ (datum : Nat → Nat) (allow n : Nat), searchOffset datum allow 1 1 (([[]] : List (List H16)).take (n + 1)) 0 = some 0) := by
  refine ⟨?_, ?_, rfl, ?_, ?_, ?_, ?_, ?_, ?_, fun _ _ _ => rfl⟩ <;> decide +kernel

theorem wit_SurveyAndRecorderCommands :
    upState.Inv ∧ upState.takes (gpage .bench) ∧ upState.field (gpage .bench) 0x100 25 16 ≠ 0 ∧ upState.takesOn .icp (gpage .fbook) 0x108 ∧
    (0 : W32) = (coreForAccess .icp upState).book.seq ∧ (1 : W32) ≠ (coreForAccess .icp upState).book.seq ∧ upState.takes (gpage .cairn) := by
  refine ⟨upState_inv, ?_⟩; decide +kernel

theorem wit_ClaimAndPlatCommands :
    spareClaim.takes (cpage 8 .plat) ∧ claimOk 8 3 spareClaim = true ∧ upState.takes (cpage 0 .plat) ∧ claimOk 0 3 upState = false ∧
    upState.takes (travPage 2 5) ∧ (2 : BitVec 2) ≠ 0 ∧ 3 < (4 : BitVec 3).toNat ∧ spareUsed sparedState 2 5 1 true = true ∧ sparedState.takes (travPage 2 5) := by decide +kernel

theorem wit_ChannelControlCommands :
    upState.Inv ∧ upState.takes (cpage 2 .seq) ∧ (upState.chan 2).fly = [] ∧ (∀ st : Fin 4, (upState.chan 2).stream st = .reset) ∧
    upState.takes (cpage 2 .cpwr) ∧ upState.takes (gpage .hub) ∧ upState.hub.loans = [] ∧
    loanState.Inv ∧ loanState.takes (gpage .hub) ∧ (∃ l ∈ loanState.hub.loans, l.1 = 5 ∧ l.2.recalled = false) := by
  refine ⟨upState_inv, by decide +kernel, by decide +kernel, by decide +kernel, by decide +kernel, by decide +kernel, by decide +kernel, loanState_inv, by decide +kernel, by decide +kernel⟩

theorem wit_DomainCommands :
    upState.takes (cpage 1 .cclk) ∧ (upState.reg (cpage 1 .cclk) 0x104).getLsbD 4 = true ∧ mayStop upState 1 4 = false ∧
    stoppableState.takes (cpage 0 .cclk) ∧ (stoppableState.reg (cpage 0 .cclk) 0x104).getLsbD 4 = true ∧ mayStop stoppableState 0 4 = true ∧
    stoppedState.takes (cpage 0 .cclk) ∧ (stoppedState.reg (cpage 0 .cclk) 0x104).getLsbD 0 = false := by decide +kernel

theorem wit_UnitDescriptorsIssue :
    unitDesc (.close 0 1) = some (0, 1, fun d => opIs 0x31 d && apMode d = 2, fun s e d => applyChk (s.chan 0) e (ownStation s 0) d, plainEnv) ∧
    (headState closeDesc).due 0 1 closeDesc false .apply ∧ applyChk (((headState closeDesc).taken 0 1 .apply).chan 0)
      (envOf (headState closeDesc) 0) (ownStation ((headState closeDesc).taken 0 1 .apply) 0) closeDesc = none ∧
    (opIs 0x31 closeDesc && apMode closeDesc = 2) = true ∧
    (headState badCopy).due 0 1 badCopy false .layout ∧ opIs 0x02 badCopy = true ∧
    (copyChk (histEnv 0 [18] ((headState badCopy).taken 0 1 .layout) ((headState badCopy).issued 0 1 badCopy false .layout)) badCopy).isSome = true ∧
    (let s := (headState closeDesc).modHdr (cpage 0 .route) fun h => { h with fence := true };
      grantOf s 0 = some 1 ∧ headOf 1 ((s.chan 0).stream 1) = some (⟨closeDesc, false⟩, none) ∧ dueFenced s 0 (unitFor s 0 closeDesc) closeDesc = true) := by
  refine ⟨rfl, due_of_head _ _ ?_ ?_ ?_ ?_, ?_, ?_, due_of_head _ _ ?_ ?_ ?_ ?_, ?_⟩ <;> decide +kernel

theorem wit_LinkDescriptorsIssue :
    linkDesc (.offloadGet 0 1) = some (0, 1, 0x5B, fun s _ d => offloadChk s d) ∧ opIs 0x5B getDesc = true ∧
    (headState getDesc).due 0 1 getDesc false .offload ∧ offloadChk ((headState getDesc).taken 0 1 .offload) getDesc = none ∧
    (headState zeroTag).due 0 1 zeroTag false .offload ∧ (offloadChk ((headState zeroTag).taken 0 1 .offload) zeroTag).isSome = true := by
  refine ⟨rfl, ?_, due_of_head _ _ ?_ ?_ ?_ ?_, ?_, due_of_head _ _ ?_ ?_ ?_ ?_, ?_⟩ <;> decide +kernel

theorem wit_DescCreateReduceReceiveIssue :
    (headState dropDesc).due 0 1 dropDesc false .layout ∧ opIs 0x01 dropDesc = true ∧ createFmt dropDesc = none ∧
    (headState badCreate).due 0 1 badCreate false .layout ∧ opIs 0x01 badCreate = true ∧ (createFmt badCreate).isSome = true ∧
    reduceState.due 0 1 reduceDesc false .reduce ∧ opIs 0x40 reduceDesc = true ∧
    recvState.due 0 1 recvDesc false .recv ∧ opIs 0x39 recvDesc = true ∧
    recvChk (recvState.taken 0 1 .recv) 0 recvDesc = none ∧ (recvState.chan 0).localHeld = [] ∧
    (∀ p, (recvState.port 0 p).rxHeld = [] ∧ (recvState.port 0 p).txq = []) ∧
    reduceChk (reduceState.taken 0 1 .reduce) 0 (envOf reduceState 0) reduceDesc = none := by
  refine ⟨due_of_head _ _ ?_ ?_ ?_ ?_, ?_, ?_, due_of_head _ _ ?_ ?_ ?_ ?_, ?_, ?_, due_of_head _ _ ?_ ?_ ?_ ?_, ?_,
    due_of_head _ _ ?_ ?_ ?_ ?_, ?_⟩ <;> decide +kernel

theorem wit_SequencerDescriptors :
    (headState waitDesc).due 0 1 waitDesc false .seq ∧ (∀ i : Fin 2, stackFenced (headState waitDesc) 0 i = false) ∧ opIs 0x60 waitDesc = true ∧
    stakeFmt waitDesc 0x83 = none ∧ (headState signalDesc).due 0 1 signalDesc false .seq ∧ opIs 0x61 signalDesc = true ∧
    stakeFmt signalDesc 0xC3 = none ∧ (headState tableDesc).due 0 1 tableDesc false .seq ∧ opIs 0x08 tableDesc = true ∧
    seqTableFmt tableDesc = none ∧ bitAt (fld tableDesc 24 1) 0 = false ∧
    (∀ i < 16, seqEntryBad (memRds ((headState tableDesc).chan 0).mem (fld tableDesc 16 5) 512) i = false) ∧
    (headState fetchDesc).due 0 1 fetchDesc false .seq ∧ opIs 0x68 fetchDesc = true ∧ fetchChk fetchDesc = none ∧
    ((fetchState.chan 0).stream 1).fetch = some ⟨fetchDesc, false, 0, 2, 0, [], false, false, 0, false⟩ ∧
    (fetchState.hdr (cpage 0 .seq)).enable = true ∧ (∀ i : Fin 2, stackFenced fetchState 0 i = false) := by
  refine ⟨due_of_head _ _ ?_ ?_ ?_ ?_, ?_, ?_, ?_, due_of_head _ _ ?_ ?_ ?_ ?_, ?_, ?_, due_of_head _ _ ?_ ?_ ?_ ?_, ?_, ?_, ?_, ?_,
    due_of_head _ _ ?_ ?_ ?_ ?_, ?_⟩ <;> decide +kernel

theorem wit_UnitsAtWork :
    unitRuns (flyState .vector false) 0 .vector = true ∧
    ((flyState .vector false).chan 0).fly.find? (fun g => g.unit = .vector && g.phase = .feeding) = some (aFly .vector false) ∧
    (aFly .vector false).begun = true ∧ uncommitted (goOn 0 .vector (flyState .vector false)) 0 .vector = some (aFly .vector false) ∧
    unitRuns (flyState .arrayB true) 0 .arrayB = true ∧ UnitId.arrayB = arrUnit 1 ∧ granted (flyState .arrayB true) 0 .arrayB = some (aFly .arrayB true) ∧
    underClosure (flyState .arrayB true) 0 (aFly .arrayB true) = false ∧ (flyState .arrayB true).pwr.idleWanted = false ∧
    (∀ g ∈ ((flyState .arrayB true).chan 0).fly, g.no = (aFly .arrayB true).no) ∧ (∀ i : Fin 2, stackFenced (flyState .arrayB true) 0 i = false) ∧
    unitRuns ungrantedState 0 .arrayB = true ∧ (ungrantedState.chan 0).arrays[1].grants = [(0, 7), (1, 7)] ∧
    ungrantedState.findFly 0 7 = some { aFly .arrayB true with granted := false } ∧ ungrantedState.epochOf (arrPage 0 1) = 0 := by decide +kernel

theorem wit_RampAndClosureEvents :
    rampState.Inv ∧ rampState.powered 0 = true ∧ rampMode rampState 0 0 = 0 ∧ (rampState.chan 0).arrays[0].ramp = .full ∧ holdSet rampState 0 = false ∧
    presenting rampState 0 0 = false ∧ parkSet rampState 0 = false ∧ rampState.field (cpage 0 .cpwr) 0x100 1 0 ≠ 1 ∧
    (∀ f ∈ (rampState.chan 0).fly, f.unit ≠ arrUnit 1) ∧ (rampState.chan 0).arrays[1].ramp = .rampUp ∧
    (sampleState false).Inv ∧ unitsLive (sampleState false) 0 = true ∧ parkSet (sampleState false) 0 = false ∧
    (∀ i : Fin 2, stackFenced (sampleState false) 0 i = false) ∧ closureRuns (sampleState false) 0 1 (aClosure false) = true ∧
    closurePass (sampleState false) 0 1 = some ({ aFly .arrayB true with phase := .fed }, aClosure false) ∧
    (sampleState true).Inv ∧ unitsLive (sampleState true) 0 = true ∧ parkSet (sampleState true) 0 = false ∧
    closurePass (sampleState true) 0 1 = some ({ aFly .arrayB true with phase := .fed }, aClosure true) := by
  refine ⟨rampState_inv, ?_, ?_, ?_, ?_, ?_, ?_, ?_, ?_, ?_, sampleState_inv false, ?_, ?_, ?_, ?_, ?_, sampleState_inv true, ?_⟩ <;> decide +kernel

theorem wit_RoutingAndRendezvousEvents :
    unitRuns (flyState .score false) 0 .score = true ∧ (uncommitted (flyState .score false) 0 .score).isSome = true ∧
    (flyState .score false).hostKnown = false ∧ (knownState .score).hostKnown = true ∧ (knownState .score).outqFull = false ∧
    unitRuns (knownState .score) 0 .score = true ∧ (uncommitted (knownState .score) 0 .score).isSome = true ∧
    unitsLive runningState 0 = true ∧ (runningState.chan 0).route.ctxs[2].isOpen = true ∧ (runningState.chan 0).route.ctxs[2].running = true ∧
    waitingState.hub.waiting = [(77, aPart)] ∧ aPart.chan = 0 ∧ rendezvousUsed waitingState < 8 ∧ (∀ r ∈ waitingState.hub.reductions, r.id ≠ 77) ∧
    waitingState.field (gpage .hub) 0x108 15 8 ≠ 0 ∧ oldest waitingState 0 .reduce (fun g => g.no = aPart.no) = some { aFly .reduce false with desc := reduceDesc } ∧
    aPart.no = (aFly .reduce false).no ∧ metState.hub.reductions = [⟨77, [aPart], false⟩] ∧ missingPlanes ⟨77, [aPart], false⟩ = [] ∧ present metState aPart = true ∧
    ((liveParts ⟨77, [aPart], false⟩).zipIdx.filter fun e => tooSmall metState (liveParts ⟨77, [aPart], false⟩).length e.2 e.1) = [] ∧
    (triParts triState aTri.id).filter (fun t => takesPart triState t.chan) = [aTri] ∧
    (∀ k : Fin 8, aTri.planes.getLsbD k.val = true → ∃ z ∈ [aTri], z.plane = k) ∧ portOn triState aTri.chan = true := by decide +kernel

theorem wit_PlatEvents :
    isStation stationState 2 = true ∧ stationState.chanFenced 2 = false ∧ (stationState.hdr (platPage 2)).faulted = false ∧
    (stationState.chan 2).plat.inbound[0].bound = none ∧ (stationState.chan 2).plat.inbound[1].bound ≠ some 9 ∧
    (∀ i : Fin 2, (boundState.chan 2).plat.inbound[i.val].bound ≠ none ∧ (boundState.chan 2).plat.inbound[i.val].bound ≠ some 9) ∧
    isStation boundState 2 = true ∧ boundState.chanFenced 2 = false ∧ (boundState.hdr (platPage 2)).faulted = false ∧
    (boundState.chan 2).plat.copyOut = some ⟨false, 9, 4, false⟩ ∧ (boundState.chan 2).plat.copyQueue = [] ∧ boundState.Inv ∧
    (stationState.chan 2).plat.fetched = none ∧ (sendingState.chan 2).plat.copyOut = some ⟨false, 9, 4, true⟩ ∧
    (sendingState.chan 2).plat.copyQueue = [] ∧ stationState.powered 2 = true ∧ armed stationState (platPage 2) = none ∧ (stationState.chan 2).plat.writing = none := by
  refine ⟨?_, ?_, ?_, ?_, ?_, ?_, ?_, ?_, ?_, ?_, ?_, boundState_inv, ?_⟩ <;> decide +kernel

theorem wit_HostRequestsAccepted :
    linkLive linkState = true ∧ (readFrame 1).bcast = false ∧ frProbe (readFrame 1) = false ∧ classify linkState.icp (readFrame 1).seq = .fresh ∧
    refusal 1 0 (readFrame 1) (regChk false (readFrame 1) linkState) = none ∧ refusal 2 0 writeFrame (regChk true writeFrame linkState) = none ∧
    zoneChan memFrame = some 3 ∧ refusal 4 1 memFrame (memWriteChk memFrame linkState) = none ∧ hostPath linkState 3 = true ∧ memFrame.cut = none ∧ getFrame.cut = none ∧
    (∀ i : Fin 2, stackFenced linkState 3 i = false) ∧
    refusal 5 1 getFrame (memReadChk getFrame linkState) = none ∧ refusal 7 1 batchFrame (batchChk batchFrame linkState) = none ∧
    refusal 0xB 0 planFrag (planChk planFrag linkState) = none ∧ refusal 0xE 0 attestFrame (attestChk attestFrame linkState) = none := by decide +kernel

theorem wit_RequestsRefusedOrRepeated :
    linkLive linkState = true ∧ ({ writeFrame with bcast := true } : HostFrame).bcast = true ∧ memFrame.bcast = false ∧ frProbe memFrame = false ∧
    classify linkState.icp memFrame.seq = .fresh ∧ (refusal 4 1 { memFrame with plen := 32 } (memWriteChk { memFrame with plen := 32 } linkState)).isSome = true ∧
    classify { linkState.icp with rxSeqHigh := 100, marks := [100] } 100 = .dup ∧ classify { linkState.icp with rxSeqHigh := 100000 } 4 = .stale := by decide +kernel

theorem wit_HostLinkEvents :
    upState.hostUp = true ∧ darkState.hostUp = true ∧ darkState.icp.linkUp = false ∧ darkState.supv.hmacRun = upState.supv.hmacRun ∧ upState.supv.hmacRun[0] = true ∧ upState.supv.hmacRun[1] = true ∧
    upState.supv.hmacRun[2] = true ∧ upState.takes (gpage .icp) ∧ linkLive queuedState = true ∧ ackFrame1.bcast = false ∧ ackFrame1.version = 1 ∧
    ackFrame1.plen = 0 ∧ (ackFrame1.ack - queuedState.icp.txAcked).toNat = 1 ∧ 1 ≤ (queuedState.icp.txSeq - 1 - queuedState.icp.txAcked).toNat ∧
    queuedState.icp.hostLost = false ∧ (queuedState.icp.outq.find? fun x => x.frame.seq = 1).map OutqEntry.tries = some 1 ∧
    (queuedState.icp.outq.find? fun x => x.frame.seq = 2).map OutqEntry.tries = some 2 ∧
    (∀ e ∈ queuedState.icp.outq, e.due = none) ∧ armed queuedState (gpage .icp) = none ∧ (3 : BitVec 4).toNat ∉ [1, 2, 4, 5, 7, 0xB, 0xC, 0xE] ∧
    pfcOn pfcState = true ∧ linkLive pfcState = true ∧ (255 : BitVec 8).getLsbD (classPri pfcState 1) = true := by decide +kernel

theorem wit_TraverseFlits :
    travLive portState 0 = true ∧ (portState.port 0 0).state = .active ∧ (portState.port 0 0).lockLost = false ∧
    flitCrcOk goodFlit = true ∧ (flitOf goodFlit).kind = 1 ∧ (flitOf goodFlit).seq = (portState.port 0 0).rxSeq + 1 ∧ flitInjected portState 0 0 = none ∧
    flitCrcOk badFlit = false ∧ (flitOf badFlit).kind = 1 ∧ (portState.port 0 0).nakking = false ∧ (portState.port 0 0).retryLeft = 0 ∧ (portState.port 0 1).nakking = true ∧
    (portState.port 0 1).state = .active ∧ (portState.port 0 1).lockLost = false ∧ BitVec.ofNat 12 (fld badFlit 8 4) = (portState.port 0 1).rxSeq + 1 ∧
    (portState.port 0 2).state = .training ∧ portState.planeOf 0 = some 0 ∧ (portState.port 0 2).peer = none ∧ (7 : Nat) ≠ ownStation portState 0 ∧
    (portState.port 0 2).identOk = true ∧ (portState.port 0 3).state = .off ∧ (portState.port 0 0).txq = [] ∧
    (portState.port 0 0).credits.length = 8 ∧ (portState.port 0 0).creditSeen.length = 8 ∧ (portState.port 0 0).replayedOnce = false ∧ portState.Inv := by
  and_intros <;> first | with_reducible exact goodFlit_crc | with_reducible exact badFlit_crc | with_reducible exact portState_inv | decide +kernel

theorem wit_LinkMessagesAndEvents :
    travLive portState 0 = true ∧ portState.Inv ∧ (portState.port 0 0).state = .active ∧ maySwitch portState 0 0 0 2 true = true ∧
    maySwitch portState 0 0 0 2 false = true ∧ maySwitch portState 0 0 1 2 true = false ∧ maySwitch portState 0 0 1 2 false = false ∧
    (portState.port 0 0).switchOf 1 true = none ∧ (portState.port 0 0).switchOf 1 false = none ∧ (portState.port 0 1).state = .active ∧
    (portState.port 0 1).switchOf 0 false = some ⟨0, 2, false, false, none⟩ ∧ (portState.port 0 1).switchOf 0 true = some ⟨0, 2, true, false, none⟩ ∧
    (∀ x ∈ (portState.port 0 1).switching, x.at_ = none ∧ x.wave = 2 ∧ x.fibre = 0) ∧ (portState.port 0 1).rxSeq = 0 ∧
    lseqLe 1 1 = true ∧ lseqLe 65 1 = false ∧ armed portState (travPage 0 2) = none ∧ (portState.port 0 4).state = .hold ∧
    (portState.port 0 4).rxHeld ≠ [] ∧ (portState.port 0 3).state = .off ∧ portWanted portState 0 3 = true ∧ (portState.port 0 2).state = .training ∧
    spareUsed portState 0 2 0 true = false ∧ (portState.port 0 2).light = true ∧ (portState.port 0 2).failures = 0 ∧
    (portState.port 0 5).state = .training ∧ (portState.port 0 5).light = true ∧ (portState.port 0 5).failures ≠ 0 := by
  and_intros <;> first | with_reducible exact portState_inv | decide +kernel

theorem wit_MemoryAndStakes :
    upState.Inv ∧ memWf (upState.chan 0).mem = true := ⟨upState_inv, by decide +kernel⟩

/-! ## Ill-formed commands are refused by name, one for each check -/

theorem ill_page : (Instr.drain ⟨.dense, 0, 2⟩).check = some .page := by decide +kernel
theorem ill_frameLength : (Instr.ack { ackFrame1 with payload := List.replicate 9167 0 }).check = some .frameLength := by decide +kernel
theorem ill_frameType : (Instr.nonHostTypeFrame ackFrame1 5).check = some .frameType ∧ (Instr.pfcFrame 1 [0]).check = some .frameType := by
  decide +kernel
theorem ill_pairHalf : (Instr.hiRead .icp (regAddr (cpage 0 .update) 0x100)).check = some .pairHalf := by decide +kernel
theorem ill_flitLength : (Instr.flitReceive 0 0 envBytes).check = some .flitLength := by decide +kernel
theorem ill_creditCount : (Instr.credit 0 0 [1]).check = some .creditCount := by decide +kernel
theorem ill_readings : (Instr.benchmarkRead [(.hx, List.replicate 25 0)] []).check = some .readings := by decide +kernel
theorem ill_gauge : (Instr.gaugeSample ⟨[⟨9, 0, 0, 0, 0⟩], 0, []⟩ 0 0).check = some .gauge := by decide +kernel
theorem ill_component : (Instr.switch 6).check = some .component := by decide +kernel
theorem ill_domain : (Instr.lockLoss .srtc true).check = some .domain := by decide +kernel
theorem ill_unit : (Instr.commitRequest 0 .seq).check = some .unit := by decide +kernel
theorem ill_platSlot : (Instr.nandPageError 0 true true 5 false).check = some .platSlot := by decide +kernel
theorem ill_wavelength : (Instr.forceRx 0 0 1 5).check = some .wavelength := by decide +kernel
theorem well_formed : (Instr.switch 5).check = none ∧ (Instr.drain ⟨.dense, 0, 1⟩).check = none := by decide +kernel

/-! ## Single commands -/

/-- What a test reads of an outcome. -/
def seen {α : Type} (o : Host.Outcome State Fault Refusal) (g : State → α) : Option α :=
  match o with
  | .next t => some (g t)
  | _ => none

/-- R96: BLK_ID of HBM instance 1 of channel 8 is its page's base address. -/
theorem test_blk_id : seen (exec (.registerWrite (regAddr (hbmPage 8 1) 0x000) 0) upState) State.regOut = some (some (rsOk, 0)) ∧
    (hbmPage 8 1).base = 0xA0081000 := by decide +kernel

/-- R84: a read of RETRY_CNT clears it. -/
theorem test_retry_cnt : seen (exec (.retryCntRead (travPage 4 2)) (upState.modHdr (travPage 4 2) fun h => { h with retryCnt := 3 }))
    (fun t => (t.regOut, (t.hdr (travPage 4 2)).retryCnt)) = some (some (rsOk, 3), 0) := by decide +kernel

/-- R22: the map at reset names each plane's own channel. -/
theorem test_plane_map : State.reset.supv.planeMap = 0x76543210 := rfl

/-- R112: an entry of a STAKE_SIGNAL adds its value to its stake. -/
theorem test_stake_signal : seen (exec (.stakeSignal 0 1) (headState signalDesc)) (fun t => (t.stake 0 0, (t.chan 0).issueNo)) = some (5, 1) := by
  decide +kernel

/-- R99, R119: a BATCH_FETCH of no descriptor completes FORMAT and halts its stream. -/
theorem test_fetch_format : seen (exec (.batchFetch 0 1) (headState (desc 0x68 []))) (fun t => ((t.chan 0).stream 1).halted) = some true := by
  decide +kernel

/-- R64: the bytes that a MEM_WRITE stores stand at its address. -/
theorem test_mem_write : seen (exec (.memWrite memFrame) linkState) (fun t => (memRd (t.chan 3).mem 0x40, memRd (t.chan 3).mem 0x80)) =
    some (0xAB, 0) := by decide +kernel

/-- R363: DOWN on an ACTIVE link puts it in HOLD. -/
theorem test_down : seen (exec (.down 0 0) portState) (fun t => (t.port 0 0).state) = some .hold := by decide +kernel

/-- R451: an input under-voltage in Active takes the module to Standby. -/
theorem test_uv : seen (exec .uvTrip upState) (fun t => t.pwr.power) = some .standby := by decide +kernel

/-- R352: the CRC-32C of the ASCII digits 1 to 9 is 0xE3069283, the check value of the polynomial. -/
theorem test_crc : crc32c [0x31, 0x32, 0x33, 0x34, 0x35, 0x36, 0x37, 0x38, 0x39] = 0xE3069283 := by decide +kernel

/-! ## The statements about whole steps -/

theorem wit_StepRunsFront : ({ upState with pending := [.uvTrip] } : State).pending = .uvTrip :: [] := rfl
theorem wit_IdleStep : upState.pending = [] := rfl
theorem wit_ExecKeepsQueue : (seen (exec .uvTrip upState) fun _ => ()) = some () := by decide +kernel
theorem wit_StepKeepsInv : upState.Inv ∧ ∃ t, step upState = .next t := ⟨upState_inv, _, rfl⟩
theorem wit_ComparatorTrips : upState.on = true ∧ State.reset.on = false := by decide +kernel

end Sys2Proof.Tests
end

section
/-! SUPPORT. What the module reports (frames, events, cairn entries, notes: Machine/Events.lean) leaves the page headers and the stored
registers as they are, so that an error cause changes its own page's header and no register (R88, R89). -/
namespace Sys2Proof.Machine

/-! ## Reports keep the tables -/

/-- The page headers and the stored registers of `t` are those of `s`. -/
structure SameTables (s t : State) : Prop where
  hdrs : t.hdrs = s.hdrs
  regs : t.regs = s.regs

namespace SameTables

variable {s t u : State}

theorem refl (s : State) : SameTables s s := ⟨rfl, rfl⟩

theorem trans (h : SameTables s t) (k : SameTables t u) : SameTables s u := ⟨k.hdrs.trans h.hdrs, k.regs.trans h.regs⟩

theorem hdr (h : SameTables s t) (p : Page) : t.hdr p = s.hdr p := by simp only [State.hdr, h.hdrs]

theorem reg (h : SameTables s t) (p : Page) (off : Nat) : t.reg p off = s.reg p off := by simp only [State.reg, State.regAt, h.regs]

/-- An operation done on a condition. -/
theorem when {f : State → State} (h : SameTables s (f s)) (b : Bool) : SameTables s (s.when b f) := by
  cases b
  · exact refl s
  · exact h

/-- An operation done for each element of a list. -/
theorem each {α : Type} {f : α → State → State} (hf : ∀ x s, SameTables s (f x s)) (l : List α) (s : State) : SameTables s (s.each l f) := by
  induction l generalizing s with
  | nil => exact refl s
  | cons x l ih => exact (hf x s).trans (ih (f x s))

end SameTables

variable (s : State)

theorem putFrame_sameTables (f : TxFrame) : SameTables s (putFrame f s) := ⟨rfl, rfl⟩

theorem sendOutq_sameTables : SameTables s (sendOutq s) := by
  unfold sendOutq
  split
  · exact .refl s
  · extract_lets go out s'
    have queued : SameTables s s' := ⟨rfl, rfl⟩
    exact queued.trans (.each (fun f s => putFrame_sameTables s f) out s')

theorem enqueueTx_sameTables (f : TxFrame) (src : Option (Fin 9 × Nat × Nat)) : SameTables s (enqueueTx f src s) := by
  unfold enqueueTx
  refine .trans ?_ (sendOutq_sameTables _)
  exact ⟨rfl, rfl⟩

theorem sendEvent_sameTables (e : EventRec) : SameTables s (sendEvent e s) := by
  unfold sendEvent
  split
  · exact enqueueTx_sameTables s _ none
  · exact ⟨rfl, rfl⟩

theorem ringAdd_sameTables (i : Fin 10) (e : CairnE) : SameTables s (ringAdd i e s) := by
  unfold ringAdd
  split <;> exact ⟨rfl, rfl⟩

/-- A cairn entry reaches its zone's ring or none, and then the global ring or none (R435). -/
theorem cairn_sameTables (e : CairnE) (toGlobal : Bool) : SameTables s (cairn e toGlobal s) := by
  unfold cairn
  extract_lets r s'
  have own : SameTables s s' := by
    unfold s'
    split
    · exact .refl s
    · exact ringAdd_sameTables s r e
  split
  · exact own.trans (ringAdd_sameTables s' 9 e)
  · exact own

theorem eventNoNote_sameTables (code sev zone block inst : Nat) (inj : Bool) : SameTables s (eventNoNote code sev zone block inst inj s) :=
  (cairn_sameTables s _ _).trans (sendEvent_sameTables _ _)

theorem bookAppend_sameTables (r : List Byte) : SameTables s (bookAppend r s) := by
  unfold bookAppend
  split
  · exact ⟨rfl, rfl⟩
  · extract_lets first s'
    have counted : SameTables s s' := ⟨rfl, rfl⟩
    exact counted.trans (.when (eventNoNote_sameTables s' _ _ _ _ _ _) first)

theorem note_sameTables (code zone inst block : Nat) (detail : List Byte) : SameTables s (note code zone inst block detail s) :=
  bookAppend_sameTables s _

/-! ## Causes -/

/-- The header of a page after its cause `n` has occurred at time `t` (R88, R89). -/
def Hdr.withCause (n t : Nat) (h : Hdr) : Hdr :=
  { h with
    errStat := h.errStat ||| w32 (2 ^ n)
    errFirst := if h.errFirst.getLsbD 8 then h.errFirst else w32 (n + 2 ^ 8 + bitsOf t 32 10 * 2 ^ 9) }

/-- Of the headers and the stored registers, a cause changes its own page's header alone (R88, R89). -/
theorem causeAt_sameTables (p : Page) (n : Nat) (inj : Bool) (detail : List Byte) :
    SameTables (s.modHdr p (Hdr.withCause n s.now)) (causeAt p n inj detail s) :=
  ((cairn_sameTables _ _ _).trans (.when (sendEvent_sameTables _ _) _)).trans (.when (note_sameTables _ _ _ _ _ _) _)

@[simp] theorem causeAt_regs (p : Page) (n : Nat) (inj : Bool) (detail : List Byte) : (causeAt p n inj detail s).regs = s.regs :=
  (causeAt_sameTables s p n inj detail).regs

@[simp] theorem causeAt_reg (p : Page) (n : Nat) (inj : Bool) (detail : List Byte) (q : Page) (off : Nat) :
    (causeAt p n inj detail s).reg q off = s.reg q off :=
  (causeAt_sameTables s p n inj detail).reg q off

theorem causeAt_hdr_self {s : State} (hw : s.wf) (p : Page) (n : Nat) (inj : Bool) (detail : List Byte) :
    (causeAt p n inj detail s).hdr p = (s.hdr p).withCause n s.now := by
  rw [(causeAt_sameTables s p n inj detail).hdr, State.modHdr_hdr_self hw]

end Sys2Proof.Machine
end

section
/-! SUPPORT. Register writes that a block refuses as a whole (R488): the access answers OK, every stored register stands, and CFG_REFUSED
is set. With it, the refusals of the host-port pages (R42, R77). -/
namespace Sys2Proof.Machine

/-! ## What a refusal leaves -/

@[simp] theorem cfgRefused_regs (p : Page) (s : State) : (cfgRefused p s).regs = s.regs := causeAt_regs s p 0 false noDetail

@[simp] theorem cfgRefused_reg (p q : Page) (off : Nat) (s : State) : (cfgRefused p s).reg q off = s.reg q off :=
  causeAt_reg s p 0 false noDetail q off

theorem cfgRefused_errStat {s : State} (hw : s.wf) (p : Page) : ((cfgRefused p s).hdr p).errStat = (s.hdr p).errStat ||| 1 := by
  have hdr : (cfgRefused p s).hdr p = (s.hdr p).withCause 0 s.now := causeAt_hdr_self hw p 0 false noDetail
  rw [hdr]
  rfl

/-- A write that its page refuses completes, and nothing but the refusal's cause takes place (R488). -/
theorem registerWrite_refused {s : State} {p : Page} {off : Nat} {v : W32} (h : s.takes p) (ho : off < 4096)
    (ha : assigned p.blk off = true) (hi : indirect p.blk off = false) (hw : writeSpecific .icp p off v s = cfgRefused p s) :
    exec (.registerWrite (regAddr p off) v) s = .next ((cfgRefused p s).answered rsOk 0) := by
  have h4 : off % 4 = 0 := by
    simp only [assigned, Bool.and_eq_true, decide_eq_true_eq] at ha
    exact ha.2
  have hx : exec (.registerWrite (regAddr p off) v) s = writeCmd .icp (regAddr p off) v s := rfl
  simp only [hx, writeCmd_ok (h.on ho h4) ho ha, coreForAccess_icp, hw, hi, Bool.false_eq_true, if_false]

/-! ## The refusals of ICP and HMAC -/

variable {v : W32}

theorem icpWrite_retxTimeout_refused (hv : v.toNat < 2 ∨ 1000 < v.toNat) (s : State) : icpWrite 0x114 v s = cfgRefused (gpage .icp) s := by
  have bad : (decide (v.toNat < 2) || decide (1000 < v.toNat)) = true := by simpa using hv
  simp only [icpWrite, storedUnless, bad, if_true]

/-- A value above the range is not 0, so that no record goes out either (R67). -/
theorem icpWrite_coalTime_refused (hv : 1000 < v.toNat) (s : State) : icpWrite 0x118 v s = cfgRefused (gpage .icp) s := by
  have nonzero : v ≠ 0 := by
    rintro rfl
    exact absurd hv (by decide)
  simp only [icpWrite, storedUnless, hv, nonzero, decide_true, if_true, if_false]

theorem hmacWrite_equalPriorities_refused (hv : bitsOf v.toNat 2 0 = bitsOf v.toNat 6 4) (s : State) :
    hmacWrite 0x10C v s = cfgRefused (gpage .hmac) s := by
  simp only [hmacWrite, hv, if_true]

/-- Settles O22: both writes end in the one refusal of R488. -/
theorem icpRangeRefused : Obligations.IcpRangeRefused := by
  intro v s ⟨hwf, _⟩ htakes off hoff
  refine ⟨(cfgRefused (gpage .icp) s).answered rsOk 0, ?_, rfl, cfgRefused_regs _ s, cfgRefused_errStat hwf _⟩
  obtain ⟨rfl, hv⟩ | ⟨rfl, hv⟩ := hoff
  · exact registerWrite_refused htakes (by decide) rfl rfl (icpWrite_retxTimeout_refused hv s)
  · exact registerWrite_refused htakes (by decide) rfl rfl (icpWrite_coalTime_refused hv s)

/-- Settles O28: HMAC refuses the value before it is stored, and bit 0 of ERR_STAT is CFG_REFUSED. -/
theorem equalPfcPrioritiesRefused : Obligations.EqualPfcPrioritiesRefused := by
  intro v s ⟨hwf, _⟩ htakes hv
  refine ⟨(cfgRefused (gpage .hmac) s).answered rsOk 0,
    registerWrite_refused htakes (by decide) rfl rfl (hmacWrite_equalPriorities_refused hv s), cfgRefused_reg _ _ _ s, ?_⟩
  rw [State.answered_hdr, cfgRefused_errStat hwf, BitVec.getLsbD_or]
  simp

end Sys2Proof.Machine
end

section
/-! SUPPORT. Accesses at offsets that a page does not assign (R83): the holes of the common header after CLK_DOMAIN, and the offsets from
0x100 on that hold no block-specific register. -/
namespace Sys2Proof.Machine

variable {s : State} {p : Page} {off : Nat} {v : W32}

/-! ## After the last header register -/

theorem readHeader_hole (ho : 0x30 ≤ off) : readHeader p off s = (0, s) := by
  unfold readHeader
  split
  case h_13 => rfl
  all_goals omega

theorem writeHeader_hole (path : Path) (ho : 0x30 ≤ off) : writeHeader path p off v s = s := by
  unfold writeHeader
  split
  case h_5 => rfl
  all_goals omega

/-! ## Outside the block-specific registers -/

/-- The catalogue is asked before the clock domain: the read answers OK where the domain is stopped. -/
theorem readCmd_unassigned (h : s.headerUp p) (hs : 0x100 ≤ off) (ho : off < 4096) (h4 : off % 4 = 0) (ha : assigned p.blk off = false) :
    readCmd .icp (regAddr p off) s = .next (s.answered rsOk 0) := by
  obtain ⟨up, ok, reached⟩ := h
  have hr : pathRead .icp (regAddr p off) s = (rsOk, 0, s) := by
    simp only [pathRead, pathRefuses_icp _ (regAddr_aligned p ho h4), readReg, pageOf_regAddr p off ok ho, regAddr_off p off ho,
      coreForAccess_icp, reached, ha, Nat.not_lt.mpr hs, if_true, if_false, Bool.not_false, Bool.false_eq_true]
  unfold readCmd
  rw [if_pos up, hr]
  rfl

/-- The catalogue is asked before the fence and the clock domain: the write answers OK where either would refuse a register's. -/
theorem writeCmd_unassigned (h : s.headerUp p) (hs : 0x100 ≤ off) (ho : off < 4096) (h4 : off % 4 = 0) (ha : assigned p.blk off = false)
    (v : W32) : writeCmd .icp (regAddr p off) v s = .next (s.answered rsOk 0) := by
  obtain ⟨up, ok, reached⟩ := h
  have hw : pathWrite .icp (regAddr p off) v s = (rsOk, s) := by
    simp only [pathWrite, pathWriteK, pathRefuses_icp _ (regAddr_aligned p ho h4), writeAccess, pageOf_regAddr p off ok ho,
      regAddr_off p off ho, coreForAccess_icp, reached, ha, Nat.not_lt.mpr hs, if_true, if_false, Bool.not_false, Bool.false_eq_true]
  unfold writeCmd
  rw [if_pos up, hw]
  rfl

/-- Settles O27: the offset lies in the header's hole or from 0x100 on, where the page assigns no register. -/
theorem unassignedOffsets : Obligations.UnassignedOffsets := by
  intro p off v s up ho h4 past ha
  have hx : exec (.loRead .icp (regAddr p off)) s = readCmd .icp (regAddr p off) s := rfl
  have hy : exec (.registerWrite (regAddr p off) v) s = writeCmd .icp (regAddr p off) v s := rfl
  rw [hx, hy]
  obtain hole | specific := Nat.lt_or_ge off 0x100
  · rw [readCmd_header up hole h4, writeCmd_header up hole h4, readHeader_hole past, writeHeader_hole .icp past]
    exact ⟨rfl, rfl⟩
  · exact ⟨readCmd_unassigned up specific ho h4 ha, writeCmd_unassigned up specific ho h4 ha v⟩

end Sys2Proof.Machine
end

section
/-! SUPPORT. What a command keeps and that it completes, whatever its operands and the state: `Completes` for each shape of a meaning (an access
to a register, a frame of the host, a descriptor's issue, an event of a port), then for each meaning. -/
namespace Sys2Proof.Machine

/-! ## Completion -/

/-- A meaning answers a next state, and on the way from `σ` to it has kept what every operation keeps. -/
def Completes (σ : State) (o : Out) : Prop := ∃ t, o = .next t ∧ Keeps σ t

variable {σ s t : State}

theorem Completes.next (h : Keeps σ s) : Completes σ (.next s) := ⟨s, rfl, h⟩

theorem Completes.ite {p : Prop} [Decidable p] {a b : Out} (ha : Completes σ a) (hb : Completes σ b) : Completes σ (if p then a else b) := by
  split
  · exact ha
  · exact hb

theorem Keeps.ite {p : Prop} [Decidable p] (hs : Keeps σ s) (ht : Keeps σ t) : Keeps σ (if p then s else t) := by
  split
  · exact hs
  · exact ht

/-- A meaning that an event's condition guards: where the event cannot occur nothing changes (log 4). -/
theorem Completes.guard {p : Prop} [Decidable p] (h : Keeps σ s) {a : Out} (ha : Completes σ a) : Completes σ (if p then .next s else a) :=
  .ite (.next h) ha

/-! ## Accesses to registers -/

theorem readCmd_completes (h : Keeps σ s) (path : Path) (a : W32) : Completes σ (readCmd path a s) := by
  unfold readCmd
  split
  · exact .next (Keeps.setRegOut (keeps_pathRead h path a) _)
  · exact .next h

theorem writeCmd_completes (h : Keeps σ s) (path : Path) (a v : W32) : Completes σ (writeCmd path a v s) := by
  unfold writeCmd
  split
  · exact .next (Keeps.setRegOut (keeps_pathWrite h path a v) _)
  · exact .next h

theorem rwCmd_completes (h : Keeps σ s) (a : W32) : (w : Option W32) → Completes σ (rwCmd a w s)
  | some v => writeCmd_completes h .icp a v
  | none => readCmd_completes h .icp a

/-! ## Frames of the host, events of a port, descriptors -/

theorem onLink_completes (h : Keeps σ s) {g : State → State} (hg : Keeps σ (g s)) : Completes σ (onLink g s) :=
  .ite (.next hg) (.next h)

theorem request_completes (h : Keeps σ s) (typ : Nat) (cls : Fin 2) (f : HostFrame) (own : State → Option Nak) {act : Act}
    (ha : ∀ t, Keeps σ t → SndKeeps σ (act t)) : Completes σ (onLink (fun s => request typ cls f (own s) act s) s) :=
  onLink_completes h (keeps_request h typ cls f (own s) act ha)

theorem onTrav_completes (h : Keeps σ s) (c : Fin 9) {g : State → State} (hg : Keeps σ (g s)) : Completes σ (onTrav c g s) :=
  .ite (.next hg) (.next h)

theorem issueHead_completes (h : Keeps σ s) (c : Fin 9) (st : Fin 4) (isOp : List Byte → Bool) {k : Fly → State → State}
    (hk : ∀ f t, Keeps σ t → Keeps σ (k f t)) : Completes σ (.next (issueHead c st isOp k s)) :=
  .next (keeps_issueHead h c st isOp k hk)

theorem issueUnit_completes (h : Keeps σ s) (c : Fin 9) (st : Fin 4) (isOp : List Byte → Bool) (chk : Chan → Env → List Byte → Chk)
    (copies : State → Fly → Env) : Completes σ (.next (issueHead c st isOp (issueUnit c chk copies) s)) :=
  issueHead_completes h c st isOp fun f _ k => keeps_issueUnit k c chk copies f

/-! ## Bursts (R55) -/

theorem keeps_readBurst (h : Keeps σ s) (l : List W32) (cut : Option Nat) : Keeps σ (readBurst l cut s).2.2 := by
  induction l generalizing s cut with
  | nil => exact h
  | cons a rest ih =>
    unfold readBurst
    refine ih ?_ _
    split
    · exact h
    · exact keeps_readReg h .icp a

theorem keeps_writeBurst (h : Keeps σ s) (l : List W32) (bs : List Byte) (cut : Option Nat) : Keeps σ (writeBurst l bs cut s).2 := by
  induction l generalizing s bs cut with
  | nil => exact h
  | cons a rest ih =>
    unfold writeBurst
    refine ih ?_ _ _
    split
    · exact .ite (keeps_writeReg h.draw .icp a _) h.draw
    · exact keeps_writeReg h .icp a _

end Sys2Proof.Machine
end

section
/-! SUPPORT. Each command completes and keeps what every operation keeps (O3, O4, O7): one lemma for each meaning that is more than an access, an
event of a port or an issue, and `exec_completes` for the table. -/
namespace Sys2Proof.Machine

variable {σ s t : State}

/-! ## Frames of the host -/

theorem execRegRead_completes (h : Keeps σ s) (f : HostFrame) : Completes σ (execRegRead f s) :=
  request_completes h 1 0 f (regChk false f) fun _ k => keeps_answer (keeps_readBurst k _ _) _

theorem execRegWrite_completes (h : Keeps σ s) (f : HostFrame) : Completes σ (execRegWrite f s) := by
  refine request_completes h 2 0 f (regChk true f) fun t k => ?_
  have hw : Keeps σ (writeBurst (burstAddrs f (regCount true f)) (body f) f.cut t).2 := keeps_writeBurst k _ _ _
  unfold answerFirst
  dsimp only
  split
  · exact keeps_answer hw _
  · exact hw.any

theorem execRoutePlan_completes (h : Keeps σ s) (f : HostFrame) : Completes σ (execRoutePlan f s) := by
  refine request_completes h 0xB 0 f (planChk f) fun t k => ?_
  split
  · exact keeps_answer k _
  · exact keeps_answer (keeps_planFrame k _ _ _ _) _

theorem execAttest_completes (h : Keeps σ s) (f : HostFrame) : Completes σ (execAttest f s) :=
  request_completes h 0xE 0 f (attestChk f) fun _ k => SndKeeps.pair (k.modIcp _)

theorem execReportReady_completes (h : Keeps σ s) : Completes σ (execReportReady s) := by
  unfold execReportReady
  split
  · exact .next h
  · exact .next (((h.modIcp _).modSec _).each _ fun f _ k => keeps_transmit k f)

theorem execNonHostTypeFrame_completes (h : Keeps σ s) (f : HostFrame) (typ : BitVec 4) : Completes σ (execNonHostTypeFrame f typ s) :=
  .guard h (onLink_completes h (keeps_arrival h _ _ _ _ _ fun _ k => keeps_answer k _))

theorem execAck_completes (h : Keeps σ s) (f : HostFrame) : Completes σ (execAck f s) :=
  onLink_completes h (.ite (h.bump _ _ _) (.ite (keeps_hostAck h _) h))

theorem execRetxTimeout_completes (h : Keeps σ s) (seq : W32) : Completes σ (execRetxTimeout seq s) := by
  refine .guard h ?_
  split
  · exact .next h
  · refine .guard h (.ite ?_ (.ite ?_ ?_))
    · exact .next (keeps_hostLost (keeps_takeInjection h _ _) _)
    · exact .next (keeps_hostLost (keeps_disarm h _) _)
    · exact .next (keeps_sendOutq (h.modIcp _))

theorem execEthLinkDown_completes (h : Keeps σ s) : Completes σ (execEthLinkDown s) :=
  .next (.ite ((h.draw.modIcp _).setReg _ _ _) (h.draw.modIcp _))

theorem execEthLinkUp_completes (h : Keeps σ s) : Completes σ (execEthLinkUp s) :=
  .guard h (.next (keeps_sendOutq (h.modIcp _)))

theorem execPfcFrame_completes (h : Keeps σ s) (enable : BitVec 8) (quanta : List H16) : Completes σ (execPfcFrame enable quanta s) := by
  refine onLink_completes h ?_
  have counted : ∀ b, Keeps σ (s.when b fun s => s.bump (gpage .hmac) 0x124 1) := fun b => h.when b fun _ k => k.bump _ _ _
  exact .ite (counted _) ((counted _).each _ fun _ _ k => .ite k (.ite (keeps_resumeClass k _) (k.modIcp _)))

theorem execPfcRefresh_completes (h : Keeps σ s) (k : Fin 2) (occ : Nat) : Completes σ (execPfcRefresh k occ s) :=
  onLink_completes h (.ite (keeps_sendPfc (h.modIcp _) _ _) (keeps_observeIngress h _ _))

/-! ## The sideband -/

theorem execSbRead_completes (h : Keeps σ s) (a : W32) (pec : Bool) : Completes σ (execSbRead a pec s) :=
  .guard h (.ite (.next (keeps_sbPecBad h)) (.next (keeps_sbAnswer (Keeps.setRegOut (keeps_pathRead h .sideband a) _) _ _)))

theorem execSbWrite_completes (h : Keeps σ s) (a v : W32) (pec : Bool) : Completes σ (execSbWrite a v pec s) :=
  .guard h (.ite (.next (keeps_sbPecBad h)) (.next (keeps_sbAnswer (Keeps.setRegOut (keeps_pathWrite h .sideband a v) _) _ _)))

theorem execTelem_completes (h : Keeps σ s) (q ch inst : Byte) (pec : Bool) : Completes σ (execTelem q ch inst pec s) := by
  refine .guard h (.ite (.next (keeps_sbPecBad h)) ?_)
  have hv : SndKeeps σ (telemValue q ch inst (coreForAccess .sideband s)) := keeps_telemValue (keeps_coreForAccess h _) q ch inst
  split <;> rename_i heq <;> rw [heq] at hv <;> exact .next (keeps_sbAnswer (Keeps.setRegOut hv _) _ _)

theorem execDynamicAddress_completes (h : Keeps σ s) (a : BitVec 7) : Completes σ (execDynamicAddress a s) :=
  .ite (.next (h.modPwr _)) (.next h)

theorem execLeakClear_completes (h : Keeps σ s) (path : Path) (released : Bool) : Completes σ (execLeakClear path released s) :=
  .ite (.next (Keeps.setRegOut (keeps_pathWriteK h _ _ _ _ fun _ _ k => keeps_stateReqWrite k _ _ _) _)) (.next h)

theorem execTripSeen_completes (h : Keeps σ s) (path : Path) (clear : Bool) : Completes σ (execTripSeen path clear s) :=
  .ite (writeCmd_completes h _ _ _) (readCmd_completes h _ _)

/-! ## Pages, planes, channels -/

theorem execDrained_completes (h : Keeps σ s) (p : Page) : Completes σ (execDrained p s) := .ite (.next (h.modHdr _ _)) (.next h)

theorem execResetDone_completes (h : Keeps σ s) (p : Page) : Completes σ (execResetDone p s) := .ite (.next (keeps_endReset h p)) (.next h)

theorem execRecoveryDone_completes (h : Keeps σ s) (c : Fin 9) (ok : Bool) : Completes σ (execRecoveryDone c ok s) := by
  unfold execRecoveryDone
  refine .guard h ?_
  extract_lets t
  have ended : Keeps σ t := h.modSupv rfl
  have loaded : SndKeeps σ (if railGone t c = true then (false, t) else loadComps [2, 3, 4, 5] t) := by
    split
    · exact ended
    · exact keeps_loadComps ended _
  exact .ite (.next (keeps_powerUpChan loaded.snd _ _)) (.next (keeps_failRecovery (Keeps.draw loaded.snd) _ _))

theorem execSelectorSwitchDone_completes (h : Keeps σ s) (p : Fin 8) : Completes σ (execSelectorSwitchDone p s) :=
  .guard h (.next (keeps_event (h.modSupv rfl) _ _ _ _ _))

/-! ## Descriptors and arrays -/

theorem execStagedFeedStart_completes (h : Keeps σ s) (c : Fin 9) (u : UnitId) : Completes σ (execStagedFeedStart c u s) :=
  .ite (.next (keeps_settle (keeps_feedEnd h c u) c)) (.next h)

theorem execCommitRequest_completes (h : Keeps σ s) (c : Fin 9) (u : UnitId) : Completes σ (execCommitRequest c u s) :=
  .ite (.next (keeps_commitRequest h c u)) (.next h)

theorem execCommitGrant_completes (h : Keeps σ s) (c : Fin 9) (a : Fin 2) : Completes σ (execCommitGrant c a s) :=
  .ite (.next (keeps_grantArrives h c a)) (.next h)

theorem execDescriptorCompletion_completes (h : Keeps σ s) (c : Fin 9) (u : UnitId) : Completes σ (execDescriptorCompletion c u s) :=
  .ite (.next (keeps_idleDue (keeps_descComplete h c u))) (.next h)

theorem execRouteReportCommit_completes (h : Keeps σ s) (c : Fin 9) : Completes σ (execRouteReportCommit c s) :=
  .ite (.next (keeps_reportCommit h c)) (.next h)

theorem execPlanDeadline_completes (h : Keeps σ s) (c : Fin 9) (x : Fin 4) : Completes σ (execPlanDeadline c x s) :=
  .ite (.next (keeps_deadlinePassed h c x)) (.next h)

theorem execFillMaxReached_completes (h : Keeps σ s) (c : Fin 9) (a : Fin 2) : Completes σ (execFillMaxReached c a s) :=
  .ite (.next (keeps_rampDown h c a)) (.next h)

theorem execClosureCompare_completes (h : Keeps σ s) (c : Fin 9) (a : Fin 2) : Completes σ (execClosureCompare c a s) :=
  .ite (.next (keeps_closureCompare h c a)) (.next h)

theorem execRepeatResult_completes (h : Keeps σ s) (c : Fin 9) (a : Fin 2) (x y z : Bool) : Completes σ (execRepeatResult c a x y z s) :=
  .ite (.next (keeps_repeatResult h c a x y z)) (.next h)

/-! ## Sessions and the plat store -/

theorem execTriTimeout_completes (h : Keeps σ s) (id : W32) : Completes σ (execTriTimeout id s) := .guard h (.next (keeps_failTri h id))

theorem execPlatSession_completes (h : Keeps σ s) (c : Fin 9) (m : SessionMsg) : Completes σ (execPlatSession c m s) := by
  refine .guard h (.next ?_)
  cases m with
  | request st => exact keeps_sessionRequest h c st
  | answer st ok tag => exact keeps_sessionAnswer h c st ok tag
  | fetch st gen => exact keeps_sessionFetch h c st gen
  | noImage st => exact keeps_noImage h c st

theorem execCopyComplete_completes (h : Keeps σ s) (c : Fin 9) (second : Bool) : Completes σ (execCopyComplete c second s) := by
  unfold execCopyComplete
  split
  · exact .ite (.next (keeps_startCopy (h.modPlat _ _) _ _)) (.next h)
  · exact .next h

theorem execNandPageError_completes (h : Keeps σ s) (c : Fin 9) (program retryOk : Bool) (slot : Nat) (gone : Bool) :
    Completes σ (execNandPageError c program retryOk slot gone s) := by
  refine .guard h ?_
  have taken : Keeps σ (takeInjection (platPage c) commonCover s).2 := keeps_takeInjection h _ _
  exact .ite (.next (keeps_injectedIf (keeps_transientEvent taken _ _) _ _))
    (.ite (.next (keeps_injectedIf (keeps_programLost taken _ _ _) _ _)) (.next (keeps_injectedIf (keeps_readLost taken _ _ _) _ _)))

/-! ## Memory -/

theorem execHbmUncorrectable_completes (h : Keeps σ s) (c : Fin 9) (st : Fin 2) : Completes σ (execHbmUncorrectable c st s) :=
  .ite (.next (h.bump _ _ _)) (.next h)

theorem execHbmReread_completes (h : Keeps σ s) (c : Fin 9) (st : Fin 2) (addr : BitVec 40) (ok answers : Bool) (user : MemUser) :
    Completes σ (execHbmReread c st addr ok answers user s) := by
  refine .guard h ?_
  have taken : Keeps σ (takeInjection (hbmPage c st) commonCover s).2 := keeps_takeInjection h _ _
  exact .ite (.next (keeps_injectedIf (keeps_transientEvent taken _ _) _ _)) (.next (keeps_injectedIf (keeps_hbmLasting taken _ _ _ _ _ _) _ _))

theorem execHbmWriteCrc_completes (h : Keeps σ s) (c : Fin 9) (st : Fin 2) (ok answers : Bool) (user : MemUser) :
    Completes σ (execHbmWriteCrc c st ok answers user s) := by
  refine .guard h ?_
  have taken : Keeps σ (takeInjection (hbmPage c st) (fun n => n = 17) s).2 := keeps_takeInjection h _ _
  exact .ite (.next (keeps_transientEvent (keeps_causeAt (keeps_injectedIf taken _ _) _ _ _ _) _ _))
    (.next (keeps_hbmLasting (keeps_causeAt (keeps_injectedIf taken _ _) _ _ _ _) _ _ _ _ _ _))

theorem execCacheEccError_completes (h : Keeps σ s) (c : Fin 9) (dirty ok : Bool) (user : MemUser) :
    Completes σ (execCacheEccError c dirty ok user s) := by
  refine .guard h ?_
  have taken : Keeps σ (takeInjection (cpage c .cache) commonCover s).2 := keeps_takeInjection h _ _
  have again : ∀ b, Keeps σ (injectedIf b (cpage c .cache) (transientEvent (cpage c .cache) b (takeInjection (cpage c .cache) commonCover s).2)) :=
    fun b => keeps_injectedIf (keeps_transientEvent taken _ _) _ _
  exact .ite (.next (.ite (again _) (keeps_cause ((again _).bumpField _ _ _ _ _) _ _)))
    (.next (keeps_fenceChannel (keeps_injectedIf (keeps_lastingFence (keeps_failServed taken _ _) _ _ _ _) _ _) _ _ _ _))

theorem execStackTempChange_completes (h : Keeps σ s) (c : Fin 9) (st : Fin 2) (temp : Byte) : Completes σ (execStackTempChange c st temp s) :=
  .guard h (.next (Keeps.when ((((h.setField _ _ _ _ _).setField _ _ _ _ _).setField _ _ _ _ _).setField _ _ _ _ _) _ fun _ k => keeps_cause k _ _))

theorem execMxUnresponsive_completes (h : Keeps σ s) (c : Fin 9) : Completes σ (execMxUnresponsive c s) := by
  refine .guard h ?_
  exact .next (Keeps.when (Keeps.when (keeps_setRole (keeps_sourceLost (keeps_sweep (h.modChanSame c rfl rfl)) _) _ _ _) _
    fun _ k => keeps_recallLoans k _) _ fun _ k => keeps_noSpareCheck k _)

theorem execLockLong_completes (h : Keeps σ s) (c : Fin 9) (owner : Fin 16) : Completes σ (execLockLong c owner s) :=
  .guard h (.next (keeps_cause (((keeps_modMerid h _ _).bumpField _ _ _ _ _).setField _ _ _ _ _) _ _))

theorem execArbModeChange_completes (h : Keeps σ s) (c : Fin 9) : Completes σ (execArbModeChange c s) :=
  .ite (.next (h.setField _ _ _ _ _)) (.next h)

/-! ## Links -/

theorem execFeedTag_completes (h : Keeps σ s) (c : Fin 9) (p : Fin 6) (tag : W32) : Completes σ (execFeedTag c p tag s) :=
  onTrav_completes h c (.ite h (keeps_sendLinkMsg (h.setReg _ _ _) _ _ _ _))

theorem execLinkMsgRepeat_completes (h : Keeps σ s) (c : Fin 9) (p : Fin 6) : Completes σ (execLinkMsgRepeat c p s) :=
  .ite (.next (keeps_linkRepeat h c p)) (.next h)

theorem execLockTimeout_completes (h : Keeps σ s) (c : Fin 9) (p : Fin 6) (fibre : Fin 2) (wave : Fin 5) :
    Completes σ (execLockTimeout c p fibre wave s) :=
  onTrav_completes h c (.ite h (.ite (keeps_bringupFailed h c p) (.ite h (keeps_retire h c p fibre wave true))))

theorem execTrainingRetry_completes (h : Keeps σ s) (c : Fin 9) (p : Fin 6) : Completes σ (execTrainingRetry c p s) :=
  onTrav_completes h c (.ite (keeps_sendLinkMsg h _ _ _ _) (keeps_linkCheck h c))

/-! ## Clocks and ageing -/

theorem execLockLoss_completes (h : Keeps σ s) (d : Domain) (relocks : Bool) : Completes σ (execLockLoss d relocks s) := by
  unfold execLockLoss
  refine .guard h ?_
  split
  · next c i _ =>
    refine .guard h ?_
    extract_lets once p
    have taken : SndKeeps σ (takeInjection p commonCover s) := keeps_takeInjection h _ _
    generalize takeInjection p commonCover s = r at taken ⊢
    obtain ⟨inj, u⟩ := r
    dsimp -zeta only
    extract_lets relocks down marked fenced out
    have hm : Keeps σ marked := (taken.each _ fun p _ k => keeps_powerDownBlock k p).modChanSame c rfl rfl
    have hf : Keeps σ out := (keeps_injectedIf (keeps_lastingEvent hm _ _ _ _) _ _).modChanSame c rfl rfl
    exact .ite (.next (keeps_injectedIf (keeps_transientEvent hm _ _) _ _)) (.next (.ite hf (keeps_fenceChannel hf _ _ _ _)))
  · next i _ =>
    refine .guard h ?_
    extract_lets once p
    have taken : SndKeeps σ (takeInjection p commonCover s) := keeps_takeInjection h _ _
    generalize takeInjection p commonCover s = r at taken ⊢
    obtain ⟨inj, u⟩ := r
    dsimp -zeta only
    extract_lets relocks lost down marked event out
    have hd : Keeps σ down := .ite taken (taken.each _ fun p _ k => keeps_powerDownBlock k p)
    have hm : Keeps σ marked := hd.modSupv rfl
    have hl : Keeps σ out := (keeps_injectedIf (keeps_lastingEvent hm _ _ _ _) _ _).modSupv rfl
    exact .ite (.next (keeps_injectedIf (keeps_transientEvent hm _ _) _ _))
      (.ite (.next (keeps_hostPathLost hl)) (.ite (.next (keeps_takeover hl _)) (.next (keeps_loseStandby hl))))

theorem execFreqChange_completes (h : Keeps σ s) (d : Domain) : Completes σ (execFreqChange d s) := by
  unfold execFreqChange
  split
  · split
    · exact .ite (.next ((keeps_changeEntry h _ _ _ _).modSupv rfl)) (.next h)
    · exact .next h
  · exact .ite (.next (h.modSupv rfl)) (.next h)

theorem execFreqDrainTimeout_completes (h : Keeps σ s) (d : Domain) : Completes σ (execFreqDrainTimeout d s) := by
  unfold execFreqDrainTimeout
  dsimp only
  split
  · exact .ite (.next ((keeps_event h _ _ _ _ _).modSupv rfl)) (.next h)
  · exact .ite (.next ((keeps_event h _ _ _ _ _).modSupv rfl)) (.next h)

theorem execBenchmarkRead_completes (h : Keeps σ s) (readings : List (Die × List H16)) (samples : List GaugeSample) :
    Completes σ (execBenchmarkRead readings samples s) := by
  refine .guard h (.next (Keeps.each (Keeps.each h _ fun r t k => ?_) _ fun g _ k => keeps_addSample k g))
  dsimp only
  split
  · exact .ite k (k.modChanSame _ rfl rfl)
  · exact k.modSupv rfl
  · exact k

theorem execDatumWrite_completes (h : Keeps σ s) : Completes σ (execDatumWrite s) := by
  unfold execDatumWrite
  refine .guard h ?_
  extract_lets t u
  have ht : Keeps σ t := h.each _ fun c _ k => k.each _ fun d _ k => .ite k (keeps_event (k.modChanSame _ rfl rfl) _ _ _ _ _)
  have hu : Keeps σ u := ht.modSupv rfl
  exact .guard ht (.next (hu.each _ fun _ _ k => keeps_event k _ _ _ _ _))

theorem execResurvey_completes (h : Keeps σ s) (die : Die) (atE atN : List (List H16)) (fault : Bool) :
    Completes σ (execResurvey die atE atN fault s) := by
  unfold execResurvey
  refine .ite (.next ?_) (.guard h ?_)
  · split
    · exact keeps_stopSurvey h _
    · exact h
  · extract_lets kmax allow search worst
    clear_value search
    split
    · next c d _ =>
      extract_lets b role window e0 bit
      refine .guard h ?_
      generalize search _ e0 = r
      obtain ⟨k, e, der, aged⟩ := r
      dsimp -zeta only
      extract_lets set entered unparked running told done
      have hset : Keeps σ set := (h.when _ fun _ k => keeps_setPark k _ _).modChanSame _ rfl rfl
      have hent : Keeps σ entered := by
        unfold entered
        split
        · exact keeps_changeEntry hset _ _ _ _
        · exact hset
      have htold : Keeps σ told := keeps_surveyEvents ((hent.when _ fun _ k => keeps_unPark k _).modSupv rfl) _ _ _ _ _ _ _
      exact .ite (.next ((htold.modSupv rfl).modChanSame _ rfl rfl)) (.next htold)
    · refine .guard h ?_
      extract_lets e0
      generalize search _ e0 = r
      obtain ⟨k, e, der, aged⟩ := r
      exact .next (keeps_surveyEvents (h.modSupv rfl) _ _ _ _ _ _ _)
    · exact .next h

theorem execSurveyDue_completes (h : Keeps σ s) : Completes σ (execSurveyDue s) := .ite (.next (h.modSupv rfl)) (.next h)

theorem execEpochRecord_completes (h : Keeps σ s) : Completes σ (execEpochRecord s) := .ite (.next (keeps_writeEpoch h _ _)) (.next h)

theorem execGaugeSample_completes (h : Keeps σ s) (r : SecondReading) (mv ma : H16) : Completes σ (execGaugeSample r mv ma s) :=
  .guard h (.next (Keeps.modPwr (keeps_countCorrected (h.each _ fun g _ k => keeps_addSample k g) r) _))

/-! ## Power and boot -/

theorem execIdleReached_completes (h : Keeps σ s) : Completes σ (execIdleReached s) :=
  .ite (.next (keeps_setPower ((keeps_idleDue h).modPwr _) _)) (.next (keeps_idleDue h))

theorem execUvRelease_completes (h : Keeps σ s) : Completes σ (execUvRelease s) :=
  .ite (.next (keeps_wake (h.modPwr _) _ _)) (.next h)

theorem execPhaseFail_completes (h : Keeps σ s) (rail : Fin 58) : Completes σ (execPhaseFail rail s) :=
  .guard h (.next (Keeps.when (keeps_event (keeps_cause (h.modPwr _) _ _) _ _ _ _ _) _ fun _ k => keeps_railLost k _))

theorem execThermalPark_completes (h : Keeps σ s) (c : Fin 9) (hot : Bool) : Completes σ (execThermalPark c hot s) :=
  .guard h (.next (keeps_event (keeps_cause (keeps_setPark (h.modChanSame c rfl rfl) _ _) _ _) _ _ _ _ _))

theorem execThermalTrip_completes (h : Keeps σ s) (d : Die) : Completes σ (execThermalTrip d s) := by
  unfold execThermalTrip
  refine .guard h ?_
  extract_lets t
  have ht : Keeps σ t := keeps_event (keeps_cause h _ _) _ _ _ _ _
  split
  · exact .next (.ite (keeps_removeCoreRails (.ite ht (keeps_fenceChannel ht _ _ _ _)) _) ht)
  · exact .next (keeps_lossDown ht _)

theorem execAlwaysOnPowerLoss_completes (h : Keeps σ s) : Completes σ (execAlwaysOnPowerLoss s) :=
  .next (Keeps.modPwr (.ite h (keeps_lossDown h _)) _)

theorem execLoadTimeout_completes (h : Keeps σ s) (comp : BitVec 3) (ch : Option (Fin 9)) (retryOk otherOk : Bool) :
    Completes σ (execLoadTimeout comp ch retryOk otherOk s) := by
  unfold execLoadTimeout
  split
  case isFalse => exact .next h
  case isTrue hc =>
    refine .guard h ?_
    have taken : SndKeeps σ (takeInjection (gpage .sec) commonCover s) := keeps_takeInjection h _ _
    generalize takeInjection (gpage .sec) commonCover s = r at taken ⊢
    obtain ⟨inj, u⟩ := r
    dsimp -zeta only
    refine .ite (.next (keeps_injectedIf (keeps_transientEvent taken _ _) _ _)) ?_
    extract_lets i other fell told failChan
    have hfell : Keeps σ fell := keeps_injectedIf (keeps_slotFallback taken _ _) _ _
    have htold : Keeps σ told := keeps_event hfell _ _ _ _ _
    have hfail : ∀ c t, Keeps σ t → Keeps σ (failChan c t) := fun c t k =>
      .ite (keeps_fenceChannel (k.modChanSame c rfl rfl) _ _ _ _) (keeps_setRole k _ _ _)
    refine .ite (.next (hfell.modSec _)) (.ite (.next ((keeps_orderlyDown htold).modPwr _)) (.ite (.next (keeps_orderlyDown htold)) ?_))
    split
    · exact .next (hfail _ _ htold)
    · exact .next (htold.each _ hfail)

theorem execPowerOn_completes (h : Keeps σ s) (identOk : Bool) (bad : List Die) : Completes σ (execPowerOn identOk bad s) :=
  .ite (.next (Keeps.each (keeps_powerUp (.ite (h.modPwr _) h) _) _ fun d _ k => keeps_datumBad k d)) (.next h)

theorem execInstallComplete_completes (h : Keeps σ s) (readOk : Bool) : Completes σ (execInstallComplete readOk s) := by
  unfold execInstallComplete
  split
  · exact .next h
  · extract_lets base res
    have stored : Keeps σ (res.2 s) := by
      unfold res
      split
      · dsimp only
        split
        · exact h
        · split
          · exact h
          · split
            · exact h
            · dsimp only
              split
              · exact h
              · split
                · exact keeps_putImage h _ _
                · exact keeps_putRecord h _
      · exact h
    exact .ite (.next (keeps_event (stored.modSec _) _ _ _ _ _)) (.next (keeps_event (keeps_cause (stored.modSec _) _ _) _ _ _ _ _))

/-! ## The table -/

theorem surveyCmd_completes (h : Keeps σ s) (v : Nat) : Completes σ (surveyCmd v s) := writeCmd_completes h .icp _ _

/-- Every command of the table completes, by the shape of its meaning. -/
theorem exec_completes (h : Keeps σ s) (i : Instr) : Completes σ (exec i s) := by
  unfold exec
  cases i with
  | regRead => exact execRegRead_completes h _
  | regWrite => exact execRegWrite_completes h _
  | memWrite => exact request_completes h _ _ _ (memWriteChk _) fun _ k => keeps_memWriteAct k _
  | pfcRefresh => exact execPfcRefresh_completes h _ _
  | memRead => exact request_completes h _ _ _ (memReadChk _) fun _ k => keeps_memReadAct k _ _
  | batch => exact request_completes h _ _ _ (batchChk _) fun _ k => keeps_batchAct k _
  | routePlan => exact execRoutePlan_completes h _
  | attest => exact execAttest_completes h _
  | reportReady => exact execReportReady_completes h
  | ack => exact execAck_completes h _
  | pfcFrame => exact execPfcFrame_completes h _ _
  | frameFiltered => exact .ite (.next (h.bump _ _ _)) (.next h)
  | ethLinkDown => exact execEthLinkDown_completes h
  | ethLinkUp => exact execEthLinkUp_completes h
  | retxTimeout => exact execRetxTimeout_completes h _
  | hostLostClear | enable | fence | drain | reset | errStatClear | errInject | loWrite | hiWrite | registerWrite | planeMapWrite
    | feedTagWrite | recover | swap | stateReqActive | stateReqIdle | stateReqDormant | stateReqStandby | fbookClear | cairnRelease
    | install | switch | commit | portEnWrite | abort | resume | flush | park | domainStop | domainStart
    | firstInvalidRearm | indexRangeRearm | structViolRearm | forceRx | claim | releaseIn | recopy =>
    exact writeCmd_completes h _ _ _
  | outqRoom => exact .next (keeps_releaseHeldOut h)
  | coalTime => exact .next (keeps_sendCompletions h _)
  | sbRead => exact execSbRead_completes h _ _
  | sbWrite => exact execSbWrite_completes h _ _ _
  | telem => exact execTelem_completes h _ _ _ _
  | dynamicAddress => exact execDynamicAddress_completes h _
  | smbusTimeout | ovRelease | coolantRelease => exact .next (h.modPwr _)
  | wakeN => exact .next (keeps_wake h _ _)
  | sxCoreStop | opHours => exact .ite (.next (h.modPwr _)) (.next h)
  | surveyChannels | surveyModule | surveyCancel => exact surveyCmd_completes h _
  | drained => exact execDrained_completes h _
  | resetDone => exact execResetDone_completes h _
  | retryCntRead | faultCntRead | loRead | hiRead | cbenchReadData | fbookReadData | cairnReadData | inputMvRead | inputMaRead |
    recordStatRead | attestStatRead | staleCntRead | dupCntRead | busyCnt0Read | busyCnt1Read | srcChangeCntRead | fecCorrCntRead
    | fecUncorrCntRead | fcsErrCntRead | oversizeCntRead | filterCntRead | pfcRxCntRead | pfcTxCntRead | resetXferCntRead |
    rampCntRead | lockLongCntRead | outstandingRead | satCntRead | invalidCntRead | ovfCntRead | closureExcessCntRead |
    busyCntRead | descErrCntRead | indexRangeCntRead | structViolCntRead | planLateCntRead | extraRoundCntRead | eccCorrCntRead |
    eccUncorrCntRead | stackTempRead | linkStatRead | replayCntRead => exact readCmd_completes h _ _
  | stakeVal | allocData | tableData => exact rwCmd_completes h _ _
  | recoveryDone => exact execRecoveryDone_completes h _ _
  | idleReached => exact execIdleReached_completes h
  | leakClear => exact execLeakClear_completes h _ _
  | tripSeen => exact execTripSeen_completes h _ _
  | installComplete => exact execInstallComplete_completes h _
  | arbModeChange => exact execArbModeChange_completes h _
  | lockLong => exact execLockLong_completes h _ _
  | selectorSwitchDone => exact execSelectorSwitchDone_completes h _
  | descCreate => exact issueHead_completes h _ _ _ fun _ _ k => keeps_createIssue k _ _
  | layoutCopy | matmulPass | vector | gather | merge | compact | predict | bin | routeScore | update =>
    exact issueUnit_completes h _ _ _ _ _
  | seqTable => exact issueHead_completes h _ _ _ fun _ _ k => keeps_seqTableIssue k _ _
  | routeReportCommit => exact execRouteReportCommit_completes h _
  | planDeadline => exact execPlanDeadline_completes h _ _
  | dispatch | collect | close => exact issueHead_completes h _ _ _ fun _ _ k => keeps_applyIssue k _ _
  | exchangeSend => exact issueHead_completes h _ _ _ fun _ _ k => keeps_sendIssue k _ _
  | exchangeRecv => exact issueHead_completes h _ _ _ fun _ _ k => keeps_recvIssue k _ _
  | reduce => exact issueHead_completes h _ _ _ fun _ _ k => keeps_reduceIssue k _ _
  | reduceRegister => exact .next (keeps_registerWaiting h _)
  | reduceRendezvous => exact .next (keeps_rendezvous h _)
  | reduceTimeout => exact .next (keeps_reduceTimeout h _ _)
  | platWrite => exact issueHead_completes h _ _ _ fun _ _ k => keeps_platWriteIssue k _ _
  | platRead => exact issueHead_completes h _ _ _ fun _ _ k => keeps_platReadIssue k _ _
  | triRendezvous => exact .next (keeps_triRendezvous h _)
  | triTimeout => exact execTriTimeout_completes h _
  | platSession => exact execPlatSession_completes h _ _
  | copyComplete => exact execCopyComplete_completes h _ _
  | nandPageError => exact execNandPageError_completes h _ _ _ _ _
  | loanPut | loanGet => exact issueHead_completes h _ _ _ fun _ _ k => keeps_loanIssue k _ _
  | offloadPut | offloadGet => exact issueHead_completes h _ _ _ fun _ _ k => keeps_offloadIssue k _ _
  | stakeWait => exact issueHead_completes h _ _ _ fun _ _ k => keeps_stakeWaitIssue k _ _
  | stakeSignal => exact issueHead_completes h _ _ _ fun _ _ k => keeps_stakeSignalIssue k _ _
  | batchFetch => exact issueHead_completes h _ _ _ fun _ _ k => keeps_batchFetchIssue k _ _
  | fetchBurst => exact .next (keeps_fetchBurst h _ _)
  | stagedFeedStart => exact execStagedFeedStart_completes h _ _
  | commitRequest => exact execCommitRequest_completes h _ _
  | commitGrant => exact execCommitGrant_completes h _ _
  | descriptorCompletion => exact execDescriptorCompletion_completes h _ _
  | fillMaxReached => exact execFillMaxReached_completes h _ _
  | closureMaxWait => exact .next (h.modArray _ _ _)
  | closureCompare => exact execClosureCompare_completes h _ _
  | repeatResult => exact execRepeatResult_completes h _ _ _ _ _
  | hbmUncorrectable => exact execHbmUncorrectable_completes h _ _
  | hbmReread => exact execHbmReread_completes h _ _ _ _ _ _
  | hbmWriteCrc => exact execHbmWriteCrc_completes h _ _ _ _ _
  | cacheEccError => exact execCacheEccError_completes h _ _ _ _
  | stackTempChange => exact execStackTempChange_completes h _ _ _
  | mxUnresponsive => exact execMxUnresponsive_completes h _
  | flitReceive => exact onTrav_completes h _ (keeps_flitReceive h _ _ _)
  | ident => exact onTrav_completes h _ (keeps_identReceived h _ _ _)
  | creditInit => exact onTrav_completes h _ (keeps_creditInit h _ _ _)
  | credit => exact onTrav_completes h _ (keeps_creditTotals h _ _ _)
  | nak => exact onTrav_completes h _ (keeps_nakReceived h _ _ _)
  | switchReq | laserLow => exact onTrav_completes h _ (keeps_startTxSwitch h _ _ _ _)
  | switchReady => exact onTrav_completes h _ (keeps_switchReady h _ _ _ _)
  | switchAt => exact onTrav_completes h _ (keeps_switchAt h _ _ _ _ _)
  | feedTag => exact execFeedTag_completes h _ _ _
  | feedAck => exact onTrav_completes h _ (h.modPort _ _ _)
  | down => exact onTrav_completes h _ (keeps_startCopy (keeps_linkDown h _ _) _ _)
  | linkMsgRepeat => exact execLinkMsgRepeat_completes h _ _
  | lossOfSignal => exact onTrav_completes h _ (keeps_startCopy (keeps_linkDown (h.modPort _ _ _) _ _) _ _)
  | holdExpiry => exact onTrav_completes h _ (keeps_holdExpiry h _ _)
  | windowWaitExpiry => exact onTrav_completes h _ (keeps_windowWaitExpiry h _ _)
  | marginLow | waveLockLoss => exact onTrav_completes h _ (keeps_startRxSwitch h _ _ _ _ _)
  | lightDetected => exact onTrav_completes h _ (keeps_lightDetected h _ _)
  | lockTimeout => exact execLockTimeout_completes h _ _ _ _
  | bringupRetry => exact onTrav_completes h _ (keeps_bringupFailed h _ _)
  | trainingRetry => exact execTrainingRetry_completes h _ _
  | lockLoss => exact execLockLoss_completes h _ _
  | freqChange => exact execFreqChange_completes h _
  | freqDrainTimeout => exact execFreqDrainTimeout_completes h _
  | benchmarkRead => exact execBenchmarkRead_completes h _ _
  | datumWrite => exact execDatumWrite_completes h
  | surveyDue => exact execSurveyDue_completes h
  | resurvey => exact execResurvey_completes h _ _ _ _
  | epochRecord => exact execEpochRecord_completes h
  | powerOn => exact execPowerOn_completes h _ _
  | loadTimeout => exact execLoadTimeout_completes h _ _ _ _
  | heartbeatTimeout => exact .ite (.next (keeps_takeover h _)) (.next h)
  | uvTrip | ovTrip | coolantTrip | leakTrip => exact .next (keeps_trip h _ _)
  | uvRelease => exact execUvRelease_completes h
  | inputLow | coolantWarn => exact .ite (.next (keeps_event h _ _ _ _ _)) (.next h)
  | phaseFail => exact execPhaseFail_completes h _
  | thermalPark => exact execThermalPark_completes h _ _
  | thermalTrip => exact execThermalTrip_completes h _
  | nonHostTypeFrame => exact execNonHostTypeFrame_completes h _ _
  | rampComplete => exact .next (keeps_rampEnds h _ _)
  | gaugeSample => exact execGaugeSample_completes h _ _ _
  | pauseQuantaExpiry => exact onLink_completes h (keeps_resumeClass h _)
  | alwaysOnPowerLoss => exact execAlwaysOnPowerLoss_completes h
  -- RECALL, the one command left: the name of its constructor is a word of Mathlib's.
  | _ => exact writeCmd_completes h _ _ _

/-- Settles O7: each command completes and has kept the queue. -/
theorem everyCommandCompletes : Obligations.EveryCommandCompletes := by
  intro i s
  obtain ⟨t, next, keeps⟩ := exec_completes (.refl s) i
  exact ⟨t, next, keeps.pending⟩

theorem exec_keeps {i : Instr} (h : exec i s = .next t) : Keeps s t := by
  obtain ⟨u, next, keeps⟩ := exec_completes (.refl s) i
  obtain rfl : u = t := by simpa [next] using h
  exact keeps

/-- Settles O3: a command that answers a next state has kept the queue. -/
theorem execKeepsQueue : Obligations.ExecKeepsQueue := fun _ _ _ h => (exec_keeps h).pending

/-- Settles O1: by the definition of a step. -/
theorem stepRunsFront : Obligations.StepRunsFront := by
  intro c rest s front
  rw [step, front]

/-- Settles O4: a cycle of device time keeps the invariant, and so does the command at the front, run on the state with the queue's rest. -/
theorem stepKeepsInv : Obligations.StepKeepsInv := by
  rintro s t ⟨wf, legal⟩ next
  unfold step at next
  split at next
  · obtain rfl : tick s = t := by simpa using next
    have keeps : Keeps s (tick s) := keeps_tick (.refl s)
    exact ⟨keeps.wf wf, keeps.legal legal⟩
  · have keeps := exec_keeps next
    exact ⟨keeps.wf wf, keeps.legal legal⟩

/-- Settles O5: the reset state lists nothing, and its map names each plane's own channel. -/
theorem resetInv : Obligations.ResetInv := by
  unfold Obligations.ResetInv
  decide +kernel

end Sys2Proof.Machine
end

section
/-! SUPPORT. Register reads: one block-specific register read by a command, the counters (R7), the header's counters (R84), the composed status
registers, the 64-bit pairs (R94) and the indirect data registers (R97). -/
namespace Sys2Proof.Machine

/-! ## Reads by a command -/

section
variable {s : State} {p : Page} {off : Nat} {path : Path}

theorem assigned_lt {b : Blk} {off : Nat} (h : assigned b off = true) : off < 4096 := by
  have bound : blkRegs b ≤ 15 := by cases b <;> decide
  simp only [assigned, Bool.and_eq_true, decide_eq_true_eq] at h
  omega

theorem assigned_aligned {b : Blk} {off : Nat} (h : assigned b off = true) : off % 4 = 0 := by
  simp only [assigned, Bool.and_eq_true, decide_eq_true_eq] at h
  exact h.2

/-- A register of a page that answers is read over ICP. -/
theorem readCmd_icp (h : s.answers p) (ha : assigned p.blk off = true) :
    readCmd .icp (regAddr p off) s = .next ((readSpecific .icp p off s).2.answered rsOk (readSpecific .icp p off s).1) :=
  readCmd_ok (h.on (assigned_lt ha) (assigned_aligned ha)) (assigned_lt ha) ha

/-- A page outside the channels can be reached and its domain runs: over ICP each aligned register answers, over the sideband those of R485. -/
theorem answersOn_global (hb : p.blk.isChan = false) (hp : p.ok = true) (ho : off < 4096) (h4 : off % 4 = 0)
    (hr : path = .sideband → sbReads p off = true) (up : pathUp path s = true) : s.answersOn path p off := by
  refine ⟨up, ?_, hp, by simp [unreachable, hb], by simp [State.domOn, hb]⟩
  cases path with
  | icp => exact pathRefuses_icp _ (regAddr_aligned p ho h4)
  | sideband => simp [pathRefuses, pageOf_regAddr p off hp ho, regAddr_off p off ho, hr rfl, regAddr_aligned p ho h4]

@[simp] theorem w32_toNat (v : W32) : w32 v.toNat = v := BitVec.ofNat_toNat .. |>.trans (BitVec.setWidth_eq v)

end

/-! ## Counters -/

/-- What a command of `counterOf` reads: a stored register, and clears its rc bits (R7). -/
theorem counterOf_read {i : Instr} {p : Page} {off : Nat} {rc : W32} (h : counterOf i = some (p, off, rc)) (s : State) :
    exec i s = readCmd .icp (regAddr p off) s ∧ assigned p.blk off = true ∧
      readSpecific .icp p off s = (w32 (s.reg p off).toNat, s.setReg p off (s.reg p off &&& ~~~rc)) := by
  unfold counterOf at h
  split at h <;> cases h <;> exact ⟨rfl, rfl, rfl⟩

/-- Settles O8: each command reads its register, and the register is a stored one. -/
theorem counterReadsClear : Obligations.CounterReadsClear := by
  intro i p off rc s hi up
  obtain ⟨runs, ha, reads⟩ := counterOf_read hi s
  rw [runs, readCmd_icp up ha, reads, w32_toNat]

/-- Settles O9: the two header registers are read whatever the fence and the domain. -/
theorem headerCountersClear : Obligations.HeaderCountersClear := by
  intro p s up
  exact ⟨readCmd_header up (off := 0x20) (by decide) rfl, readCmd_header up (off := 0x24) (by decide) rfl⟩

/-! ## Refused accesses (R61, R82, R83, R92, R485) -/

section
variable {s t : State} {p : Page} {a v : W32} {off : Nat} {path : Path} {st : H16}

theorem readCmd_of_pathRead (up : pathUp path s = true) (h : pathRead path a s = (st, v, t)) : readCmd path a s = .next (t.answered st v) := by
  simp only [readCmd, up, if_true, h, State.answered]

theorem writeCmd_of_pathWrite (up : pathUp path s = true) (h : pathWrite path a v s = (st, t)) :
    writeCmd path a v s = .next (t.answered st 0) := by
  simp only [writeCmd, up, if_true, h, State.answered]

/-- An access that its path refuses reaches no page. -/
theorem readCmd_pathRefused (up : pathUp path s = true) (h : pathRefuses path sbReads a = some st) :
    readCmd path a s = .next ((coreForAccess path s).answered st 0) :=
  readCmd_of_pathRead up (by simp only [pathRead, h])

theorem writeCmd_pathRefused (up : pathUp path s = true) (h : pathRefuses path sbWrites a = some st) :
    writeCmd path a v s = .next ((coreForAccess path s).answered st 0) :=
  writeCmd_of_pathWrite up (by simp only [pathWrite, pathWriteK, h])

theorem pathRefuses_icp_align (reach : Page → Nat → Bool) (h : a.toNat % 4 ≠ 0) : pathRefuses .icp reach a = some rsAlign := by
  simp [pathRefuses, h]

theorem pathRefuses_sideband_reach (reach : Page → Nat → Bool) (hp : pageOf a = some p) (hr : reach p (a.toNat % 4096) = false) :
    pathRefuses .sideband reach a = some rsAddr := by
  simp [pathRefuses, hp, hr]

/-- An aligned access over ICP that its page refuses changes nothing but the answer. -/
theorem readCmd_refused (up : pathUp .icp s = true) (h4 : a.toNat % 4 = 0) (h : readReg .icp a s = (st, 0, s)) :
    readCmd .icp a s = .next (s.answered st 0) :=
  readCmd_of_pathRead up (by simp only [pathRead, pathRefuses_icp _ h4, coreForAccess_icp, h])

theorem writeCmd_refused (up : pathUp .icp s = true) (h4 : a.toNat % 4 = 0)
    (h : ∀ k, writeAccess .icp a v k s = (st, s)) : writeCmd .icp a v s = .next (s.answered st 0) :=
  writeCmd_of_pathWrite up (by simp only [pathWrite, pathWriteK, pathRefuses_icp _ h4, coreForAccess_icp, h])

end

/-- Settles O12: each refusal is decided before any register is read or written. -/
theorem accessRefusals : Obligations.AccessRefusals := by
  intro a v s
  refine ⟨fun up h4 => ?misaligned, fun up h4 none => ?nowhere, fun p up h4 hp off => ?off, fun p up h4 hp on ho => ?specific,
    fun p hp up => ?sideband⟩
  case misaligned =>
    exact ⟨readCmd_pathRefused up (pathRefuses_icp_align _ h4), writeCmd_pathRefused up (pathRefuses_icp_align _ h4)⟩
  case nowhere =>
    exact ⟨readCmd_refused up h4 (by simp only [readReg, none]), writeCmd_refused up h4 fun k => by simp only [writeAccess, none]⟩
  case off =>
    exact ⟨readCmd_refused up h4 (by simp only [readReg, hp, off, if_true]),
      writeCmd_refused up h4 fun k => by simp only [writeAccess, hp, off, if_true]⟩
  case specific =>
    have header : ¬a.toNat % 4096 < 256 := by omega
    refine ⟨fun hole => ?_, fun ha stopped => ?_, fun ha fenced => ?_⟩
    · exact ⟨readCmd_refused up h4 (by simp [readReg, hp, on, header, hole]),
        writeCmd_refused up h4 fun k => by simp [writeAccess, hp, on, header, hole]⟩
    · exact ⟨readCmd_refused up h4 (by simp [readReg, hp, on, header, ha, stopped]),
        writeCmd_refused up h4 fun k => by simp [writeAccess, hp, on, header, ha, stopped]⟩
    · have powered : s.on = true := ?_
      exact writeCmd_refused up h4 fun k => by simp [writeAccess, hp, on, header, ha, fenced, powered]
      have host : s.hostUp = true := by simp only [pathUp, Bool.and_eq_true] at up; exact up.1
      exact host
  case sideband =>
    exact ⟨fun hr => readCmd_pathRefused up (pathRefuses_sideband_reach _ hp hr),
      fun hr => writeCmd_pathRefused up (pathRefuses_sideband_reach _ hp hr)⟩

/-! ## Status registers (R365, R451, R456, R474) -/

section
variable {s : State} {p : Page} {off : Nat} {path : Path}

/-- The power page answers over either path that has power. -/
theorem answersOn_pwr (up : pathUp path s = true) (ho : off < 4096) (h4 : off % 4 = 0) : s.answersOn path (gpage .pwr) off :=
  answersOn_global rfl rfl ho h4 (fun _ => rfl) up

theorem coreForAccess_inputMv (path : Path) (s : State) :
    (coreForAccess path s).pwr.inputMv = s.pwr.inputMv ∧ (coreForAccess path s).pwr.inputMin = s.pwr.inputMin ∧
      (coreForAccess path s).pwr.inputMa = s.pwr.inputMa ∧ (coreForAccess path s).pwr.inputPeak = s.pwr.inputPeak := by
  unfold coreForAccess
  split <;> exact ⟨rfl, rfl, rfl, rfl⟩

end

theorem travRead_linkStat (c : Fin 9) (p : Fin 6) (s : State) :
    readSpecific .icp (travPage c p) 0x100 s =
      (w32 ((s.reg (travPage c p) 0x100).toNat + (s.port c p).state.code + boolBit (!(s.port c p).switching.isEmpty) 4),
        s.setReg (travPage c p) 0x100 (s.reg (travPage c p) 0x100 &&& 0xFFFF)) := rfl

/-- Settles O11: each register is read as its block composes it. -/
theorem statusReads : Obligations.StatusReads := by
  intro s
  refine ⟨fun up => ⟨readCmd_icp up (off := 0x108) rfl, readCmd_icp up (off := 0x10C) rfl⟩,
    fun c p up => (readCmd_icp up (off := 0x100) rfl).trans (by rw [travRead_linkStat]), fun path up => ?_⟩
  obtain ⟨hv, hm, ha, hp⟩ := coreForAccess_inputMv path s
  rw [← hv, ← hm, ← ha, ← hp]
  exact ⟨readCmd_ok (answersOn_pwr up (off := 0x108) (by decide) rfl) (by decide) rfl,
    readCmd_ok (answersOn_pwr up (off := 0x10C) (by decide) rfl) (by decide) rfl,
    readCmd_ok (answersOn_pwr up (off := 0x100) (by decide) rfl) (by decide) rfl⟩

/-! ## Pairs (R94) -/

section
variable {b : Blk} {p : Page} {lo : Nat} {path : Path} {s : State}

theorem pairHalf_low (h : pairHalf b lo = some false) :
    pairHalf b (lo + 4) = some true ∧ assigned b lo = true ∧ assigned b (lo + 4) = true := by
  unfold pairHalf at h
  split at h <;> cases h <;> exact ⟨rfl, rfl, rfl⟩

theorem readSpecific_pair {half : Bool} (h : pairHalf p.blk lo = some half) : readSpecific path p lo s = readPair path p lo half s := by
  simp only [readSpecific, h]

end

/-- Settles O13: the two halves are two reads of the pair's registers. -/
theorem pairReads : Obligations.PairReads := by
  intro path p lo s pair up
  obtain ⟨high, alo, ahi⟩ := pairHalf_low pair
  refine ⟨?_, fun uphi => ?_⟩
  · exact (readCmd_ok up (assigned_lt alo) alo).trans (by rw [readSpecific_pair pair]; rfl)
  · have run := readCmd_ok uphi (assigned_lt ahi) ahi
    rw [readSpecific_pair high] at run
    have latch : (coreForAccess path s).loLatch = s.loLatch := by unfold coreForAccess; split <;> rfl
    refine ⟨fun v held => run.trans ?_, fun held => run.trans ?_⟩
    · simp only [readPair, if_true, Nat.add_sub_cancel, latch, held]
    · simp only [readPair, if_true, Nat.add_sub_cancel, latch, held]

end Sys2Proof.Machine
end

section
/-! SUPPORT. Register writes: one block-specific register written by a command, the 64-bit pairs (R94), the indirect data registers (R97),
the registers that only store (R7). -/
namespace Sys2Proof.Machine

/-! ## Writes by a command -/

section
variable {s : State} {p : Page} {off : Nat} {path : Path} {v : W32}

/-- A register that is not indirect and takes writes over ICP is written. -/
theorem writeCmd_icp (h : s.takes p) (ha : assigned p.blk off = true) (hi : indirect p.blk off = false) :
    writeCmd .icp (regAddr p off) v s = .next ((writeSpecific .icp p off v s).answered rsOk 0) := by
  rw [writeCmd_ok (h.on (assigned_lt ha) (assigned_aligned ha)) (assigned_lt ha) ha]
  simp only [hi, coreForAccess_icp, Bool.false_eq_true, if_false]

/-- An indirect data register that takes writes over ICP is written, and its index advances (R97). -/
theorem writeCmd_icp_indirect (h : s.takes p) (ha : assigned p.blk off = true) (hi : indirect p.blk off = true) :
    writeCmd .icp (regAddr p off) v s = .next ((advance .icp p (writeSpecific .icp p off v s)).answered rsOk 0) := by
  rw [writeCmd_ok (h.on (assigned_lt ha) (assigned_aligned ha)) (assigned_lt ha) ha]
  simp only [hi, coreForAccess_icp, if_true]

end

/-! ## Pairs (R94) -/

section
variable {b : Blk} {p : Page} {lo : Nat} {path : Path} {s : State} {v : W32}

theorem indirect_of_pairHalf {half : Bool} (h : pairHalf b lo = some half) : indirect b lo = false := by
  unfold pairHalf at h
  split at h <;> cases h <;> rfl

theorem writeSpecific_pair {half : Bool} (h : pairHalf p.blk lo = some half) :
    writeSpecific path p lo v s = if pairRw p.blk then pairWrite path p lo half v s else s := by
  simp only [writeSpecific, h]

/-- A half of a pair is written over ICP, or the write is ignored (R7, R94). -/
theorem writeCmd_pair {half : Bool} (h : s.takes p) (ha : assigned p.blk lo = true) (pair : pairHalf p.blk lo = some half) :
    writeCmd .icp (regAddr p lo) v s = .next ((if pairRw p.blk then pairWrite .icp p lo half v s else s).answered rsOk 0) := by
  rw [writeCmd_icp h ha (indirect_of_pairHalf pair), writeSpecific_pair pair]

end

/-- Settles O14: UPDATE holds the pairs that software writes. -/
theorem pairWrites : Obligations.PairWrites := by
  intro p lo v s pair up
  obtain ⟨high, alo, ahi⟩ := pairHalf_low pair
  have low := writeCmd_pair (v := v) up alo pair
  have both := writeCmd_pair (v := v) up ahi high
  refine ⟨fun rw => ?_, fun ro => ?_⟩
  · simp only [pairRw, rw, decide_true, if_true] at low both
    refine ⟨low, fun l held => both.trans ?_, fun held => both.trans ?_⟩
    · simp only [pairWrite, if_true, Nat.add_sub_cancel, held]
      rfl
    · simp only [pairWrite, if_true, Nat.add_sub_cancel, held]
  · simp only [pairRw, ro, decide_false, Bool.false_eq_true, if_false] at low both
    exact ⟨low, both⟩

/-! ## Indirect data registers (R97) -/

section
variable {c : Fin 9} {s : State}

theorem idxAddr_icp (p : Page) (off : Nat) : idxAddr .icp p off = p.base + off := by simp [idxAddr, pathNum]

@[simp] theorem idx_icp (s : State) (p : Page) (off : Nat) : s.idx .icp p off = s.reg p off := by
  simp only [State.idx, State.reg, idxAddr_icp]

@[simp] theorem setIdx_icp (s : State) (p : Page) (off : Nat) (v : W32) : s.setIdx .icp p off v = s.setReg p off v := by
  simp only [State.setIdx, State.setReg, idxAddr_icp]

theorem advance_seq (c : Fin 9) (s : State) :
    advance .icp (cpage c .seq) s = s.setReg (cpage c .seq) 0x10C (w32 (nextIdx 1024 1024 (s.reg (cpage c .seq) 0x10C).toNat)) := by
  simp only [advance, cpage, idx_icp, setIdx_icp]

theorem advance_layout (c : Fin 9) (s : State) :
    advance .icp (cpage c .layout) s = s.setReg (cpage c .layout) 0x100 (w32 (nextIdx 16384 16384 (s.reg (cpage c .layout) 0x100).toNat)) := by
  simp only [advance, cpage, idx_icp, setIdx_icp]

theorem advance_bearing (c : Fin 9) (s : State) :
    advance .icp (cpage c .bearing) s = s.setReg (cpage c .bearing) 0x104 (w32 (nextIdx 320 512 (s.reg (cpage c .bearing) 0x104).toNat)) := by
  simp only [advance, cpage, idx_icp, setIdx_icp]

theorem advance_cbench (c : Fin 9) (s : State) :
    advance .icp (cpage c .cbench) s = s.setReg (cpage c .cbench) 0x100 (w32 (nextIdx 192 256 (s.reg (cpage c .cbench) 0x100).toNat)) := by
  simp only [advance, cpage, idx_icp, setIdx_icp]

theorem readSpecific_tableData (c : Fin 9) (s : State) :
    readSpecific .icp (cpage c .bearing) 0x108 s =
      if (s.reg (cpage c .bearing) 0x104).toNat < 320 then
        (w32 (bearingEntry s c (s.reg (cpage c .bearing) 0x104).toNat), advance .icp (cpage c .bearing) s)
      else (w32 (Config.free s.draws).toNat, advance .icp (cpage c .bearing) s.draw.2) := by
  have run : readSpecific .icp (cpage c .bearing) 0x108 s =
      (w32 (bearingRead c 0x108 s).1, advance .icp (cpage c .bearing) (bearingRead c 0x108 s).2) := rfl
  have data : bearingRead c 0x108 s = if (s.reg (cpage c .bearing) 0x104).toNat < 320
      then (bearingEntry s c (s.reg (cpage c .bearing) 0x104).toNat, s) else ((Config.free s.draws).toNat, s.draw.2) := rfl
  rw [run, data]
  split <;> rfl

theorem readSpecific_cbenchData (c : Fin 9) (s : State) :
    readSpecific .icp (cpage c .cbench) 0x104 s =
      if (s.reg (cpage c .cbench) 0x100).toNat < 192 then
        (w32 (benchWord (s.chan c).bench (s.reg (cpage c .cbench) 0x100).toNat), advance .icp (cpage c .cbench) s)
      else (w32 (Config.free s.draws).toNat, advance .icp (cpage c .cbench) s.draw.2) := by
  have run : readSpecific .icp (cpage c .cbench) 0x104 s =
      (w32 (cbenchRead c 0x104 s).1, advance .icp (cpage c .cbench) (cbenchRead c 0x104 s).2) := rfl
  have data : cbenchRead c 0x104 s = if (s.reg (cpage c .cbench) 0x100).toNat < 192
      then (benchWord (s.chan c).bench (s.reg (cpage c .cbench) 0x100).toNat, s) else ((Config.free s.draws).toNat, s.draw.2) := rfl
  rw [run, data]
  split <;> rfl

end

/-- The recorders are read from state that the access over either path leaves as it is. -/
theorem recorderWords (path : Path) (s : State) (p : Page) (off i j : Nat) :
    (coreForAccess path s).idx path p off = s.idx path p off ∧ bookWord (coreForAccess path s).book i = bookWord s.book i ∧
      cairnWord (coreForAccess path s) i j = cairnWord s i j := by
  unfold coreForAccess
  split <;> exact ⟨rfl, rfl, rfl⟩

/-- Settles O15: each data register reads the element and advances its page's index. -/
theorem indirectReads : Obligations.IndirectReads := by
  intro c s
  refine ⟨fun up => ?stake, fun up => ?alloc, fun up => ?table, fun up => ?bench, fun path up => ?recorders⟩
  case stake =>
    have run : readSpecific .icp (cpage c .seq) 0x110 s =
      (w32 (s.stake c (s.reg (cpage c .seq) 0x10C).toNat).toNat, advance .icp (cpage c .seq) s) := rfl
    rw [w32_toNat, advance_seq] at run
    exact (readCmd_icp up (off := 0x110) rfl).trans (by rw [run]; rfl)
  case alloc =>
    have run : readSpecific .icp (cpage c .layout) 0x104 s =
      (w32 (allocWord (s.chan c) (s.reg (cpage c .layout) 0x100).toNat), advance .icp (cpage c .layout) s) := rfl
    rw [advance_layout] at run
    exact (readCmd_icp up (off := 0x104) rfl).trans (by rw [run]; rfl)
  case table =>
    refine (readCmd_icp up (off := 0x108) rfl).trans ?_
    rw [readSpecific_tableData, w32_toNat, advance_bearing, advance_bearing]
    split <;> rfl
  case bench =>
    refine (readCmd_icp up (off := 0x104) rfl).trans ?_
    rw [readSpecific_cbenchData, w32_toNat, advance_cbench, advance_cbench]
    split <;> rfl
  case recorders =>
    have book := readCmd_ok (answersOn_global (p := gpage .fbook) rfl rfl (off := 0x110) (by decide) rfl (fun _ => rfl) up) (by decide) rfl
    have cairn := readCmd_ok (answersOn_global (p := gpage .cairn) rfl rfl (off := 0x108) (by decide) rfl (fun _ => rfl) up) (by decide) rfl
    have bookRun (u : State) : readSpecific path (gpage .fbook) 0x110 u =
      (w32 (bookWord u.book (u.idx path (gpage .fbook) 0x10C).toNat).toNat, advance path (gpage .fbook) u) := rfl
    have cairnRun (u : State) : readSpecific path (gpage .cairn) 0x108 u =
      (w32 (cairnWord u ((u.idx path (gpage .cairn) 0x104).toNat / 65536) ((u.idx path (gpage .cairn) 0x104).toNat % 65536)).toNat,
        advance path (gpage .cairn) u) := rfl
    rw [bookRun, w32_toNat, (recorderWords path s _ _ 0 0).1, (recorderWords path s (gpage .fbook) 0 _ 0).2.1] at book
    rw [cairnRun, w32_toNat, (recorderWords path s _ _ 0 0).1, (recorderWords path s (gpage .cairn) 0 _ _).2.2] at cairn
    exact ⟨book, cairn⟩

theorem tableWrite_refused {c : Fin 9} {v : W32} {s : State} (hi : (s.reg (cpage c .bearing) 0x104).toNat < 320)
    (bad : bitsOf (v.toNat % 256) 2 0 = 6 ∨ bitsOf (v.toNat % 256) 4 3 = 3 ∨ bitsOf (v.toNat % 256) 7 5 ≠ 0) :
    tableWrite c v s = cause (cpage c .bearing) 0 s := by
  have refused : (bitsOf (v.toNat % 256) 2 0 = 6 || bitsOf (v.toNat % 256) 4 3 = 3 || bitsOf (v.toNat % 256) 7 5 ≠ 0) = true := by
    simpa only [Bool.or_eq_true, decide_eq_true_eq, or_assoc] using bad
  simp only [tableWrite, Nat.not_le.mpr hi, if_false, refused, if_true, cfgRefused]

theorem tableWrite_taken {c : Fin 9} {v : W32} {s : State} (hi : (s.reg (cpage c .bearing) 0x104).toNat < 320)
    (ok : bitsOf (v.toNat % 256) 2 0 ≠ 6 ∧ bitsOf (v.toNat % 256) 4 3 ≠ 3 ∧ bitsOf (v.toNat % 256) 7 5 = 0) :
    tableWrite c v s = s.modChan c fun ch =>
      { ch with bearing := spSet (fun _ => (7 : W32)) ch.bearing (s.reg (cpage c .bearing) 0x104).toNat (w32 (v.toNat % 256)) } := by
  obtain ⟨port, fibre, reserved⟩ := ok
  simp only [tableWrite, Nat.not_le.mpr hi, if_false, port, fibre, reserved, decide_false, ne_eq, not_true_eq_false, Bool.or_false,
    Bool.false_eq_true]

/-- Settles O16: the element is written, or refused, and the index advances. -/
theorem indirectWrites : Obligations.IndirectWrites := by
  intro c v s
  have table (up : s.takes (cpage c .bearing)) : exec (.tableData c (some v)) s =
      .next ((advance .icp (cpage c .bearing) (tableWrite c v s)).answered rsOk 0) := by
    have write : writeSpecific .icp (cpage c .bearing) 0x108 v s = tableWrite c v s := rfl
    have run := writeCmd_icp_indirect (v := v) up (off := 0x108) rfl rfl
    rw [write] at run
    exact run
  refine ⟨fun up => ?_, fun up => writeCmd_icp_indirect up (off := 0x104) rfl rfl, fun up hi => ⟨fun bad => ?_, fun ok => ⟨_, ?_, rfl⟩⟩⟩
  · have run := writeCmd_icp_indirect (v := v) up (off := 0x110) rfl rfl
    rw [advance_seq] at run
    exact run
  · rw [table up, tableWrite_refused hi bad]
  · have run := table up
    rw [advance_bearing, tableWrite_taken hi ok] at run
    exact run

/-! ## Header commands (R84, R404, R405) -/

/-- Settles O17: each command is one write of BLK_CTRL. -/
theorem headerControlCommands : Obligations.HeaderControlCommands := by
  intro p on s up
  have write (v : W32) : writeCmd .icp (regAddr p 0x08) v s = .next ((blkCtrlWrite .icp p v s).answered rsOk 0) :=
    writeCmd_header up (by decide) rfl v
  exact ⟨write _, write _, write _, write _⟩

/-! ## Registers that only store (R7) -/

/-- A write of VALID alone to a capture register clears it and keeps the captured fields. -/
theorem clear_valid (x : W32) :
    ((x &&& ~~~(0 : W32)) ||| ((0x80000000 : W32) &&& 0)) &&& ~~~((0x80000000 : W32) &&& 0x80000000) = x &&& 0x7FFFFFFF := by
  have kept : ((x &&& BitVec.allOnes 32) ||| 0#32) = x := by rw [BitVec.and_allOnes, BitVec.or_zero]
  exact congrArg (· &&& (0x7FFFFFFF : W32)) kept

/-- Settles O21: the pages named have no rule of their own for a write. -/
theorem storedRegisterWrites : Obligations.StoredRegisterWrites := by
  refine ⟨fun p off v w w1c rc rst s up _ _ ha blk pair direct masks => ?_, fun c s up => ?_, fun c s up => ⟨?_, ?_⟩⟩
  · have stored : writeSpecific .icp p off v s = storedWrite p off v s := by
      simp only [writeSpecific, pair]
      rcases blk with h | h | h | h | h | h | h <;> simp only [h]
    have run := writeCmd_icp (v := v) up ha direct
    rw [stored] at run
    simp only [storedWrite, masks] at run
    exact run
  · have write : writeSpecific .icp (cpage c .numw) 0x114 0x80000000 s = storedWrite (cpage c .numw) 0x114 0x80000000 s := rfl
    have run := writeCmd_icp (v := 0x80000000) up (off := 0x114) rfl rfl
    rw [write] at run
    rw [← clear_valid]
    exact run
  · rw [← clear_valid]
    exact writeCmd_icp up (off := 0x104) rfl rfl
  · rw [← clear_valid]
    exact writeCmd_icp up (off := 0x10C) rfl rfl

end Sys2Proof.Machine
end

section
/-! SUPPORT. Decisions and grants of the Meridian (R325, R329). -/
namespace Sys2Proof.Machine

/-! ## The rank that is served -/

section
variable {α : Type} (raised : α → Bool) (rank : α → Nat)

/-- The largest rank of the elements that raise a request, at least `t`. -/
def topRank (t : Nat) (l : List α) : Nat := l.foldl (fun t p => if raised p then max t (rank p) else t) t

theorem topRank_ge (t : Nat) (l : List α) : t ≤ topRank raised rank t l := by
  induction l generalizing t with
  | nil => exact Nat.le_refl t
  | cons x l ih =>
    refine Nat.le_trans ?_ (ih _)
    dsimp only
    split <;> omega

theorem rank_le_topRank (t : Nat) {l : List α} {p : α} (hp : p ∈ l) (hr : raised p = true) : rank p ≤ topRank raised rank t l := by
  induction l generalizing t with
  | nil => cases hp
  | cons x l ih =>
    rcases List.mem_cons.mp hp with rfl | hp
    · refine Nat.le_trans ?_ (topRank_ge raised rank _ l)
      simp only [hr, if_true]
      omega
    · exact ih _ hp

theorem topRank_attained (t : Nat) (l : List α) :
    topRank raised rank t l = t ∨ ∃ p ∈ l, raised p = true ∧ rank p = topRank raised rank t l := by
  induction l generalizing t with
  | nil => exact .inl rfl
  | cons x l ih =>
    have step : topRank raised rank t (x :: l) = topRank raised rank (if raised x then max t (rank x) else t) l := rfl
    rw [step]
    rcases ih (if raised x then max t (rank x) else t) with same | ⟨p, hp, hr, he⟩
    · cases hx : raised x with
      | false => exact .inl (by simpa [hx] using same)
      | true =>
        rcases Nat.le_total (rank x) t with le | ge
        · exact .inl (by simpa [hx, Nat.max_eq_left le] using same)
        · exact .inr ⟨x, List.mem_cons_self, hx, by simpa [hx, Nat.max_eq_right ge] using same.symm⟩
    · exact .inr ⟨p, List.mem_cons_of_mem _ hp, hr, he⟩

end

/-! ## Round-robin order -/

/-- How many ports precede one in the round-robin order that begins after `r`. -/
def turn (r p : Fin 16) : Nat := (p.val + 15 - r.val) % 16

/-- The port that follows `i` others in the round-robin order that begins after `r`. -/
def portAt (r : Fin 16) (i : Nat) : Fin 16 := ⟨(r.val + 1 + i) % 16, by omega⟩

theorem portAt_turn (r p : Fin 16) : portAt r (turn r p) = p := by
  apply Fin.ext
  simp only [portAt, turn]
  omega

theorem turn_portAt (r : Fin 16) {i : Nat} (hi : i < 16) : turn r (portAt r i) = i := by
  simp only [portAt, turn]
  omega

theorem turn_lt (r p : Fin 16) : turn r p < 16 := Nat.mod_lt _ (by decide)

theorem portsAfter_eq (r : Fin 16) : portsAfter r = (List.range 16).map (portAt r) := rfl

theorem find_portsAfter_none {r : Fin 16} {test : Fin 16 → Bool} : (portsAfter r).find? test = none ↔ ∀ p, test p = false := by
  simp only [portsAfter_eq, List.find?_eq_none, List.mem_map, List.mem_range, Bool.not_eq_true]
  exact ⟨fun h p => h p ⟨turn r p, turn_lt r p, portAt_turn r p⟩, fun h p _ => h p⟩

/-- The port found passes the test, and no port before it in the order does. -/
theorem find_portsAfter_some {r p : Fin 16} {test : Fin 16 → Bool} (h : (portsAfter r).find? test = some p) :
    test p = true ∧ ∀ q, test q = true → turn r p ≤ turn r q := by
  rw [portsAfter_eq, List.find?_map, Option.map_eq_some_iff] at h
  obtain ⟨i, found, rfl⟩ := h
  obtain ⟨passes, hi, before⟩ := List.find?_range_eq_some.mp found
  have hi : i < 16 := List.mem_range.mp hi
  refine ⟨passes, fun q hq => ?_⟩
  rw [turn_portAt r hi]
  by_contra earlier
  have fails := before (turn r q) (by omega)
  simp only [Function.comp_apply, portAt_turn, hq, Bool.not_true, Bool.false_eq_true] at fails

/-! ## The decision and the grant -/

section
variable {rank : W32} {m : MeridS}

/-- The rank served: the highest of the ports that request. -/
def servedRank (rank : W32) (m : MeridS) : Nat := topRank m.raised (fun p => (rankOf rank p).val) 0 allMeridPorts

theorem decision_unlocked (h : m.lock = none) :
    decision rank m = (portsAfter (m.rr[servedRank rank m]?.getD 0)).find? fun p => m.raised p && (rankOf rank p).val = servedRank rank m := by
  simp only [decision, h]
  rfl

theorem rankOf_le_servedRank {p : Fin 16} (h : m.raised p = true) : (rankOf rank p).val ≤ servedRank rank m :=
  rank_le_topRank m.raised (fun p => (rankOf rank p).val) 0 (List.mem_finRange p) h

/-- Some port that requests has the rank served, if any port requests. -/
theorem servedRank_raised {p : Fin 16} (h : m.raised p = true) : ∃ q, m.raised q = true ∧ (rankOf rank q).val = servedRank rank m := by
  rcases topRank_attained m.raised (fun p => (rankOf rank p).val) 0 allMeridPorts with zero | ⟨q, _, hq, he⟩
  · have le : (rankOf rank p).val ≤ servedRank rank m := rankOf_le_servedRank h
    exact ⟨p, h, Nat.le_antisymm le (zero.trans_le (Nat.zero_le _))⟩
  · exact ⟨q, hq, he⟩

theorem decision_eq_none (h : m.lock = none) : decision rank m = none ↔ ∀ p, m.raised p = false := by
  rw [decision_unlocked h, find_portsAfter_none]
  refine ⟨fun nobody p => ?_, fun none p => by simp [none p]⟩
  by_contra hp
  obtain ⟨q, hq, he⟩ := servedRank_raised (rank := rank) (Bool.not_eq_false _ ▸ hp : m.raised p = true)
  simpa [hq, he] using nobody q

theorem decision_eq_some {p : Fin 16} (h : m.lock = none) (hd : decision rank m = some p) :
    m.raised p = true ∧ (∀ q, m.raised q = true → rankOf rank q ≤ rankOf rank p) ∧
      ∀ q, m.raised q = true → rankOf rank q = rankOf rank p →
        turn (m.rr[(rankOf rank p).val]) p ≤ turn (m.rr[(rankOf rank p).val]) q := by
  rw [decision_unlocked h] at hd
  obtain ⟨passes, first⟩ := find_portsAfter_some hd
  obtain ⟨hp, served⟩ : m.raised p = true ∧ (rankOf rank p).val = servedRank rank m := by simpa using passes
  have last : m.rr[servedRank rank m]?.getD 0 = m.rr[(rankOf rank p).val] := by
    rw [← served]
    simp
  rw [last] at first
  exact ⟨hp, fun q hq => by rw [Fin.le_def, served]; exact rankOf_le_servedRank hq,
    fun q hq he => first q (by simp [hq, he, served])⟩

theorem decision_locked {o : Fin 16} (h : m.lock = some o) : decision rank m = if m.raised o then some o else none := by
  simp only [decision, h]

end

theorem grantPort_cons (rank : W32) (p : Fin 16) {m : MeridS} {r : MRun} {l : List MRun} (h : m.queue[p.val] = r :: l) :
    grantPort rank p m =
      ({ m with queue := m.queue.set p.val (if r.count ≤ 1 then l else { r with count := r.count - 1 } :: l), owner := p,
                rr := m.rr.set (rankOf rank p).val p, lock := if r.lock then some p else m.lock },
        some ⟨p, { r with count := 1 }, 0⟩) := by
  simp only [grantPort, h]

theorem readSpecific_outstanding (c : Fin 9) (s : State) :
    readSpecific .icp (cpage c .merid) 0x10C s =
      (w32 ((s.chan c).merid.occupancy + (s.chan c).merid.peak * 2 ^ 16), s.modMerid c fun m => { m with peak := 0 }) := rfl

/-- Settles O10: the read of the tracker's register, the arbiter's choice and the grant. -/
theorem meridianDecides : Obligations.MeridianDecides := by
  refine ⟨fun c s up => ?_, fun rank m => ⟨fun h => ⟨decision_eq_none h, fun p => decision_eq_some h⟩, fun o => decision_locked,
    fun p r l h => ?_⟩⟩
  · have run := readCmd_icp up (off := 0x10C) rfl
    rw [readSpecific_outstanding] at run
    exact run
  · dsimp only
    rw [grantPort_cons rank p h]
    refine ⟨rfl, rfl, by simp, by simp, rfl, fun q hq => ?_⟩
    have apart : p.val ≠ q.val := fun e => hq (Fin.ext e.symm)
    simp [Vector.getElem_set_ne, apart]

end Sys2Proof.Machine
end

section
/-! SUPPORT. Relations between the states before and after an operation, by the updates that keep them, from the fewest to the most: what the
module reports (`Reporting`), descriptors that finish in their streams (`Finishing`), the work of a channel (`Work`), its links (`Links`), and
the registers too (`Frame`). One lemma for each operation says that it stays within such a relation, so a fence, a reset or a power-down of a
block does. -/
namespace Sys2Proof.Machine

/-! ## What the work of a channel leaves -/

/-- The parts of a channel that its work never changes. -/
def Chan.standing (ch : Chan) : Role × Bool × Bool × Vector Bool 6 × Vector Bool 6 × Vector Bool 6 × Bool :=
  (ch.role, ch.answers, ch.filling, ch.domRun, ch.domLost, ch.domOnce, ch.thermalPark)

/-- What finishing a queued descriptor leaves of its channel, beside the stream it stood in: the standing parts, the descriptors in flight, the
other streams, and each array's ramp and closure work. -/
structure Chan.Finishes (x y : Chan) : Prop where
  standing : y.standing = x.standing
  fly : y.fly = x.fly
  streams : y.streams = x.streams
  ports : y.ports = x.ports
  ramp : ∀ a : Fin 2, y.arrays[a.val].ramp = x.arrays[a.val].ramp
  closure : ∀ a : Fin 2, y.arrays[a.val].closure = x.arrays[a.val].closure

/-- What an update of a channel's work and links leaves: the standing parts. It issues nothing, so every descriptor in flight was so before, with
its number and its body, and committed if it was; and it starts no closure work. -/
structure Chan.Moves (x y : Chan) : Prop where
  standing : y.standing = x.standing
  fly : ∀ g ∈ y.fly, ∃ f ∈ x.fly, f.no = g.no ∧ f.desc = g.desc ∧ (f.committed = true → g.committed = true)
  closure : ∀ a : Fin 2, x.arrays[a.val].closure = none → y.arrays[a.val].closure = none

theorem Chan.Moves.of_same {x y : Chan} (standing : y.standing = x.standing) (fly : y.fly = x.fly) (arrays : y.arrays = x.arrays) : x.Moves y where
  standing := standing
  fly g hg := ⟨g, fly ▸ hg, rfl, rfl, id⟩
  closure a h := by rw [arrays]; exact h

/-- What an update of a channel's work leaves: its ports too. -/
structure Chan.Works (x y : Chan) : Prop extends Chan.Moves x y where
  ports : y.ports = x.ports

theorem Chan.Finishes.works {x y : Chan} (h : x.Finishes y) : x.Works y where
  standing := h.standing
  fly g hg := ⟨g, h.fly ▸ hg, rfl, rfl, id⟩
  closure a hx := (h.closure a).trans hx
  ports := h.ports

/-- The supervisor's state beside the surveys asked for, due and under way. -/
def SupvS.standing (v : SupvS) : SupvS := { v with surveyPending := 0, surveyRunning := 0, surveyAsked := 0 }

/-- A relation that every update of what the module reports keeps: frames and events, the field book, the cairn, the page headers. -/
structure Reporting (R : State → State → Prop) : Prop where
  refl : ∀ s, R s s
  trans : ∀ {s t u}, R s t → R t u → R s u
  icp : ∀ s f, R s (s.modIcp f)
  book : ∀ s f, R s (s.modBook f)
  records : ∀ s (rings : Vector Ring 10) (slots : List CairnSlot), R s { s with rings, slots }
  sent : ∀ s (sent : List Sent), R s { s with sent }
  hdrs : ∀ s (hdrs : List (Nat × Hdr)), R s { s with hdrs }

/-- The counters and captures that the work of a channel writes. -/
def workReg : Blk → Nat → Bool
  | .cache, off | .gather, off => [0x100, 0x104, 0x108, 0x10C].contains off
  | .numw, off => [0x100, 0x104, 0x108, 0x10C, 0x110, 0x114, 0x120].contains off
  | .layout, off | .cpwr, off => off == 0x108
  | .dense, off | .hub, off => off == 0x10C
  | .trav, off => [0x100, 0x110].contains off
  | _, _ => false

/-- A relation that every update of reports keeps, and of finishing the descriptors that are queued in the streams `P`. -/
structure Finishing (P : Fin 9 → Fin 4 → Prop) (R : State → State → Prop) : Prop extends Reporting R where
  rejected : ∀ s c v, R s (s.setReg (cpage c .layout) 0x108 v)
  stream : ∀ s c st f, P c st → R s (s.modStream c st f)
  finished : ∀ s c f, (∀ x : Chan, x.Finishes (f x)) → R s (s.modChan c f)

/-- A relation that every update of reports and of the work of a channel keeps. -/
structure Work (R : State → State → Prop) : Prop extends Finishing (fun _ _ => True) R where
  hub : ∀ s f, (∀ h, (f h).loans = h.loans) → R s (s.modHub f)
  supv : ∀ s f, (∀ v, (f v).standing = v.standing) → R s (s.modSupv f)
  draws : ∀ s (draws : Nat), R s { s with draws }
  counted : ∀ s p off v, workReg p.blk off = true → R s (s.setReg p off v)
  chan : ∀ s c f, (∀ x : Chan, x.Works (f x)) → R s (s.modChan c f)
  rejected := fun s c v => counted s (cpage c .layout) 0x108 v rfl
  stream := fun s c _ _ _ => chan s c _ fun _ => ⟨Chan.Moves.of_same rfl rfl rfl, rfl⟩
  finished := fun s c f hf => chan s c f fun x => (hf x).works

/-- A relation that every update of reports and of the work and the links of a channel keeps. -/
structure Links (R : State → State → Prop) : Prop extends Work R where
  link : ∀ s c f, (∀ x : Chan, x.Moves (f x)) → R s (s.modChan c f)
  chan := fun s c f hf => link s c f fun x => (hf x).toMoves

/-- A relation that every update of reports, of the work and the links of a channel and of the registers keeps. -/
structure Frame (R : State → State → Prop) : Prop extends Links R where
  regs : ∀ s (regs : List (Nat × W32)) (loLatch loHeld : List (Nat × Option W32)), R s { s with regs, loLatch, loHeld }
  counted := fun s _ _ _ _ => regs s _ s.loLatch s.loHeld
  loans : ∀ s f, R s (s.modHub f)
  hub := fun s f _ => loans s f
  /-- With its last loan recalled a lender is spare (R307). -/
  lent : ∀ {s t c}, (s.chan c).role = .lending → R s t → R s (t.modChan c fun ch => { ch with role := .spare })

theorem each_within {R : State → State → Prop} {r s : State} {α : Type} {f : α → State → State} (l : List α)
    (hf : ∀ x ∈ l, ∀ t, R r t → R r (f x t)) (h : R r s) : R r (s.each l f) := by
  induction l generalizing s with
  | nil => exact h
  | cons x l ih => exact ih (fun y hy => hf y (List.mem_cons_of_mem x hy)) (hf x List.mem_cons_self s h)

namespace Reporting

variable {R : State → State → Prop} {r s : State}

/-! ## Control -/

theorem each (_ : Reporting R) {α : Type} {f : α → State → State} (l : List α) (hf : ∀ x ∈ l, ∀ t, R r t → R r (f x t)) (h : R r s) :
    R r (s.each l f) := each_within l hf h

theorem whenTrue (_ : Reporting R) {b : Bool} {f : State → State} (hf : b = true → ∀ t, R r t → R r (f t)) (h : R r s) : R r (s.when b f) := by
  cases b
  · exact h
  · exact hf rfl s h

theorem when (F : Reporting R) {b : Bool} {f : State → State} (hf : ∀ t, R r t → R r (f t)) (h : R r s) : R r (s.when b f) :=
  F.whenTrue (fun _ => hf) h

variable (F : Reporting R) (h : R r s)
include F h

/-! ## Updates -/

theorem modIcp {f : IcpS → IcpS} : R r (s.modIcp f) := F.trans h (F.icp s f)
theorem modBook {f : BookS → BookS} : R r (s.modBook f) := F.trans h (F.book s f)
theorem modRing {i : Fin 10} {f : Ring → Ring} : R r (s.modRing i f) := F.trans h (F.records s _ s.slots)
theorem setSlots {slots : List CairnSlot} : R r { s with slots } := F.trans h (F.records s s.rings slots)
theorem setSent {sent : List Sent} : R r { s with sent } := F.trans h (F.sent s sent)
theorem modHdr {p : Page} {f : Hdr → Hdr} : R r (s.modHdr p f) := F.trans h (F.hdrs s _)

/-! ## Reports -/

theorem putFrame {f : TxFrame} : R r (putFrame f s) := F.setSent h

theorem sendOutq : R r (sendOutq s) := by
  unfold Machine.sendOutq
  split
  · exact h
  · exact F.each _ (fun _ _ _ ht => F.putFrame ht) (F.modIcp h)

theorem enqueueTx {f : TxFrame} {src : Option (Fin 9 × Nat × Nat)} : R r (enqueueTx f src s) := F.sendOutq (F.modIcp h)

theorem sendEvent {e : EventRec} : R r (sendEvent e s) := by
  unfold Machine.sendEvent
  split
  · exact F.enqueueTx h
  · exact F.modIcp h

theorem ringAdd {i : Fin 10} {e : CairnE} : R r (ringAdd i e s) := by
  unfold Machine.ringAdd
  split
  · exact F.modRing h
  · exact F.setSlots (F.modRing h)

theorem cairn {e : CairnE} {toGlobal : Bool} : R r (cairn e toGlobal s) := by
  unfold Machine.cairn
  extract_lets zone own
  have hown : R r own := by
    unfold own
    split
    · exact h
    · exact F.ringAdd h
  split
  · exact F.ringAdd hown
  · exact hown

theorem control {code : Nat} {p : Page} {src : Nat} {v : W32} : R r (control code p src v s) := F.cairn h

theorem eventNoNote {code sev zone block inst : Nat} {inj : Bool} : R r (eventNoNote code sev zone block inst inj s) := F.sendEvent (F.cairn h)

theorem bookAppend {l : List Byte} : R r (bookAppend l s) := by
  unfold Machine.bookAppend
  split
  · exact F.modBook h
  · exact F.when (fun _ ht => F.eventNoNote ht) (F.modBook h)

theorem note {code zone inst block : Nat} {detail : List Byte} : R r (note code zone inst block detail s) := F.bookAppend h

theorem event {code sev : Nat} {p : Page} {inst : Nat} {withNote : Bool} : R r (event code sev p inst withNote s) :=
  F.when (fun _ ht => F.note ht) (F.eventNoNote h)

theorem freezeRing {i : Fin 10} {code kind : Nat} : R r (freezeRing i code kind s) := by
  unfold Machine.freezeRing
  split
  · exact h
  · exact F.eventNoNote (F.setSlots (F.modRing h))

theorem causeAt {p : Page} {n : Nat} {inj : Bool} {detail : List Byte} : R r (causeAt p n inj detail s) :=
  F.when (fun _ ht => F.note ht) (F.when (fun _ ht => F.sendEvent ht) (F.cairn (F.modHdr h)))

theorem cause {p : Page} {n : Nat} : R r (cause p n s) := F.causeAt h

theorem bookCount {p : Page} {t l st : Nat} : R r (bookCount p t l st s) := F.modBook h

theorem transientEvent {p : Page} {inj : Bool} : R r (transientEvent p inj s) := F.bookCount (F.causeAt (F.modHdr h))

theorem injectedIf {p : Page} {inj : Bool} : R r (injectedIf inj p s) := by
  unfold Machine.injectedIf
  exact F.when (fun _ ht => F.causeAt ht) h

theorem disarm {p : Page} : R r (disarm p s) := F.modHdr h

theorem takeInjection {p : Page} {covers : Nat → Bool} : R r (takeInjection p covers s).2 := by
  unfold Machine.takeInjection
  split
  · split
    · exact F.disarm h
    · exact h
  · exact h

theorem staleReplies {p : Page} {n : Nat} : R r (staleReplies p n s) := by
  refine F.bookCount ?_
  induction n generalizing s with
  | zero => exact h
  | succ n ih => exact F.cause (ih h)


/-- A role that changes, where the relation allows the change. -/
theorem setRole {c : Fin 9} {role : Role} {severe : Bool} (hr : R r (s.modChan c fun ch => { ch with role })) : R r (setRole c role severe s) := by
  unfold Machine.setRole
  split
  · exact h
  · exact F.when (fun _ ht => F.freezeRing ht) (F.when (fun _ ht => F.note ht) (F.eventNoNote hr))

/-- A lasting fault of a block outside the channels. -/
theorem lastingEvent_global {p : Page} {fenceIt inj : Bool} {detail : List Byte} (hp : p.blk.isChan = false) :
    R r (lastingEvent p fenceIt inj detail s) := by
  unfold Machine.lastingEvent
  simp only [hp, Bool.false_eq_true, if_false]
  exact F.freezeRing (F.bookCount (F.causeAt (F.modHdr h)))

end Reporting

namespace Finishing

variable {P : Fin 9 → Fin 4 → Prop} {R : State → State → Prop} {r s : State}

variable (F : Finishing P R) (h : R r s)
include F h

theorem modChan {c : Fin 9} {f : Chan → Chan}
    (hf : ∀ x : Chan, x.Finishes (f x) := by exact fun _ => ⟨rfl, rfl, rfl, rfl, fun _ => rfl, fun _ => rfl⟩) : R r (s.modChan c f) :=
  F.trans h (F.finished s c f hf)

theorem modStream {c : Fin 9} {st : Fin 4} {f : Stream → Stream} (hP : P c st := by exact trivial) : R r (s.modStream c st f) :=
  F.trans h (F.stream s c st f hP)

theorem modArray {c : Fin 9} {a : Fin 2} {f : ArrayS → ArrayS}
    (hf : ∀ x : ArrayS, (f x).ramp = x.ramp ∧ (f x).closure = x.closure := by exact fun _ => ⟨rfl, rfl⟩) : R r (s.modArray c a f) := by
  have entry (x : Chan) (b : Fin 2) : ((x.arrays.set a.val (f x.arrays[a.val]))[b.val]).ramp = (x.arrays[b.val]).ramp ∧
      ((x.arrays.set a.val (f x.arrays[a.val]))[b.val]).closure = (x.arrays[b.val]).closure := by
    rw [Vector.getElem_set]
    split
    · next e => simpa only [e] using hf x.arrays[b.val]
    · exact ⟨rfl, rfl⟩
  exact F.modChan h fun x => ⟨rfl, rfl, rfl, rfl, fun b => (entry x b).1, fun b => (entry x b).2⟩

theorem addStake {c : Fin 9} {i n : Nat} : R r (s.addStake c i n) := F.modChan (f := fun ch => { ch with stakes := _ }) h

/-! ## Descriptors that finish in their stream -/

theorem dropSet {c : Fin 9} {a : Fin 2} {no : Nat} : R r (dropSet c a no s) := by
  unfold Machine.dropSet
  split
  · split
    · exact F.modArray h
    · exact F.modArray h
  · exact F.modArray h

theorem discardHeld {c : Fin 9} {d : List Byte} {no : Nat} : R r (discardHeld c d no s) := by
  unfold Machine.discardHeld
  split
  · split
    · exact F.dropSet h
    · exact F.dropSet h
    · exact h
  · exact h

theorem createRejected {c : Fin 9} {detail : Nat} : R r (createRejected c detail s) :=
  F.cause (F.trans (F.trans h (F.rejected _ c _)) (F.rejected _ c _))

theorem sendCompletions {c : Fin 9} : R r (sendCompletions c s) := by
  unfold Machine.sendCompletions
  dsimp only
  split
  · exact h
  · split
    · exact F.modChan h
    · exact F.enqueueTx (F.modChan h)

theorem deliverRecord {c : Fin 9} {x : CompRec} : R r (deliverRecord c x s) := by
  unfold Machine.deliverRecord
  have held : R r (s.modChan c fun ch => { ch with recs := addRec x ch.recs }) := F.modChan h
  dsimp only
  split
  · exact F.sendCompletions held
  · exact held

theorem finishDesc {c : Fin 9} {d : List Byte} {st : Fin 4} {fetched : Bool} {no : Nat} {status flags : H16} {detail : W32}
    (hP : halting status = true → P c st := by exact fun _ => trivial) : R r (finishDesc c d st fetched no status flags detail s) := by
  unfold Machine.finishDesc
  refine F.when (fun _ ht => F.deliverRecord ht) (F.when (fun _ ht => F.cairn ht) (F.whenTrue (fun halts _ ht => F.cause (F.modStream ht (hP halts))) ?_))
  exact F.when (fun _ ht => F.createRejected ht) (F.when (fun _ ht => F.discardHeld ht) (F.when (fun _ ht => F.addStake ht) h))

theorem finishQueued {c : Fin 9} {d : List Byte} {st : Fin 4} {fetched : Bool} {status : H16} {detail : W32}
    (hP : halting status = true → P c st := by exact fun _ => trivial) : R r (finishQueued c d st fetched status detail s) := F.finishDesc h hP

end Finishing

namespace Work

variable {R : State → State → Prop} {r s : State}

variable (F : Work R) (h : R r s)
include F h

/-! ## Updates -/

theorem modHub {f : HubS → HubS} (hf : ∀ h, (f h).loans = h.loans := by exact fun _ => rfl) : R r (s.modHub f) := F.trans h (F.hub s f hf)
theorem draw : R r s.draw.2 := F.trans h (F.draws s _)
theorem setReg {p : Page} {off : Nat} {v : W32} (hr : workReg p.blk off = true := by rfl) : R r (s.setReg p off v) := F.trans h (F.counted s p off v hr)
theorem bump {p : Page} {off n : Nat} (hr : workReg p.blk off = true := by rfl) : R r (s.bump p off n) := F.setReg h hr
theorem bumpField {p : Page} {off hi lo n : Nat} (hr : workReg p.blk off = true := by rfl) : R r (s.bumpField p off hi lo n) := F.setReg h hr
theorem setField {p : Page} {off hi lo v : Nat} (hr : workReg p.blk off = true := by rfl) : R r (s.setField p off hi lo v) := F.setReg h hr
theorem bump64 {p : Page} {off n : Nat} (hr : workReg p.blk off = true := by rfl) (hr' : workReg p.blk (off + 4) = true := by rfl) :
    R r (s.bump64 p off n) := F.setReg (F.setReg h hr) hr'
theorem modSupv {f : SupvS → SupvS} (hf : ∀ v, (f v).standing = v.standing := by exact fun _ => rfl) : R r (s.modSupv f) := F.trans h (F.supv s f hf)
theorem modChan {c : Fin 9} {f : Chan → Chan} (hf : ∀ x : Chan, x.Works (f x) := by exact fun _ => ⟨Chan.Moves.of_same rfl rfl rfl, rfl⟩) :
    R r (s.modChan c f) := F.trans h (F.chan s c f hf)
theorem modArray {c : Fin 9} {a : Fin 2} {f : ArrayS → ArrayS}
    (hf : ∀ x : ArrayS, x.closure = none → (f x).closure = none := by exact fun _ hx => hx) : R r (s.modArray c a f) :=
  F.modChan h fun x => ⟨⟨rfl, fun g hg => ⟨g, hg, rfl, rfl, id⟩, fun b hb => by
    rw [Vector.getElem_set]
    split
    · next e => exact hf _ (by simpa only [e] using hb)
    · exact hb⟩, rfl⟩
/-- An update of both arrays. -/
theorem mapArrays {c : Fin 9} {f : ArrayS → ArrayS} {k : Chan → Chan} (hk : ∀ x : Chan, (k x).standing = x.standing ∧ (k x).fly = x.fly ∧
    (k x).ports = x.ports ∧ (k x).arrays = x.arrays.map f) (hf : ∀ x : ArrayS, x.closure = none → (f x).closure = none) : R r (s.modChan c k) :=
  F.modChan h fun x => by
    obtain ⟨standing, fly, ports, arrays⟩ := hk x
    refine ⟨⟨standing, fun g hg => ⟨g, fly ▸ hg, rfl, rfl, id⟩, fun a ha => ?_⟩, ports⟩
    rw [arrays, Vector.getElem_map]
    exact hf _ ha
/-- An update of the descriptors in flight, one by one. -/
theorem modFlies {c : Fin 9} {f : Fly → Fly} (hf : ∀ x : Fly, (f x).no = x.no ∧ (f x).desc = x.desc ∧ (x.committed = true → (f x).committed = true)) :
    R r (s.modChan c fun ch => { ch with fly := ch.fly.map f }) :=
  F.modChan h fun x => ⟨⟨rfl, fun g hg => by
    obtain ⟨y, hy, rfl⟩ := List.mem_map.mp hg
    obtain ⟨no, desc, committed⟩ := hf y
    exact ⟨y, hy, no.symm, desc.symm, committed⟩, fun _ ha => ha⟩, rfl⟩
theorem modPlat {c : Fin 9} {f : PlatS → PlatS} : R r (s.modPlat c f) := F.modChan h
theorem modMerid {c : Fin 9} {f : MeridS → MeridS} : R r (s.modMerid c f) := F.modChan h
theorem store {c : Fin 9} {a : Nat} {bs : List Byte} : R r (s.store c a bs) := F.modChan h
theorem dropFly {c : Fin 9} {no : Nat} : R r (s.dropFly c no) := F.modChan h fun x =>
  ⟨⟨rfl, fun g hg => ⟨g, (List.mem_filter.mp hg).1, rfl, rfl, id⟩, fun a ha => by rw [Vector.getElem_map]; simp [ha]⟩, rfl⟩

theorem stopSurvey {c : Fin 9} : R r (stopSurvey c s) := by
  unfold Machine.stopSurvey
  split
  · exact h
  · exact F.modSupv (F.modChan h)

theorem lastingEvent {p : Page} {fenceIt inj : Bool} {detail : List Byte} : R r (lastingEvent p fenceIt inj detail s) := by
  unfold Machine.lastingEvent
  extract_lets marked counted ended
  have hcounted : R r counted := F.bookCount (F.causeAt (F.modHdr h))
  refine F.freezeRing ?_
  unfold ended
  split
  · exact F.stopSurvey (F.modChan hcounted)
  · exact hcounted


/-! ## Memory -/

theorem makeRoom {c : Fin 9} {l : Nat} : R r (makeRoom c l s) := by
  unfold Machine.makeRoom
  dsimp only
  split
  · split
    · exact F.modChan (F.draw h)
    · exact F.draw h
  · exact h

theorem setLine {c : Fin 9} {l : Nat} {x : CLine} : R r (setLine c l x s) := F.modChan h

theorem readLine {c : Fin 9} {e : Nat × BitVec 4} : R r (readLine c e s) := by
  unfold Machine.readLine
  split
  · exact F.setLine (F.bump64 (F.makeRoom h))
  · exact F.bump64 h

theorem writeLine {c : Fin 9} {e : Nat × BitVec 4} : R r (writeLine c e s) := F.setLine (F.makeRoom h)

theorem writeBackLines {c : Fin 9} : R r (writeBackLines c s) := by
  unfold Machine.writeBackLines
  exact F.modChan h

theorem invalidateLines {c : Fin 9} : R r (invalidateLines c s) := by
  unfold Machine.invalidateLines
  exact F.modChan h

theorem flushHeld {c : Fin 9} : R r (flushHeld c s) := by
  unfold Machine.flushHeld
  split
  · exact h
  · exact F.writeBackLines h

theorem requestRuns {c : Fin 9} {p : Fin 16} {l : List MRun} : R r (requestRuns c p l s) := F.modMerid h

theorem writeMem {c : Fin 9} {q : Requester} {a : Nat} {bs : List Byte} : R r (writeMem c q a bs s) :=
  F.each _ (fun _ _ _ ht => F.writeLine ht) (F.store (F.requestRuns (F.flushHeld h)))

theorem drainPort {c : Fin 9} {p : Fin 16} : R r (drainPort c p s) := F.modMerid h

theorem endLock {c : Fin 9} {p : Fin 16} : R r (endLock c p s) := F.modMerid h

theorem withdrawPage {p : Page} : R r (withdrawPage p s) := F.modMerid h

theorem deliverReplies {c : Fin 9} : R r (deliverReplies c s) := by
  refine F.each _ (fun x _ t ht => ?_) (F.modMerid h)
  split
  · exact ht
  · exact F.staleReplies ht

theorem putAll {c : Fin 9} {q : Requester} {puts : List (Nat × List Byte)} : R r (putAll c q puts s) :=
  F.each _ (fun _ _ _ ht => F.writeMem ht) h

/-! ## Counts -/

theorem capture {p : Page} {off : Nat} {v : W32} (hr : workReg p.blk off = true := by rfl) : R r (capture p off v s) := by
  unfold Machine.capture
  split
  · exact h
  · exact F.setReg h hr

theorem bookTotal {c : Fin 9} {i n : Nat} : R r (bookTotal c i n s) := F.modBook h

theorem countSat {c : Fin 9} {n : Nat} : R r (countSat c n s) := by
  unfold Machine.countSat
  split
  · exact h
  · exact F.bookTotal (F.cause (F.bump h))

theorem countEff {c : Fin 9} {e : Eff} : R r (countEff c e s) := by
  unfold Machine.countEff
  dsimp only
  split
  case h_1 => exact F.countSat h
  case h_2 => exact F.cause (F.bumpField h)
  case h_3 => exact F.cause (F.bumpField h)
  case h_4 => exact F.cause (F.bump h)
  case h_5 =>
    split
    · exact h
    · exact F.setReg (F.setReg (F.setReg (F.setReg h)))
  case h_6 => exact F.cause (F.capture (F.bump h))
  case h_7 => exact h

theorem lateEff {c : Fin 9} {e : Eff} : R r (lateEff c e s) := by
  unfold Machine.lateEff
  split
  case h_1 => exact F.cause (F.capture (F.bump h))
  case h_2 => exact F.countSat h
  case h_3 => exact F.cause (F.bookTotal h)
  case h_4 => exact F.cause h
  case h_5 => exact h

theorem storeEff {c : Fin 9} {q : Requester} {e : Eff} : R r (storeEff c q e s) := by
  unfold Machine.storeEff
  split
  case h_1 => exact F.writeMem h
  case h_2 => exact F.putAll h
  case h_3 => exact F.putAll h
  case h_4 => exact F.deliverReplies (F.drainPort (F.writeMem h))
  case h_5 => exact F.countSat h
  case h_6 => exact h

/-- The effects that `maybeStore` performs as a whole or not at all are stored after a free value has been drawn. -/
theorem maybeStore {c : Fin 9} {q : Requester} {e : Eff} : R r (maybeStore c q e s) := by
  have whole {e : Eff} : R r (if (Config.free s.draws).getLsbD 0 then Machine.storeEff c q e s.draw.2 else s.draw.2) := by
    split
    · exact F.storeEff (F.draw h)
    · exact F.draw h
  cases e with
  | units l => exact F.putAll (F.draw h)
  | store a bs => exact whole
  | block puts => exact whole
  | remote d a bs => exact whole
  | _ => exact h

/-! ## Descriptors that end -/

theorem endPlat {c : Fin 9} {f : Fly} {status : H16} : R r (endPlat c f status s) := by
  unfold Machine.endPlat
  split
  · exact h
  · split
    · exact F.modPlat h
    · split
      · exact F.cause (F.modPlat h)
      · exact h

theorem countBusy {c : Fin 9} {a : Fin 2} {cycles : Nat} : R r (countBusy c a cycles s) := by
  unfold Machine.countBusy
  exact F.modArray (F.bump h)

theorem countPresented {c : Fin 9} {f : Fly} : R r (countPresented c f s) := by
  unfold Machine.countPresented
  split
  · refine F.each _ (fun e _ t ht => ?_) h
    split
    · exact F.countBusy (F.draw ht)
    · exact ht
  · exact h

theorem cutDrain {c : Fin 9} {q : Requester} {l : List Eff} : R r (cutDrain c q l s).2 := by
  induction l generalizing s with
  | nil => exact h
  | cons e l ih =>
    cases e with
    | drainSat n => exact ih (F.countSat (F.draw h))
    | drainNan => exact ih (F.draw h)
    | _ => exact ih (F.maybeStore h)

theorem countGrant {c : Fin 9} {f : Fly} : R r (countGrant c f s) := by
  unfold Machine.countGrant
  split
  · exact F.each _ (fun _ _ _ ht => F.countEff ht) h
  · exact h

theorem endFly {c : Fin 9} {f : Fly} {status flags : H16} {detail : W32} : R r (endFly c f status flags detail s) := by
  unfold Machine.endFly
  extract_lets presented granted late hubUnit
  have hlate : R r late :=
    F.when (fun _ ht => F.each _ (fun _ _ _ hu => F.lateEff hu) ht) (F.countGrant (F.when (fun _ ht => F.countPresented ht) h))
  have hcut : R r (if f.granted && !f.done && status ≠ stCompleted
      then Machine.cutDrain c (writeReq c f.unit f.no) f.effs late else (0, late)).2 := by
    split
    · exact F.cutDrain hlate
    · exact hlate
  generalize (if f.granted && !f.done && status ≠ stCompleted
    then Machine.cutDrain c (writeReq c f.unit f.no) f.effs late else (0, late)) = cut at hcut ⊢
  exact F.finishDesc (F.dropFly (F.endPlat (F.when (fun _ ht => F.bump ht) hcut)))

theorem endFlies {c : Fin 9} {p : Fly → Bool} {status flags : H16} : R r (endFlies c p status flags s) :=
  F.each _ (fun _ _ _ ht => F.endFly ht) h

theorem countGrants {c : Fin 9} : R r (countGrants c s) := by
  unfold Machine.countGrants
  refine F.modFlies (F.each _ (fun _ _ _ ht => F.countGrant ht) h) fun f => ?_
  split
  · exact ⟨rfl, rfl, id⟩
  · exact ⟨rfl, rfl, id⟩

theorem sweepReduction {x : Reduction} : R r (sweepReduction x s) := by
  unfold Machine.sweepReduction
  dsimp only
  split
  · exact h
  · split
    · exact F.modHub (F.each _ (fun _ _ _ ht => F.endFlies ht) h)
    · exact F.modHub h

theorem sweepTri {id : W32} : R r (sweepTri id s) := by
  unfold Machine.sweepTri
  dsimp only
  split
  · exact h
  · exact F.modHub (F.each _ (fun _ _ _ ht => F.endFlies ht) h)

theorem sweep : R r (sweep s) := by
  unfold Machine.sweep
  exact F.modHub (F.each _ (fun _ _ _ ht => F.sweepTri ht) (F.each _ (fun _ _ _ ht => F.sweepReduction ht) h))

theorem failFetch {c : Fin 9} {st : Fin 4} {status : H16} : R r (failFetch c st status s) := by
  unfold Machine.failFetch
  split
  · exact h
  · split
    · exact h
    · exact F.finishDesc (F.modStream h)

theorem resetDescriptors {c : Fin 9} : R r (resetDescriptors c s) := by
  unfold Machine.resetDescriptors
  refine F.sweep (F.each _ (fun _ _ _ ht => F.modStream ht) (F.each _ (fun st _ t ht => ?_) (F.countGrants h)))
  extract_lets issued x emptied fetched
  have hemptied : R r emptied := F.modStream (F.endFlies ht)
  have hfetched : R r fetched := by
    unfold fetched
    split
    · exact hemptied
    · exact F.each _ (fun _ _ _ hu => F.finishQueued hu) (F.when (fun _ hu => F.finishDesc hu) hemptied)
  exact F.each _ (fun _ _ _ hu => F.finishQueued hu) hfetched

theorem endUnit {c : Fin 9} {u : UnitId} {failed : Option Nat} : R r (endUnit c u failed s) := by
  unfold Machine.endUnit
  exact F.sweep (F.each _ (fun _ _ _ ht => F.endFly ht) h)

theorem endOwners {c : Fin 9} {p : MRun → Bool} : R r (endOwners c p s) := by
  unfold Machine.endOwners
  exact F.sweep (F.endFlies h)

theorem endClosures {c : Fin 9} {units : List UnitId} : R r (endClosures c units s) := F.each _ (fun _ _ _ ht => F.endFly ht) h

/-! ## Blocks -/

theorem copyFail {c : Fin 9} : R r (copyFail c s) := by
  unfold Machine.copyFail
  split
  · exact F.eventNoNote (F.cause (F.modPlat h))
  · exact h

theorem releaseLock {p : Page} : R r (releaseLock p s) := by
  unfold Machine.releaseLock
  split
  · split
    · exact F.endLock h
    · exact h
  · exact h

theorem rampDown {c : Fin 9} {a : Fin 2} : R r (rampDown c a s) := by
  unfold Machine.rampDown
  dsimp only
  split
  · exact F.modArray h
  · split
    · exact F.modArray (F.bumpField h)
    · exact h

theorem openGap {c : Fin 9} {a : Fin 2} : R r (openGap c a s) := by
  unfold Machine.openGap
  have taken : R r (takeFill c a s) := F.modArray h
  dsimp only
  split
  · exact F.rampDown taken
  · exact taken

theorem withGaps {c : Fin 9} {k : State → State} (hk : ∀ t, R r t → R r (k t)) : R r (withGaps c k s) := by
  refine F.each _ (fun a _ t ht => ?_) (hk s h)
  split
  · exact ht
  · exact F.openGap ht

theorem stackEnds {p : Page} : R r (stackEnds p s) := F.endOwners h

theorem cacheReset {c : Fin 9} : R r (cacheReset c s) := by
  unfold Machine.cacheReset
  exact F.modMerid (F.endOwners (F.when (fun _ ht => F.modChan ht) (F.invalidateLines (F.writeBackLines h))))

theorem meridReset {c : Fin 9} : R r (meridReset c s) := by
  unfold Machine.meridReset
  exact F.modMerid (F.each _ (fun _ _ _ ht => F.when (fun _ hu => F.failFetch hu) ht) (F.each _ (fun _ _ _ ht => F.endUnit ht) h))

end Work

namespace Links

variable {R : State → State → Prop} {r s : State}

variable (F : Links R) (h : R r s)
include F h

theorem modPort {c : Fin 9} {p : Fin 6} {f : Port → Port} : R r (s.modPort c p f) :=
  F.trans h (F.link s c _ fun _ => Chan.Moves.of_same rfl rfl rfl)

theorem endSends {c : Fin 9} {p : Fin 6} {lost : List TxFlit} {status : H16} : R r (endSends c p lost status s) := by
  unfold Machine.endSends
  exact F.sweep (F.endFlies h)

theorem leaveBuffer {c : Fin 9} {t : TxFlit} : R r (leaveBuffer c t s) := by
  unfold Machine.leaveBuffer
  split
  · exact F.modPort h
  · exact h

theorem discardPort {c : Fin 9} {p : Fin 6} {status : H16} : R r (discardPort c p status s) := by
  unfold Machine.discardPort
  refine F.endSends (F.when (fun _ ht => F.copyFail ht) (F.when (fun _ ht => F.cause ht) (F.bumpField ?_)))
  exact F.each _ (fun _ _ _ ht => F.leaveBuffer ht) (F.modPort h)

theorem forgetPeer {c : Fin 9} {p : Fin 6} : R r (forgetPeer c p s) := by
  unfold Machine.forgetPeer
  exact F.modPort (F.discardPort h)

theorem linkDown {c : Fin 9} {p : Fin 6} : R r (linkDown c p s) := by
  unfold Machine.linkDown
  split
  · exact h
  · exact F.when (fun _ ht => F.forgetPeer ht) (F.eventNoNote (F.cause (F.bumpField (F.modPort h))))

theorem startLinkMsg {c : Fin 9} {p : Fin 6} {code : Byte} {body : List Byte} {left : Option Nat} : R r (startLinkMsg c p code body left s) := by
  unfold Machine.startLinkMsg Machine.sendLinkMsg
  exact F.modPort (F.modPort h)

theorem takeDown {c : Fin 9} {p : Fin 6} : R r (takeDown c p s) := by
  unfold Machine.takeDown
  split
  · exact h
  · exact F.startLinkMsg (F.linkDown h)

theorem portDown {c : Fin 9} {p : Fin 6} {status : H16} : R r (portDown c p status s) := by
  unfold Machine.portDown
  exact F.modPort (F.discardPort (F.takeDown h))

/-- What a reset stops in a block of a channel stays within the frame. -/
theorem stopBlock {p : Page} (hp : p.blk.isChan = true) : R r (stopBlock p s) := by
  unfold Machine.stopBlock
  extract_lets c released withdrawn closed ended
  have hended : R r ended := by
    have hwithdrawn : R r withdrawn := F.when (fun _ ht => F.withdrawPage ht) (F.releaseLock h)
    have hclosed : R r closed := by
      unfold closed
      split
      · exact F.endClosures hwithdrawn
      · exact F.endClosures hwithdrawn
      · exact hwithdrawn
    refine F.each _ (fun u _ t ht => ?_) hclosed
    split
    · exact F.endUnit ht
    · exact F.withGaps ht fun _ hu => F.endUnit hu
  cases hb : p.blk with
  | seq => exact F.modChan (F.withGaps hended fun _ ht => F.resetDescriptors ht)
  | dense => exact F.modArray (F.rampDown hended) fun _ _ => rfl
  | numw => exact F.mapArrays hended (fun _ => ⟨rfl, rfl, rfl, rfl⟩) fun _ _ => rfl
  | layout => exact F.modChan (F.endFlies hended)
  | route => exact F.modChan hended
  | merid => exact F.withGaps hended fun _ ht => F.meridReset ht
  | trav => exact F.portDown hended
  | bearing => exact F.each _ (fun _ _ _ ht => F.takeDown ht) hended
  | plat => exact F.modPlat hended
  | cache => exact F.withGaps hended fun _ ht => F.cacheReset ht
  | hbm => exact F.withGaps hended fun _ ht => F.stackEnds ht
  | gather | update | cpwr | cclk | cbench => exact hended
  | _ => rw [hb] at hp; cases hp

theorem stopChannel {c : Fin 9} {failed : Option Nat} : R r (stopChannel c failed s) := by
  unfold Machine.stopChannel
  extract_lets counted failing reset downed ramped cleared
  have hramped : R r ramped := by
    refine F.rampDown (F.rampDown (F.each _ (fun _ _ _ ht => F.portDown ht) ?_))
    exact F.resetDescriptors (F.each _ (fun _ _ _ ht => F.endFly ht) (F.countGrants h))
  have hcleared : R r cleared := F.mapArrays hramped (fun _ => ⟨rfl, rfl, rfl, rfl⟩) fun _ _ => rfl
  exact F.stopSurvey hcleared

end Links

namespace Frame

variable {R : State → State → Prop} {r s : State}

variable (F : Frame R) (h : R r s)
include F h

theorem clearRegs {p : Page} : R r (s.clearRegs p) := F.trans h (F.regs s _ _ _)

/-- Any register. -/
theorem setAnyReg {p : Page} {off : Nat} {v : W32} : R r (s.setReg p off v) := F.trans h (F.regs s _ s.loLatch s.loHeld)

/-- A block of a channel comes to its reset values within the frame, if that of CCLK does, which starts the domains that its register
had stopped. -/
theorem initBlock {p : Page} (hp : p.blk.isChan = true)
    (hclk : p.blk = .cclk → ∀ s (run : Chan → Vector Bool 6) (lost : Vector Bool 6), R s (s.modChan p.chan fun ch => { ch with domRun := run ch, domLost := lost })) :
    R r (initBlock p s) := by
  have cleared : R r (s.clearRegs p) := F.clearRegs h
  unfold Machine.initBlock
  cases hb : p.blk with
  | dense => exact F.modArray (F.setAnyReg cleared)
  | cache => exact F.setAnyReg (F.modChan cleared)
  | hbm => exact F.setAnyReg cleared
  | bearing => exact F.modChan cleared
  | merid => exact F.modMerid cleared
  | cpwr => exact F.mapArrays cleared (fun _ => ⟨rfl, rfl, rfl, rfl⟩) fun _ hx => hx
  | trav => exact F.setAnyReg cleared
  | route => exact F.modChan cleared
  | cclk => exact F.trans cleared (hclk hb _ _ _)
  | seq | gather | layout | update | numw | plat | cbench => exact cleared
  | _ => rw [hb] at hp; cases hp

theorem powerDownBlock {p : Page} (hp : p.blk.isChan = true)
    (hclk : p.blk = .cclk → ∀ s (run : Chan → Vector Bool 6) (lost : Vector Bool 6), R s (s.modChan p.chan fun ch => { ch with domRun := run ch, domLost := lost })) :
    R r (powerDownBlock p s) :=
  F.initBlock (F.modHdr (F.stopBlock (F.modHdr h) hp)) hp hclk

/-! ## Channels -/

theorem resetPorts {c : Fin 9} : R r (resetPorts c s) :=
  F.each _ (fun _ _ _ ht => F.initBlock (F.modHdr ht) rfl nofun) h

theorem sourceLost {c : Fin 9} : R r (sourceLost c s) := by
  unfold Machine.sourceLost
  exact F.sweep (F.each _ (fun _ _ _ ht => F.each _ (fun _ _ _ hu => F.endFly hu) ht) h)

theorem noSpareCheck {c : Fin 9} : R r (noSpareCheck c s) := by
  unfold Machine.noSpareCheck
  split
  · exact h
  · dsimp only
    split
    · exact h
    · exact F.event h

theorem recallLoans {p : Nat → Loan → Bool} : R r (recallLoans p s) := by
  unfold Machine.recallLoans
  extract_lets hit marked onLoan ended freed planes reported
  split
  · exact h
  · have hended : R r ended := F.each _ (fun _ _ _ ht => F.sweep (F.endFlies ht)) (F.trans h (F.loans s _))
    have hfreed : R ended freed := by
      unfold freed State.when
      split
      · refine F.each _ (fun c hc t ht => F.setRole ht ?_) (F.refl ended)
        have lending : (ended.chan c).role = .lending := by simpa using (List.mem_filter.mp hc).2
        exact F.lent lending ht
      · exact F.refl ended
    exact F.cause (F.each _ (fun _ _ _ ht => F.eventNoNote ht) (F.trans hended hfreed))

omit h in
/-- All that a channel that is fenced does after it has taken its role. -/
theorem fenceChannel {c : Fin 9} {role : Role} {severe : Bool} {failed : Option Nat} (h : R r (Machine.setRole c role severe s)) :
    R r (fenceChannel c role severe failed s) := by
  unfold Machine.fenceChannel
  extract_lets wasServing wasLending roled recalled stopped fenced reset
  have hstopped : R r stopped := F.when (fun _ ht => F.sourceLost ht) (F.stopChannel (F.when (fun _ ht => F.recallLoans ht) h))
  exact F.when (fun _ ht => F.noSpareCheck ht) (F.resetPorts (F.control (F.each _ (fun _ _ _ ht => F.modHdr ht) hstopped)))

end Frame

/-! ## What stands -/

/-- The power state, the identity and boot state, device time and the supervisor's own state stand, and with them every channel's role, but
that a lender whose loans are recalled is spare. -/
structure Stands (s t : State) : Prop where
  pwr : t.pwr = s.pwr
  sec : t.sec = s.sec
  time : t.refCycles = s.refCycles
  supv : t.supv.standing = s.supv.standing
  role : ∀ c, (t.chan c).role = (s.chan c).role ∨ ((s.chan c).role = .lending ∧ (t.chan c).role = .spare)

namespace Stands

variable {s t u : State}

theorem of_role (hp : t.pwr = s.pwr) (hs : t.sec = s.sec) (ht : t.refCycles = s.refCycles) (hv : t.supv.standing = s.supv.standing)
    (hr : ∀ c, (t.chan c).role = (s.chan c).role) : Stands s t := ⟨hp, hs, ht, hv, fun c => .inl (hr c)⟩

theorem trans (h : Stands s t) (k : Stands t u) : Stands s u where
  pwr := k.pwr.trans h.pwr
  sec := k.sec.trans h.sec
  time := k.time.trans h.time
  supv := k.supv.trans h.supv
  role c := by
    rcases h.role c with ht | ⟨hs, ht⟩
    · rw [← ht]
      exact k.role c
    · rcases k.role c with hu | ⟨hu, _⟩
      · exact .inr ⟨hs, hu.trans ht⟩
      · rw [ht] at hu
        cases hu

/-- A role other than that of a lender stands. -/
theorem role_eq (h : Stands s t) {c : Fin 9} (hc : (s.chan c).role ≠ .lending) : (t.chan c).role = (s.chan c).role :=
  (h.role c).resolve_right fun lent => hc lent.1

theorem modChan_role (s : State) (c : Fin 9) (f : Chan → Chan) (hf : ∀ x : Chan, (f x).role = x.role) (k : Fin 9) :
    ((s.modChan c f).chan k).role = (s.chan k).role := by
  rw [State.modChan_chan]
  split
  · next e => rw [hf, e]
  · rfl

theorem frame : Frame Stands where
  refl s := of_role rfl rfl rfl rfl fun _ => rfl
  trans := trans
  icp _ _ := of_role rfl rfl rfl rfl fun _ => rfl
  loans _ _ := of_role rfl rfl rfl rfl fun _ => rfl
  book _ _ := of_role rfl rfl rfl rfl fun _ => rfl
  supv s _ hf := of_role rfl rfl rfl (hf s.supv) fun _ => rfl
  records _ _ _ := of_role rfl rfl rfl rfl fun _ => rfl
  sent _ _ := of_role rfl rfl rfl rfl fun _ => rfl
  draws _ _ := of_role rfl rfl rfl rfl fun _ => rfl
  hdrs _ _ := of_role rfl rfl rfl rfl fun _ => rfl
  regs _ _ _ _ := of_role rfl rfl rfl rfl fun _ => rfl
  link s c f hf := of_role rfl rfl rfl rfl (modChan_role s c f fun x => congrArg Prod.fst (hf x).standing)
  lent {s t c} hc h := ⟨h.pwr, h.sec, h.time, h.supv, fun k => by
    rw [State.modChan_chan]
    split
    · next e => exact .inr ⟨e ▸ hc, rfl⟩
    · exact h.role k⟩

/-- The reset of CCLK too leaves every role as it is. -/
theorem powerDownBlock {p : Page} (hp : p.blk.isChan = true) (h : Stands s t) : Stands s (powerDownBlock p t) :=
  frame.powerDownBlock h hp fun _ u _ _ => of_role rfl rfl rfl rfl (modChan_role u _ _ fun _ => rfl)

end Stands

/-! ## Roles that change -/

theorem setRole_role (s : State) (c : Fin 9) {role : Role} (severe : Bool) (hr : role ≠ .lending) :
    ((setRole c role severe s).chan c).role = role := by
  by_cases same : (s.chan c).role = role
  · simp only [setRole, same, if_true]
  · have F := Stands.frame
    have roled : Stands (s.modChan c fun ch => { ch with role }) (setRole c role severe s) := by
      unfold setRole
      rw [if_neg same]
      exact F.when (fun _ ht => F.freezeRing ht) (F.when (fun _ ht => F.note ht) (F.eventNoNote (F.refl _)))
    have changed : ((s.modChan c fun ch => { ch with role }).chan c).role = role := by rw [State.modChan_chan_self]
    rw [roled.role_eq (by rw [changed]; exact hr), changed]

/-- A channel that is fenced or fails has that role at the end. -/
theorem fenceChannel_role (s : State) (c : Fin 9) {role : Role} (severe : Bool) (failed : Option Nat) (hr : role ≠ .lending) :
    ((fenceChannel c role severe failed s).chan c).role = role := by
  have roled := setRole_role s c severe hr
  have stopped := Stands.frame.fenceChannel (failed := failed) (Stands.frame.refl (setRole c role severe s))
  rw [stopped.role_eq (by rw [roled]; exact hr), roled]

/-! ## Lasting memory faults (R313 to R315, R321) -/

/-- A role of a fenced or failed channel stands after the injection that was used is recorded. -/
theorem injectedIf_role (s : State) (inj : Bool) (p : Page) {c : Fin 9} {role : Role} (hr : role ≠ .lending) (h : (s.chan c).role = role) :
    ((injectedIf inj p s).chan c).role = role := by
  have recorded : Stands s (injectedIf inj p s) := Stands.frame.injectedIf (Stands.frame.refl s)
  rw [recorded.role_eq (by rw [h]; exact hr), h]

/-- Settles O25: each of the three ends with the channel fenced, or failed. -/
theorem lastingMemoryFaults : Obligations.LastingMemoryFaults := by
  intro c st addr answers user s live
  have role : (if answers then Role.fenced else .failed) ≠ .lending := by cases answers <;> nofun
  have lasting (a : Nat) (inj : Bool) (u : State) : ((hbmLasting c st a answers inj user u).chan c).role = if answers then .fenced else .failed :=
    fenceChannel_role _ c true none role
  have reread : exec (.hbmReread c st addr false answers user) s = execHbmReread c st addr false answers user s := rfl
  have crc : exec (.hbmWriteCrc c st false answers user) s = execHbmWriteCrc c st false answers user s := rfl
  have ecc : exec (.cacheEccError c true false user) s = execCacheEccError c true false user s := rfl
  rw [reread, crc, ecc]
  simp only [execHbmReread, execHbmWriteCrc, execCacheEccError, live, Bool.not_true, Bool.false_eq_true, if_false, Bool.false_and,
    Bool.or_false, Bool.and_false]
  exact ⟨⟨_, rfl, injectedIf_role _ _ _ role (lasting _ _ _)⟩, ⟨_, rfl, lasting _ _ _⟩, ⟨_, rfl, fenceChannel_role _ c true none nofun⟩⟩

end Sys2Proof.Machine
end

section
/-! SUPPORT. What causes, transient events and injections leave in a page's header (R88 to R90, R414), and the outcomes of memory and
arbiter events (R313 to R330). -/
namespace Sys2Proof.Machine

/-! ## Bits of register words -/

theorem bitsOf_toNat {w : Nat} (x : BitVec w) (hi lo : Nat) : bitsOf x.toNat hi lo = (x.extractLsb' lo (hi + 1 - lo)).toNat := by
  simp [bitsOf, BitVec.extractLsb'_toNat, Nat.shiftRight_eq_div_pow]

theorem bitAt_toNat {w : Nat} (x : BitVec w) (i : Nat) : bitAt x.toNat i = x.getLsbD i := by
  simp only [bitAt, BitVec.getLsbD, Nat.testBit_eq_decide_div_mod_eq]

theorem bitsOf_lt (v hi lo : Nat) : bitsOf v hi lo < 2 ^ (hi + 1 - lo) := Nat.mod_lt _ (Nat.two_pow_pos _)

theorem getLsbD_w32_two_pow {n : Nat} (hn : n < 32) : (w32 (2 ^ n)).getLsbD n = true := by
  rw [w32, BitVec.getLsbD_ofNat, Nat.testBit_two_pow_self, decide_eq_true hn, Bool.and_self]

/-! ## Causes and transient events -/

section
variable {s : State} {p : Page}

theorem causeAt_hdr_ne (p : Page) (n : Nat) (inj : Bool) (detail : List Byte) {q : Page} (h : q.key ≠ p.key) :
    (causeAt p n inj detail s).hdr q = s.hdr q := by
  rw [(causeAt_sameTables s p n inj detail).hdr, State.modHdr_hdr_ne h]

theorem causeAt_wf (hw : s.wf) (p : Page) (n : Nat) (inj : Bool) (detail : List Byte) : (causeAt p n inj detail s).wf :=
  (keeps_causeAt (Keeps.refl s) p n inj detail).wf hw

theorem modHdr_wf (hw : s.wf) (p : Page) (f : Hdr → Hdr) : (s.modHdr p f).wf := ((Keeps.refl s).modHdr p f).wf hw

/-- A cause sets its own bit of ERR_STAT and clears none. -/
theorem withCause_errStat_self (h : Hdr) {n t : Nat} (hn : n < 32) : (h.withCause n t).errStat.getLsbD n = true := by
  simp [Hdr.withCause, getLsbD_w32_two_pow hn]

theorem withCause_errStat_of (h : Hdr) (n t : Nat) {i : Nat} (hi : h.errStat.getLsbD i = true) : (h.withCause n t).errStat.getLsbD i = true := by
  simp [Hdr.withCause, hi]

end

/-- What the module reports leaves its channels, registers, power and supervisor as they are. -/
theorem reporting_parts : Reporting fun s t => t.regs = s.regs ∧ t.chans = s.chans ∧ t.supv = s.supv ∧ t.pwr = s.pwr where
  refl _ := ⟨rfl, rfl, rfl, rfl⟩
  trans h k := ⟨k.1.trans h.1, k.2.1.trans h.2.1, k.2.2.1.trans h.2.2.1, k.2.2.2.trans h.2.2.2⟩
  icp _ _ := ⟨rfl, rfl, rfl, rfl⟩
  book _ _ := ⟨rfl, rfl, rfl, rfl⟩
  records _ _ _ := ⟨rfl, rfl, rfl, rfl⟩
  sent _ _ := ⟨rfl, rfl, rfl, rfl⟩
  hdrs _ _ := ⟨rfl, rfl, rfl, rfl⟩

/-- The header of a page after a transient event at time `t` (R88, R414). -/
def Hdr.withTransient (t : Nat) (h : Hdr) : Hdr := { h with retryCnt := w32 (satAdd 0xFFFFFFFF h.retryCnt.toNat 1) }.withCause 1 t

theorem transientEvent_hdr_self {s : State} (hw : s.wf) (p : Page) (inj : Bool) :
    (transientEvent p inj s).hdr p = (s.hdr p).withTransient s.now := by
  have counted : (transientEvent p inj s).hdr p =
      (causeAt p 1 inj noDetail (s.modHdr p fun h => { h with retryCnt := w32 (satAdd 0xFFFFFFFF h.retryCnt.toNat 1) })).hdr p := rfl
  rw [counted, causeAt_hdr_self (modHdr_wf hw p _), State.modHdr_hdr_self hw]
  rfl

theorem transientEvent_hdr_ne (s : State) (p : Page) (inj : Bool) {q : Page} (h : q.key ≠ p.key) : (transientEvent p inj s).hdr q = s.hdr q := by
  have counted : (transientEvent p inj s).hdr q =
      (causeAt p 1 inj noDetail (s.modHdr p fun h => { h with retryCnt := w32 (satAdd 0xFFFFFFFF h.retryCnt.toNat 1) })).hdr q := rfl
  rw [counted, causeAt_hdr_ne _ _ _ _ h, State.modHdr_hdr_ne h]

/-- Settles O24: the page's own header takes the count and the cause, and the rest is reports. -/
theorem transientEventCounts : Obligations.TransientEventCounts := by
  intro p inj s ⟨hw, _⟩ t
  obtain ⟨regs, chans, supv, pwr⟩ := reporting_parts.transientEvent (p := p) (inj := inj) (reporting_parts.refl s)
  have self : t.hdr p = (s.hdr p).withTransient s.now := transientEvent_hdr_self hw p inj
  rw [self]
  exact ⟨rfl, rfl, rfl, rfl, rfl, rfl, rfl, fun q => transientEvent_hdr_ne s p inj, regs, chans, supv, pwr⟩

/-! ## Error injection (R90) -/

section
variable {s : State} {p : Page}

/-- A field of a register that holds a value's bits under a mask and a bit beside them is the field of the value, where the mask is set
and the bit is not. -/
theorem bitsOf_masked (v mask bit : W32) {hi lo : Nat} (hm : ∀ i < hi + 1 - lo, mask.getLsbD (lo + i) = true ∧ bit.getLsbD (lo + i) = false) :
    bitsOf ((v &&& mask) ||| bit).toNat hi lo = bitsOf v.toNat hi lo := by
  rw [bitsOf_toNat, bitsOf_toNat]
  congr 1
  ext i hlt
  simp [hm i hlt]

/-- What ERR_INJECT holds once a value that arms it has been written. -/
theorem armed_of_errInject {v : W32} (h : (s.hdr p).errInject = (v &&& 0x31F) ||| 0x80000000) :
    armed s p = some (bitsOf v.toNat 4 0, bitsOf v.toNat 9 8) := by
  have number := bitsOf_masked v 0x31F 0x80000000 (hi := 4) (lo := 0) (by decide)
  have mode := bitsOf_masked v 0x31F 0x80000000 (hi := 9) (lo := 8) (by decide)
  simp only [armed, h, bitAt_toNat, number, mode]
  simp

theorem unarmed_of_errInject {v : W32} (h : (s.hdr p).errInject = v &&& 0x31F) : armed s p = none := by
  simp only [armed, h, bitAt_toNat]
  simp

theorem fenced_modHdr (hw : s.wf) {f : Hdr → Hdr} (hf : ∀ h : Hdr, (f h).fence = h.fence ∧ (f h).enable = h.enable) :
    (s.modHdr p f).fenced p = s.fenced p := by
  have role : (s.modHdr p f).chanFenced p.chan = s.chanFenced p.chan := rfl
  simp only [State.fenced, State.modHdr_hdr_self hw, (hf _).1, (hf _).2, role]

/-- An injection that fires sets INJECTED and, where the block defines it, its cause, and ERR_INJECT keeps the number alone. -/
theorem fireCause_hdr (hw : s.wf) {n : Nat} (hn : n < 32) :
    ((fireCause p n s).hdr p).errStat.getLsbD 3 = true ∧
      (causeDefined p n = true → ((fireCause p n s).hdr p).errStat.getLsbD n = true) ∧
      ((fireCause p n s).hdr p).errInject = (s.hdr p).errInject &&& 0x1F := by
  have hd : (disarm p s).wf := modHdr_wf hw p _
  have stored : ((disarm p s).hdr p).errInject = (s.hdr p).errInject &&& 0x1F := by
    rw [disarm, State.modHdr_hdr_self hw]
  have one (m : Nat) : (causeAt p m true noDetail (disarm p s)).hdr p = ((disarm p s).hdr p).withCause m (disarm p s).now :=
    causeAt_hdr_self hd p m true noDetail
  have two (m k : Nat) : (causeAt p k true noDetail (causeAt p m true noDetail (disarm p s))).hdr p =
      (((disarm p s).hdr p).withCause m (disarm p s).now).withCause k (causeAt p m true noDetail (disarm p s)).now := by
    rw [causeAt_hdr_self (causeAt_wf hd p m true noDetail), one]
  unfold fireCause injectedCause State.when
  dsimp only
  cases hdef : causeDefined p n with
  | false =>
    simp only [Bool.not_false, if_true, one]
    exact ⟨withCause_errStat_self _ (by decide), nofun, stored⟩
  | true =>
    simp only [Bool.not_true, Bool.false_eq_true, if_false]
    split
    · split
      · rw [two]
        exact ⟨withCause_errStat_self _ (by decide), fun _ => withCause_errStat_of _ _ _ (withCause_errStat_self _ hn), stored⟩
      · next is3 =>
        obtain rfl : n = 3 := by simpa using is3
        rw [one]
        exact ⟨withCause_errStat_self _ (by decide), fun _ => withCause_errStat_self _ (by decide), stored⟩
    · rw [two]
      exact ⟨withCause_errStat_of _ _ _ (withCause_errStat_self _ (by decide)), fun _ => withCause_errStat_self _ hn, stored⟩

end

/-- Of what ERR_INJECT holds once it is armed, CAUSE alone is left when the injection is used (R90). -/
theorem errInject_number (v : W32) : ((v &&& 0x31F) ||| 0x80000000) &&& 0x1F = v &&& 0x1F := by
  have kept : ∀ i < 32, (0x1F : W32).getLsbD i = true → (0x31F : W32).getLsbD i = true ∧ (0x80000000 : W32).getLsbD i = false := by decide
  refine BitVec.eq_of_getLsbD_eq fun i hi => ?_
  simp only [BitVec.getLsbD_and, BitVec.getLsbD_or]
  cases hn : (0x1F : W32).getLsbD i with
  | false => simp only [Bool.and_false]
  | true => simp only [kept i hi hn, Bool.and_true, Bool.or_false]

/-- Settles O20: the two writes, and an injection that is not armed, waits or fires. -/
theorem errorRegisterWrites : Obligations.ErrorRegisterWrites := by
  intro p v s up
  have inject : exec (.errInject p v) s = .next ((errInjectWrite p v s).answered rsOk 0) := writeCmd_header up (off := 0x1C) (by decide) rfl v
  refine ⟨writeCmd_header up (off := 0x10) (by decide) rfl v, fun ⟨hw, _⟩ none => ?unarmed, fun ⟨hw, _⟩ mode => ?armed⟩
  case unarmed =>
    rw [inject, errInjectWrite]
    simp only [none, if_true, fireIfReleased]
    rw [unarmed_of_errInject (v := v) (by rw [State.modHdr_hdr_self hw])]
  case armed =>
    let t := s.modHdr p fun h => { h with errInject := (v &&& 0x31F) ||| 0x80000000 }
    have stored : (t.hdr p).errInject = (v &&& 0x31F) ||| 0x80000000 := by rw [State.modHdr_hdr_self hw]
    have fenced : t.fenced p = s.fenced p := fenced_modHdr hw fun _ => ⟨rfl, rfl⟩
    have write : errInjectWrite p v s = if !s.fenced p && (bitsOf v.toNat 9 8 = 3 || !retryCause p (bitsOf v.toNat 4 0))
        then fireCause p (bitsOf v.toNat 4 0) t else t := by
      simp only [errInjectWrite, mode, if_false, fireIfReleased]
      rw [armed_of_errInject stored, fenced]
    rw [inject, write]
    refine ⟨fun waits => ?_, fun released fires => ?_⟩
    · have held : (!s.fenced p && (bitsOf v.toNat 9 8 = 3 || !retryCause p (bitsOf v.toNat 4 0))) = false := by
        rcases waits with h | ⟨h3, hr⟩
        · simp [h]
        · simp [h3, hr]
      simp only [held, Bool.false_eq_true, if_false, t]
    · have now : (!s.fenced p && (bitsOf v.toNat 9 8 = 3 || !retryCause p (bitsOf v.toNat 4 0))) = true := by
        simpa [released] using fires
      obtain ⟨injected, cause, number⟩ := fireCause_hdr (s := t) (p := p) (modHdr_wf hw p _) (bitsOf_lt v.toNat 4 0)
      rw [if_pos now]
      refine ⟨_, rfl, injected, cause, number.trans ?_⟩
      rw [stored]
      exact errInject_number v

/-! ## The plane map (R22, R23) -/

/-- Two different elements of a list without repetitions meet a test, if more than one does. -/
theorem one_lt_length_filter {α : Type} [DecidableEq α] {l : List α} (hl : l.Nodup) (test : α → Bool) :
    1 < (l.filter test).length ↔ ∃ j ∈ l, ∃ k ∈ l, j ≠ k ∧ test j = true ∧ test k = true := by
  rw [← List.toFinset_card_of_nodup (hl.filter test), Finset.one_lt_card]
  simp only [List.mem_toFinset, List.mem_filter]
  exact ⟨fun ⟨j, ⟨hj, tj⟩, k, ⟨hk, tk⟩, ne⟩ => ⟨j, hj, k, hk, ne, tj, tk⟩, fun ⟨j, hj, k, hk, ne, tj, tk⟩ => ⟨j, ⟨hj, tj⟩, k, ⟨hk, tk⟩, ne⟩⟩

/-- The four refusals of a plane map, of which one suffices. -/
theorem mapBad_iff (v : W32) (s : State) :
    mapBad v s = true ↔
      (∃ k : Fin 8, bitsOf v.toNat (4 * k.val + 3) (4 * k.val) ≠ k.val ∧ bitsOf v.toNat (4 * k.val + 3) (4 * k.val) ≠ 8) ∨
      (∃ j k : Fin 8, j ≠ k ∧ bitsOf v.toNat (4 * j.val + 3) (4 * j.val) = 8 ∧ bitsOf v.toNat (4 * k.val + 3) (4 * k.val) = 8) ∨
      (∃ k : Fin 8, (bitsOf v.toNat (4 * k.val + 3) (4 * k.val) = 8) ≠ (s.supv.onSpare.getLsbD k.val = true)) ∨ s.supv.switching ≠ 0 := by
  have two := one_lt_length_filter List.nodup_range (l := List.range 8) fun k => bitsOf v.toNat (4 * k + 3) (4 * k) = 8
  simp only [mapBad, Bool.or_eq_true, List.any_eq_true, Bool.and_eq_true, decide_eq_true_eq, two, List.mem_range, or_assoc]
  refine or_congr ⟨fun ⟨k, hk, h⟩ => ⟨⟨k, hk⟩, h⟩, fun ⟨k, h⟩ => ⟨k.val, k.isLt, h⟩⟩ (or_congr ?_ (or_congr ?_ Iff.rfl))
  · exact ⟨fun ⟨j, hj, k, hk, ne, h⟩ => ⟨⟨j, hj⟩, ⟨k, hk⟩, fun e => ne (Fin.mk.inj e), h⟩,
      fun ⟨j, k, ne, h⟩ => ⟨j.val, j.isLt, k.val, k.isLt, fun e => ne (Fin.ext e), h⟩⟩
  · have same (k : Nat) : (decide (bitsOf v.toNat (4 * k + 3) (4 * k) = 8) ≠ s.supv.onSpare.getLsbD k) ↔
        ((bitsOf v.toNat (4 * k + 3) (4 * k) = 8) ≠ (s.supv.onSpare.getLsbD k = true)) := by
      cases h : s.supv.onSpare.getLsbD k <;> simp
    exact ⟨fun ⟨k, hk, h⟩ => ⟨⟨k, hk⟩, (same k).mp h⟩, fun ⟨k, h⟩ => ⟨k.val, k.isLt, (same k).mpr h⟩⟩

/-- The supervisor's own state stands. -/
def SameSupv (s t : State) : Prop := t.supv = s.supv

theorem reporting_supv : Reporting SameSupv where
  refl _ := rfl
  trans h k := Eq.trans k h
  icp _ _ := rfl
  book _ _ := rfl
  records _ _ _ := rfl
  sent _ _ := rfl
  hdrs _ _ := rfl

theorem setRole_supv {s t : State} (h : SameSupv s t) (c : Fin 9) (role : Role) (severe : Bool) : SameSupv s (setRole c role severe t) :=
  reporting_supv.setRole h (show (t.modChan c _).supv = s.supv from h)

theorem freeUnnamed_supv (s : State) : SameSupv s (freeUnnamed s) := by
  refine reporting_supv.each _ (fun c _ t ht => ?_) (reporting_supv.refl s)
  split
  · exact setRole_supv (reporting_supv.each _ (fun _ _ _ hu => reporting_supv.modHdr hu) ht) c .spare false
  · exact ht

theorem linkCheck_supv (c : Fin 9) (s : State) : SameSupv s (linkCheck c s) := by
  refine reporting_supv.each _ (fun p _ t ht => ?_) (reporting_supv.refl s)
  dsimp only
  split
  · exact ht
  · split
    · exact ht
    · exact ht

theorem planeMapWrite_taken {v : W32} {s : State} (path : Path) (ok : mapBad v s = false) : (planeMapWrite path v s).supv.planeMap = v := by
  unfold planeMapWrite
  simp only [ok, Bool.false_eq_true, if_false]
  have mapped := reporting_supv.control (code := 7) (p := gpage .supv) (src := pathSrc path) (v := v)
    (reporting_supv.refl (s.modSupv fun x => { x with planeMap := v }))
  have linked := reporting_supv.each allChans (fun c _ u hu => reporting_supv.trans hu (linkCheck_supv c u))
    (reporting_supv.trans mapped (freeUnnamed_supv _))
  exact congrArg SupvS.planeMap linked

/-- Settles O29: the map is refused with its cause, or taken. -/
theorem planeMapWrites : Obligations.PlaneMapWrites := by
  intro v s ⟨hw, _⟩ up f refused
  have run : exec (.planeMapWrite v) s = .next ((planeMapWrite .icp v s).answered rsOk 0) := writeCmd_icp up (off := 0x100) rfl rfl
  refine ⟨fun bad => ⟨_, run, rfl, ?_, ?_⟩, fun ok => ⟨_, run, rfl, ?_⟩⟩
  · have write : planeMapWrite .icp v s = cause (gpage .supv) 16 s := by
      simp only [planeMapWrite, (mapBad_iff v s).mpr bad, if_true]
    rw [write]
    exact congrArg SupvS.planeMap (reporting_supv.cause (reporting_supv.refl s))
  · have write : planeMapWrite .icp v s = cause (gpage .supv) 16 s := by
      simp only [planeMapWrite, (mapBad_iff v s).mpr bad, if_true]
    have hdr : (cause (gpage .supv) 16 s).hdr (gpage .supv) = (s.hdr (gpage .supv)).withCause 16 s.now := causeAt_hdr_self hw _ _ _ _
    rw [write, State.answered_hdr, hdr]
    exact withCause_errStat_self _ (by decide)
  · exact planeMapWrite_taken .icp (Bool.eq_false_iff.mpr fun bad => ok ((mapBad_iff v s).mp bad))

/-! ## Memory and arbiter events (R313 to R330) -/

theorem takeInjection_unarmed {s : State} {p : Page} (covers : Nat → Bool) (h : armed s p = none) : takeInjection p covers s = (none, s) := by
  simp only [takeInjection, h]

/-- Settles O23: each event on a powered channel in service. -/
theorem hbmAndCacheEvents : Obligations.HbmAndCacheEvents := by
  intro c st s live
  have powered : s.powered c = true := by
    simp only [memLive, Bool.and_eq_true] at live
    exact live.1
  refine ⟨?uncorrectable, fun addr answers user quiet => ⟨?reread, ?crc⟩, fun quiet => ⟨fun ok user => ?clean, fun user => ?dirty⟩,
    fun owner => ⟨fun held first => ?long, fun other => ?nothing⟩, fun idle => ?change, fun busy => ?wait⟩
  case uncorrectable =>
    have run : exec (.hbmUncorrectable c st) s = execHbmUncorrectable c st s := rfl
    simp only [run, execHbmUncorrectable, live, if_true]
  case reread =>
    have run : exec (.hbmReread c st addr true answers user) s = execHbmReread c st addr true answers user s := rfl
    simp only [run, execHbmReread, live, takeInjection_unarmed _ quiet]
    rfl
  case crc =>
    have run : exec (.hbmWriteCrc c st true answers user) s = execHbmWriteCrc c st true answers user s := rfl
    simp only [run, execHbmWriteCrc, live, takeInjection_unarmed _ quiet]
    rfl
  case clean =>
    have run : exec (.cacheEccError c false ok user) s = execCacheEccError c false ok user s := rfl
    simp only [run, execCacheEccError, live, takeInjection_unarmed _ quiet]
    rfl
  case dirty =>
    have run : exec (.cacheEccError c true true user) s = execCacheEccError c true true user s := rfl
    simp only [run, execCacheEccError, live, takeInjection_unarmed _ quiet]
    rfl
  case long =>
    have run : exec (.lockLong c owner) s = execLockLong c owner s := rfl
    have does : (!memLive s c || decide ((s.chan c).merid.lock ≠ some owner) || (s.chan c).merid.lockLong) = false := by
      simp [live, held, first]
    simp only [run, execLockLong, does, Bool.false_eq_true, if_false]
  case nothing =>
    have run : exec (.lockLong c owner) s = execLockLong c owner s := rfl
    have skips : (!memLive s c || decide ((s.chan c).merid.lock ≠ some owner) || (s.chan c).merid.lockLong) = true := by
      simpa [live] using other
    simp only [run, execLockLong, skips, if_true]
  case change =>
    have run : exec (.arbModeChange c) s = execArbModeChange c s := rfl
    simp only [run, execArbModeChange, powered, idle, Bool.and_self, if_true]
  case wait =>
    have run : exec (.arbModeChange c) s = execArbModeChange c s := rfl
    simp only [run, execArbModeChange, busy, Bool.and_false, Bool.false_eq_true, if_false]

end Sys2Proof.Machine
end

section
/-! SUPPORT. The power function's inputs (R446, R448, R451, R484) and the sideband's requests (R485). -/
namespace Sys2Proof.Machine

/-! ## What reports and INSTALL leave of the power state -/

/-- The power state stands. -/
def SamePwr (s t : State) : Prop := t.pwr = s.pwr

theorem reporting_pwr : Reporting SamePwr where
  refl _ := rfl
  trans h k := Eq.trans k h
  icp _ _ := rfl
  book _ _ := rfl
  records _ _ _ := rfl
  sent _ _ := rfl
  hdrs _ _ := rfl

theorem abandonInstall_pwr (s : State) : SamePwr s (abandonInstall s) := by
  unfold abandonInstall
  split
  · rfl
  · dsimp only
    split
    · rfl
    · rfl

/-! ## A loss of power (R448, R451) -/

/-- The power state after the supply of the blocks has been cut. -/
def PwrS.cut (x : PwrS) : PwrS := { x with power := .standby, changing := false, idleWanted := false, coreRunning := false, sbResp := none }

/-- Before the supply is cut the rings freeze and the epoch closes: reports, and an INSTALL given up. -/
theorem lossDown_pwr (code : Nat) (s : State) : (lossDown code s).pwr = s.pwr.cut := by
  unfold lossDown
  extract_lets frozen written
  have hfrozen : SamePwr s frozen := by
    refine reporting_pwr.each _ (fun r _ t ht => ?_) (reporting_pwr.refl s)
    split
    · exact ht
    · exact reporting_pwr.freezeRing ht
  have hwritten : SamePwr s written := reporting_pwr.modBook (reporting_pwr.bookAppend hfrozen)
  have last : SamePwr s (abandonInstall written) := reporting_pwr.trans hwritten (abandonInstall_pwr written)
  exact congrArg PwrS.cut last

theorem darken_chan (s : State) (c : Fin 9) : (darken s).chan c = { (s.chan c).kept with role := .off } := by
  have dark : (darken s).chan c = (s.mapChans fun _ ch => { ch.kept with role := .off }).chan c := rfl
  rw [dark, State.mapChans_chan]

theorem lossDown_chan (code : Nat) (s : State) (c : Fin 9) : ((lossDown code s).chan c).role = .off ∧ ((lossDown code s).chan c).mem = [] := by
  unfold lossDown
  dsimp only
  rw [darken_chan]
  exact ⟨rfl, rfl⟩

/-- The comparators' bits, TRIP_SEEN and ALERT_N. -/
def PwrS.marks (x : PwrS) : Bool × Bool × Bool × Bool × Bool × Bool := (x.uv, x.ov, x.coolant, x.leak, x.tripSeen, x.alert)

/-- The power state with a trip marked (R451, R456). -/
def PwrS.tripped (mark : PwrS → PwrS) (x : PwrS) : PwrS := { mark x with tripSeen := true, alert := true }

theorem State.on_eq (s : State) : s.on = (decide (s.pwr.power ≠ .unpowered) && decide (s.pwr.power ≠ .standby)) := by
  unfold State.on
  cases s.pwr.power <;> rfl

/-- A trip of a powered module is a loss of power (R448, R451); in Standby it is kept for the next start of the core, and unpowered it is
marked alone. -/
theorem trip_eq (code : Nat) {mark : PwrS → PwrS} (hm : ∀ x : PwrS, (mark x).power = x.power) (s : State) :
    trip code mark s =
      if s.on then (lossDown code (event code 3 pwrPage 0 true (s.modPwr (PwrS.tripped mark)))).modPwr fun x => { x with wakePending := none }
      else if s.pwr.power = .standby then (s.modPwr (PwrS.tripped mark)).modPwr fun x =>
        { x with pendingNotes := x.pendingNotes ++ [(BitVec.ofNat 16 code, 0)] }
      else s.modPwr (PwrS.tripped mark) := by
  have power : (s.modPwr (PwrS.tripped mark)).pwr.power = s.pwr.power := hm s.pwr
  unfold trip
  change (match (s.modPwr (PwrS.tripped mark)).pwr.power with
    | .unpowered => s.modPwr (PwrS.tripped mark)
    | .standby => _
    | _ => _) = _
  rw [power, State.on_eq]
  cases s.pwr.power <;> rfl

section
variable {s : State} {code : Nat} {mark : PwrS → PwrS} (hm : ∀ x : PwrS, (mark x).power = x.power)
include hm

theorem trip_marks : (trip code mark s).pwr.marks = ((mark s.pwr).uv, (mark s.pwr).ov, (mark s.pwr).coolant, (mark s.pwr).leak, true, true) := by
  rw [trip_eq code hm]
  split
  · have told : SamePwr (s.modPwr (PwrS.tripped mark)) (event code 3 pwrPage 0 true (s.modPwr (PwrS.tripped mark))) :=
      reporting_pwr.event (reporting_pwr.refl _)
    rw [State.modPwr_pwr, lossDown_pwr, told]
    rfl
  · split
    · rfl
    · rfl

theorem trip_on (on : s.on = true) : (trip code mark s).pwr.power = .standby ∧
    ∀ c, ((trip code mark s).chan c).role = .off ∧ ((trip code mark s).chan c).mem = [] := by
  rw [trip_eq code hm, if_pos on, State.modPwr_pwr, lossDown_pwr]
  exact ⟨rfl, lossDown_chan code _⟩

theorem trip_off (off : s.on = false) : (trip code mark s).pwr.power = s.pwr.power ∧ (trip code mark s).chans = s.chans := by
  rw [trip_eq code hm, off]
  simp only [Bool.false_eq_true, if_false]
  split
  · exact ⟨hm s.pwr, rfl⟩
  · exact ⟨hm s.pwr, rfl⟩

/-- What every trip leaves beside its own mark. -/
theorem trip_outcome : (trip code mark s).pwr.tripSeen = true ∧ (trip code mark s).pwr.alert = true ∧
    (s.on = true → (trip code mark s).pwr.power = .standby ∧
      ∀ k : Fin 9, ((trip code mark s).chan k).role = .off ∧ ((trip code mark s).chan k).mem = []) ∧
    (s.on = false → (trip code mark s).pwr.power = s.pwr.power ∧ (trip code mark s).chans = s.chans) := by
  have marks := trip_marks (s := s) (code := code) hm
  simp only [PwrS.marks, Prod.mk.injEq] at marks
  obtain ⟨_, _, _, _, seen, alert⟩ := marks
  exact ⟨seen, alert, trip_on hm, trip_off hm⟩

end

/-- Settles O31: the four trips differ in the bit they mark. -/
theorem comparatorTrips : Obligations.ComparatorTrips := by
  intro s
  refine ⟨_, _, _, _, rfl, rfl, rfl, rfl, ?_, ?_, ?_, ?_, ?_⟩
  · have marks := trip_marks (s := s) (code := 0x0202) (mark := fun x => { x with uv := true }) fun _ => rfl
    simp only [PwrS.marks, Prod.mk.injEq] at marks
    obtain ⟨uv, ov, coolant, leak, _⟩ := marks
    exact ⟨uv, ov, coolant, leak⟩
  · have marks := trip_marks (s := s) (code := 0x0203) (mark := fun x => { x with ov := true }) fun _ => rfl
    simp only [PwrS.marks, Prod.mk.injEq] at marks
    obtain ⟨uv, ov, coolant, leak, _⟩ := marks
    exact ⟨ov, uv, coolant, leak⟩
  · have marks := trip_marks (s := s) (code := 0x0204) (mark := fun x => { x with coolant := true }) fun _ => rfl
    simp only [PwrS.marks, Prod.mk.injEq] at marks
    obtain ⟨uv, ov, coolant, leak, _⟩ := marks
    exact ⟨coolant, uv, ov, leak⟩
  · have marks := trip_marks (s := s) (code := 0x0205) (mark := fun x => { x with leak := true }) fun _ => rfl
    simp only [PwrS.marks, Prod.mk.injEq] at marks
    obtain ⟨uv, ov, coolant, leak, _⟩ := marks
    exact ⟨leak, uv, ov, coolant⟩
  · simp only [List.mem_cons, List.not_mem_nil, or_false]
    rintro t (rfl | rfl | rfl | rfl)
    · exact trip_outcome fun _ => rfl
    · exact trip_outcome fun _ => rfl
    · exact trip_outcome fun _ => rfl
    · exact trip_outcome fun _ => rfl

/-! ## Wakes and releases (R446, R450, R451, R456, R484) -/

section
variable {s : State}

theorem wake_taken (src : BitVec 3) (dormant : Bool) (h : s.pwr.power = .standby) (ov : s.pwr.ov = false) (coolant : s.pwr.coolant = false)
    (leak : s.pwr.leak = false) :
    wake src dormant s = s.modPwr fun x => { x with wakePending := some dormant, wakeSrc := src, changing := true } := by
  simp [wake, h, ov, coolant, leak]

theorem wake_refused (src : BitVec 3) (dormant : Bool)
    (h : s.pwr.power ≠ .standby ∨ s.pwr.ov = true ∨ s.pwr.coolant = true ∨ s.pwr.leak = true) : wake src dormant s = s := by
  have refused : (s.pwr.power = .standby && !s.pwr.ov && !s.pwr.coolant && !s.pwr.leak) = false := by
    rcases h with h | h | h | h <;> simp [h]
  simp only [wake, refused, Bool.false_eq_true, if_false]

/-- A write performed over a path with a meaning of its own. -/
theorem pathWriteK_ok {path : Path} {p : Page} {off : Nat} {v : W32} {k : Page → State → State} (h : s.takesOn path p off) (ho : off < 4096)
    (ha : assigned p.blk off = true) (hi : indirect p.blk off = false) :
    pathWriteK path (regAddr p off) v k s = (rsOk, k p (coreForAccess path s)) := by
  obtain ⟨_, reach, hp, hx, hd, hf⟩ := h
  simp only [pathWriteK, reach, writeAccess, pageOf_regAddr p off hp ho, regAddr_off p off ho, coreForAccess_unreachable, coreForAccess_domOn,
    coreForAccess_fenced, hx, hd, hf, ha, hi, assigned_ge ha, if_false, Bool.not_true, Bool.false_eq_true, Bool.false_or]

theorem execLeakClear_ok {path : Path} (released : Bool) (h : s.takesOn path (gpage .pwr) 0x104) :
    execLeakClear path released s = .next ((stateReqWrite path released 0x100 (coreForAccess path s)).answered rsOk 0) := by
  unfold execLeakClear stateReqAddr
  rw [if_pos h.1, pathWriteK_ok h (by decide) rfl rfl]
  rfl

end

/-- Settles O32: releases clear their bit, a wake is taken or not, and the rest are single updates. -/
theorem releasesAndWakes : Obligations.ReleasesAndWakes := by
  intro s
  have uv (tripped : s.pwr.uv = true) : exec .uvRelease s = .next (wake 3 false (s.modPwr fun x => { x with uv := false })) := by
    have run : exec .uvRelease s = execUvRelease s := rfl
    simp only [run, execUvRelease, tripped, if_true]
  refine ⟨rfl, rfl, fun h ov coolant leak => ⟨?_, fun tripped => ?_⟩, fun h => ⟨?_, fun tripped => ?_⟩, fun path released up => ?_,
    fun path up => ?_, fun h => ?_⟩
  · exact congrArg Host.Outcome.next (wake_taken 1 false h ov coolant leak)
  · rw [uv tripped, wake_taken 3 false (s := s.modPwr fun x => { x with uv := false }) h ov coolant leak]
    rfl
  · exact congrArg Host.Outcome.next (wake_refused 1 false h)
  · rw [uv tripped, wake_refused 3 false (s := s.modPwr fun x => { x with uv := false }) h]
  · exact execLeakClear_ok released up
  · have run := writeCmd_ok up (by decide) rfl (0x8000 : W32)
    exact run
  · have run : exec .sxCoreStop s = execSxCoreStop s := rfl
    simp only [run, execSxCoreStop, h, if_true]

/-! ## Sideband requests (R483 to R485) -/

section
variable {s : State} {p : Page} {off : Nat} {a v : W32}

theorem pathRead_refused {path : Path} {st : H16} (h : pathRefuses path sbReads a = some st) : pathRead path a s = (st, 0, coreForAccess path s) := by
  simp only [pathRead, h]

theorem pathWrite_refused {path : Path} {st : H16} (h : pathRefuses path sbWrites a = some st) :
    pathWrite path a v s = (st, coreForAccess path s) := by
  simp only [pathWrite, pathWriteK, h]

/-- The sideband writes no indirect data register. -/
theorem indirect_of_takesOn (h : s.takesOn .sideband p off) (ho : off < 4096) : indirect p.blk off = false := by
  obtain ⟨_, reach, hp, _⟩ := h
  have writes : sbWrites p off = true := by
    by_contra no
    simp [pathRefuses, pageOf_regAddr p off hp ho, regAddr_off p off ho, Bool.eq_false_iff.mpr no] at reach
  unfold sbWrites at writes
  split at writes
  · next hb => rw [hb]; rfl
  · next hb =>
    rw [hb]
    simp only [Bool.or_eq_true, decide_eq_true_eq] at writes
    rcases writes with rfl | rfl <;> rfl
  · next hb =>
    rw [hb]
    obtain rfl := of_decide_eq_true writes
    rfl
  · cases writes

theorem execSbRead_ok {st : H16} {x : W32} {t : State} (up : pathUp .sideband s = true) (h : pathRead .sideband a s = (st, x, t)) :
    exec (.sbRead a true) s = .next (sbAnswer st (toLE 4 x.toNat) (t.answered st x)) := by
  have run : exec (.sbRead a true) s = execSbRead a true s := rfl
  simp only [run, execSbRead, up, h, Bool.not_true, Bool.false_eq_true, if_false, State.answered]

theorem execSbWrite_ok {st : H16} {t : State} (up : pathUp .sideband s = true) (h : pathWrite .sideband a v s = (st, t)) :
    exec (.sbWrite a v true) s = .next (sbAnswer st [] (t.answered st 0)) := by
  have run : exec (.sbWrite a v true) s = execSbWrite a v true s := rfl
  simp only [run, execSbWrite, up, h, Bool.not_true, Bool.false_eq_true, if_false, State.answered]

theorem execTelem_some {q ch inst : Byte} {x : W32} {t : State} (up : pathUp .sideband s = true)
    (h : telemValue q ch inst (coreForAccess .sideband s) = (some x, t)) :
    exec (.telem q ch inst true) s = .next (sbAnswer rsOk (toLE 4 x.toNat) (t.answered rsOk x)) := by
  have run : exec (.telem q ch inst true) s = execTelem q ch inst true s := rfl
  simp only [run, execTelem, up, h, Bool.not_true, Bool.false_eq_true, if_false, State.answered]

theorem execTelem_none {q ch inst : Byte} {t : State} (up : pathUp .sideband s = true)
    (h : telemValue q ch inst (coreForAccess .sideband s) = (none, t)) :
    exec (.telem q ch inst true) s = .next (sbAnswer rsAddr (toLE 4 0) (t.answered rsAddr 0)) := by
  have run : exec (.telem q ch inst true) s = execTelem q ch inst true s := rfl
  simp only [run, execTelem, up, h, Bool.not_true, Bool.false_eq_true, if_false, State.answered]

theorem coreForAccess_telem (path : Path) (s : State) : (coreForAccess path s).draws = s.draws ∧ (coreForAccess path s).book = s.book := by
  unfold coreForAccess
  split <;> exact ⟨rfl, rfl⟩

end

/-- Settles O35: each request is one access, and its answer is kept for the next sideband read. -/
theorem sidebandRequests : Obligations.SidebandRequests := by
  intro s up u
  obtain ⟨draws, book⟩ := coreForAccess_telem .sideband s
  refine ⟨fun p off h ho ha => ?_, fun p off v h ho ha => ?_, fun a v p hp => ⟨fun no => ?_, fun no => ?_⟩,
    fun a v q ch inst => ⟨?_, ?_, ?_⟩, fun q ch inst => ⟨fun hq => ?_, fun coolant srtc other => ?_, fun g coolant srtc key found => ?_⟩,
    fun a => ?_, rfl⟩
  · exact execSbRead_ok up (pathRead_ok h ho ha)
  · have write := pathWrite_ok h ho ha v
    simp only [indirect_of_takesOn h ho, Bool.false_eq_true, if_false] at write
    exact execSbWrite_ok up write
  · exact execSbRead_ok up (pathRead_refused (pathRefuses_sideband_reach _ hp no))
  · exact execSbWrite_ok up (pathWrite_refused (pathRefuses_sideband_reach _ hp no))
  · have run : exec (.sbRead a false) s = execSbRead a false s := rfl
    simp only [run, execSbRead, up, Bool.not_true, Bool.false_eq_true, if_false, Bool.not_false, if_true, sbPecBad, u]
  · have run : exec (.sbWrite a v false) s = execSbWrite a v false s := rfl
    simp only [run, execSbWrite, up, Bool.not_true, Bool.false_eq_true, if_false, Bool.not_false, if_true, sbPecBad, u]
  · have run : exec (.telem q ch inst false) s = execTelem q ch inst false s := rfl
    simp only [run, execTelem, up, Bool.not_true, Bool.false_eq_true, if_false, Bool.not_false, if_true, sbPecBad, u]
  · have value : telemValue q ch inst u = (some (Config.free s.draws), { u with draws := s.draws + 1 }) := by
      have noGauge : (q = 0x10 || q = 0x20) = true := by simpa using hq
      simp only [telemValue, noGauge, if_true, State.draw, draws, u]
    exact execTelem_some up value
  · have value : telemValue q ch inst u = (none, u) := by
      simp only [telemValue, coolant, srtc, decide_false, Bool.or_self, other, Bool.false_eq_true, if_false]
    exact execTelem_none up value
  · have value : telemValue q ch inst u = (some g.latest, u) := by
      simp only [telemValue, coolant, srtc, decide_false, Bool.or_self, key, Bool.false_eq_true, if_false, if_true, u, book, found]
    exact execTelem_some up value
  · have run : exec (.dynamicAddress a) s = execDynamicAddress a s := rfl
    simp only [run, execDynamicAddress, up, if_true]

end Sys2Proof.Machine
end

section
/-! SUPPORT. Requests of a power state (R446, R447). -/
namespace Sys2Proof.Machine

/-! ## The power state reached -/

section
variable {s : State} {p : Power}

theorem setPower_pwr (p : Power) (s : State) : (setPower p s).pwr = { s.pwr with power := p } := by
  unfold setPower
  split
  · next same => rw [← same]
  · exact reporting_pwr.event (reporting_pwr.refl (s.modPwr fun x => { x with power := p }))

theorem darken_power (s : State) : (darken s).pwr.power = .standby := rfl

theorem orderlyDown_power (s : State) : (orderlyDown s).pwr.power = .standby := by
  unfold orderlyDown
  exact darken_power _

end

/-! ## State requests -/

section
variable {s : State} {path : Path}

/-- The state in which the meaning of a request runs: a write of STATE_REQ draws whether the leak's sense has released (R451). -/
def State.requested (s : State) (path : Path) : State := coreForAccess path { s with draws := s.draws + 1 }

theorem requested_parts (path : Path) (s : State) :
    (s.requested path).on = s.on ∧ (s.requested path).pwr.power = s.pwr.power ∧ platPausing (s.requested path) = platPausing s ∧
      (∀ code, stateReqOk path code (s.requested path) = stateReqOk path code s) ∧
      (s.requested path).pwr.ov = s.pwr.ov ∧ (s.requested path).pwr.coolant = s.pwr.coolant ∧ (s.requested path).pwr.leak = s.pwr.leak := by
  unfold State.requested coreForAccess
  split <;> exact ⟨rfl, rfl, rfl, fun _ => rfl, rfl, rfl, rfl⟩

theorem draw_coreForAccess (path : Path) (s : State) : (coreForAccess path s).draw.2 = s.requested path := by
  unfold State.requested coreForAccess
  split
  · rfl
  · rfl

theorem stateReqWrite_code (released : Bool) {v : W32} {code : Nat} (hc : bitsOf v.toNat 2 0 = code) (h0 : code ≠ 0)
    (h8 : bitAt v.toNat 8 = false) (s : State) :
    stateReqWrite path released v s = if stateReqOk path code s then stateReqGo code s else cause (gpage .pwr) 0 s := by
  cases ok : stateReqOk path code s with
  | false => simp only [stateReqWrite, hc, h0, ok, ne_eq, not_false_eq_true, decide_true, Bool.not_false, Bool.and_self, if_true,
      Bool.false_eq_true, if_false, cfgRefused, pwrPage]
  | true => simp only [stateReqWrite, hc, h0, ok, h8, State.when, stateReq, Bool.not_true, Bool.and_false, Bool.false_eq_true, if_false, if_true]

/-- A request of a power state, accepted or refused (R447). -/
theorem stateReqCmd (up : s.takesOn path (gpage .pwr) 0x104) {v : W32} {code : Nat} (hc : bitsOf v.toNat 2 0 = code) (h0 : code ≠ 0)
    (h8 : bitAt v.toNat 8 = false) :
    writeCmd path stateReqAddr v s = .next (State.answered
      (if stateReqOk path code s then stateReqGo code (s.requested path) else cause (gpage .pwr) 0 (s.requested path)) rsOk 0) := by
  have write : writeSpecific path (gpage .pwr) 0x104 v (coreForAccess path s) =
      stateReqWrite path ((coreForAccess path s).draw.1.getLsbD 0) v (coreForAccess path s).draw.2 := rfl
  have direct : indirect (gpage .pwr).blk 0x104 = false := rfl
  have asked : stateReqAddr = regAddr (gpage .pwr) 0x104 := rfl
  obtain ⟨_, _, _, ok, _⟩ := requested_parts path s
  simp only [asked, writeCmd_ok up (by decide) rfl v, direct, Bool.false_eq_true, if_false, write, draw_coreForAccess,
    stateReqWrite_code _ hc h0 h8, ok]

theorem stateReqGo_standby (on : s.on = true) : (stateReqGo 4 s).pwr.power = .standby := by
  unfold stateReqGo
  rw [on]
  exact orderlyDown_power s

theorem stateReqGo_dormant (on : s.on = true) : (stateReqGo 3 s).pwr.power = .dormant := by
  unfold stateReqGo
  rw [on, if_neg (by decide), if_neg (by decide), if_pos rfl, setPower_pwr]

theorem stateReqGo_active (on : s.on = true) : (stateReqGo 1 s).pwr.power = .active := by
  unfold stateReqGo
  rw [on, if_neg (by decide), if_neg (by decide), if_neg (by decide), if_pos rfl]
  split
  · rw [setPower_pwr]
  · rw [setPower_pwr]

theorem stateReqGo_idle_of_dormant (dormant : s.pwr.power = .dormant) : (stateReqGo 2 s).pwr.power = .idle := by
  have on : s.on = true := by simp [State.on_eq, dormant]
  unfold stateReqGo
  rw [on, if_neg (by decide), if_neg (by decide), if_neg (by decide), if_neg (by decide), if_neg (by simp [dormant]), setPower_pwr]

theorem stateReqGo_idle_of_active (h : s.pwr.power = .active) (resting : platPausing s = false) :
    (stateReqGo 2 s).pwr.changing = true ∧ (stateReqGo 2 s).pwr.idleWanted = false := by
  have on : s.on = true := by simp [State.on_eq, h]
  simp [stateReqGo, on, h, resting, beginIdle]

theorem stateReqGo_wake (off : s.on = false) (code : Nat) : stateReqGo code s = wake 2 (code = 3) s := by
  simp only [stateReqGo, off, Bool.not_false, if_true]

/-- A request that is accepted in Standby finds a wake allowed (R447). -/
theorem standby_of_stateReqOk {code : Nat} (off : s.on = false) (ok : stateReqOk path code s = true) :
    s.pwr.power = .standby ∧ s.pwr.ov = false ∧ s.pwr.coolant = false ∧ s.pwr.leak = false := by
  simp only [stateReqOk, off, wakeAllowed, Bool.and_eq_true, Bool.not_eq_true', decide_eq_true_eq, Bool.false_eq_true, if_false] at ok
  obtain ⟨_, _, ⟨⟨⟨power, _⟩, ov⟩, coolant⟩, leak⟩ := ok
  exact ⟨power, ov, coolant, leak⟩

end

/-- Settles O33: a request is refused or goes, and the state named is reached. -/
theorem stateRequests : Obligations.StateRequests := by
  intro path s up u
  obtain ⟨on, power, pausing, _, ov, coolant, leak⟩ := requested_parts path s
  have active : exec (.stateReqActive path) s = .next (State.answered
      (if stateReqOk path 1 s then stateReqGo 1 (s.requested path) else cause (gpage .pwr) 0 (s.requested path)) rsOk 0) :=
    stateReqCmd up (v := 1) rfl (by decide) rfl
  have idle : exec (.stateReqIdle path) s = .next (State.answered
      (if stateReqOk path 2 s then stateReqGo 2 (s.requested path) else cause (gpage .pwr) 0 (s.requested path)) rsOk 0) :=
    stateReqCmd up (v := 2) rfl (by decide) rfl
  have dormant : exec (.stateReqDormant path) s = .next (State.answered
      (if stateReqOk path 3 s then stateReqGo 3 (s.requested path) else cause (gpage .pwr) 0 (s.requested path)) rsOk 0) :=
    stateReqCmd up (v := 3) rfl (by decide) rfl
  have standby : exec (.stateReqStandby path) s = .next (State.answered
      (if stateReqOk path 4 s then stateReqGo 4 (s.requested path) else cause (gpage .pwr) 0 (s.requested path)) rsOk 0) :=
    stateReqCmd up (v := 4) rfl (by decide) rfl
  refine ⟨?refused, fun hon => ?powered, fun off => ?wake, fun hp hc hi quiet => ?reached⟩
  case refused =>
    simp only [List.mem_cons, List.not_mem_nil, or_false, Prod.mk.injEq]
    rintro i code (⟨rfl, rfl⟩ | ⟨rfl, rfl⟩ | ⟨rfl, rfl⟩ | ⟨rfl, rfl⟩) no
    · rw [active, no]; rfl
    · rw [idle, no]; rfl
    · rw [dormant, no]; rfl
    · rw [standby, no]; rfl
  case powered =>
    refine ⟨fun ok => ⟨_, standby, ?_⟩, fun ok => ⟨_, dormant, ?_⟩, fun ok => ⟨_, active, ?_⟩,
      fun ok => ⟨fun h => ⟨_, idle, ?_⟩, fun h resting => ⟨_, idle, ?_⟩⟩⟩
    · rw [ok]; exact stateReqGo_standby (on.trans hon)
    · rw [ok]; exact stateReqGo_dormant (on.trans hon)
    · rw [ok]; exact stateReqGo_active (on.trans hon)
    · rw [ok]; exact stateReqGo_idle_of_dormant (power.trans h)
    · rw [ok]; exact stateReqGo_idle_of_active (power.trans h) (pausing.trans resting)
  case wake =>
    have taken {code : Nat} (ok : stateReqOk path code s = true) : stateReqGo code (s.requested path) =
        (s.requested path).modPwr fun x => { x with wakePending := some (code = 3), wakeSrc := 2, changing := true } := by
      obtain ⟨hs, hov, hcoolant, hleak⟩ := standby_of_stateReqOk off ok
      rw [stateReqGo_wake (on.trans off), wake_taken 2 _ (power.trans hs) (ov.trans hov) (coolant.trans hcoolant) (leak.trans hleak)]
    simp only [List.mem_cons, List.not_mem_nil, or_false, Prod.mk.injEq]
    rintro i code dorm (⟨rfl, rfl, rfl⟩ | ⟨rfl, rfl, rfl⟩) ok
    · refine ⟨_, active, ?_⟩
      rw [ok, if_pos rfl, taken ok]
      exact ⟨rfl, rfl, power.trans (standby_of_stateReqOk off ok).1⟩
    · refine ⟨_, dormant, ?_⟩
      rw [ok, if_pos rfl, taken ok]
      exact ⟨rfl, rfl, power.trans (standby_of_stateReqOk off ok).1⟩
  case reached =>
    have due : idleDue s = s := by simp only [idleDue, hi, Bool.false_and, Bool.false_eq_true, if_false]
    have still : (allChans.all fun c => (s.chan c).fly.isEmpty && !bitAt s.supv.surveyRunning.toNat c.val) = true := by
      simp only [List.all_eq_true, bitAt_toNat]
      intro c _
      simp [(quiet c).1, (quiet c).2]
    have run : exec .idleReached s = .next (setPower .idle (s.modPwr fun x => { x with changing := false })) := by
      have unfolded : exec .idleReached s = execIdleReached s := rfl
      simp only [unfolded, execIdleReached, due, hp, hc, still, decide_true, Bool.and_self, if_true]
    refine ⟨_, run, ?_⟩
    rw [setPower_pwr]
    exact ⟨rfl, rfl⟩

end Sys2Proof.Machine
end

section
/-! SUPPORT. The events of power, cooling and supervision (R444, R449, R453, R454, R466). -/
namespace Sys2Proof.Machine

/-! ## Warnings, lost rails and thermal limits (R444, R449, R453, R454) -/

section
variable {s t : State}

theorem chanBlks_isChan : ∀ b ∈ chanBlks, b.isChan = true := by decide

theorem chanPages_isChan {c : Fin 9} {p : Page} (h : p ∈ chanPages c) : p.blk.isChan = true := by
  unfold chanPages at h
  obtain ⟨b, hb, hi⟩ := List.mem_flatMap.mp h
  obtain ⟨i, _, hp⟩ := List.mem_filterMap.mp hi
  split at hp
  · obtain rfl := Option.some.inj hp
    exact chanBlks_isChan b hb
  · cases hp

theorem domainPages_isChan {c : Fin 9} {d : Fin 6} {p : Page} (h : p ∈ domainPages c d) : p.blk.isChan = true :=
  chanPages_isChan (List.mem_filter.mp h).1

/-- An update of a channel that leaves its role. -/
theorem Stands.modChan {c : Fin 9} {f : Chan → Chan} (h : Stands s t) (hf : ∀ x : Chan, (f x).role = x.role := by exact fun _ => rfl) :
    Stands s (t.modChan c f) :=
  h.trans (Stands.of_role rfl rfl rfl rfl (Stands.modChan_role t c f hf))

/-- Taking the core rails of a channel away leaves its role. -/
theorem Stands.removeCoreRails (h : Stands s t) (c : Fin 9) : Stands s (Machine.removeCoreRails c t) := by
  unfold Machine.removeCoreRails
  refine Stands.modChan (Stands.frame.each _ (fun p hp u hu => ?_) h)
  split
  · exact hu
  · obtain ⟨d, _, hd⟩ := List.mem_flatMap.mp hp
    exact hu.powerDownBlock (domainPages_isChan hd)

theorem powered_of_chans (h : t.chans = s.chans) (c : Fin 9) : t.powered c = s.powered c := by
  unfold State.powered State.chan
  rw [h]

theorem chanFenced_of_chans (h : t.chans = s.chans) (c : Fin 9) : t.chanFenced c = s.chanFenced c := by
  unfold State.chanFenced State.chan
  rw [h]

theorem reporting_chans : Reporting fun s t => t.chans = s.chans where
  refl _ := rfl
  trans h k := k.trans h
  icp _ _ := rfl
  book _ _ := rfl
  records _ _ _ := rfl
  sent _ _ := rfl
  hdrs _ _ := rfl

/-- The third lost phase of a rail of a channel makes the channel FAILED (R444). -/
theorem railLost_failed {rail : Nat} {c : Fin 9} (hc : rail / 6 = c.val) (powered : s.powered c = true) :
    ((railLost rail s).chan c).role = .failed := by
  unfold railLost
  extract_lets sev told
  have chan : (⟨rail / 6, by omega⟩ : Fin 9) = c := Fin.ext hc
  have still : told.powered c = true := (powered_of_chans (reporting_chans.event (reporting_chans.refl s)) c).trans powered
  rw [dif_pos (by omega)]
  simp only [chan, still, if_true]
  rw [State.modChan_chan_self]
  exact fenceChannel_role _ c true none nofun

theorem execPhaseFail_lost (on : s.on = true) {rail : Fin 58} (left : railsGone s [rail.val] = false) :
    let n := min 3 (spGet (fun _ => 0) s.pwr.phasesLost rail.val + 1)
    let told := event 0x0206 0 (gpage .pwr) rail.val true (cause (gpage .pwr) 16
      (s.modPwr fun x => { x with phasesLost := spSet (fun _ => 0) x.phasesLost rail.val n, lastRail := rail.val }))
    execPhaseFail rail s = .next (told.when (n = 3) (railLost rail.val)) := by
  unfold execPhaseFail
  rw [if_neg (by simp [on, left])]
  rfl

theorem execThermalTrip_fenced (on : s.on = true) {d : Die} {c : Fin 9} (hd : dieChan d = some c) (powered : s.powered c = true)
    (serving : s.chanFenced c = false) : ∃ t, execThermalTrip d s = .next t ∧ (t.chan c).role = .fenced := by
  unfold execThermalTrip
  rw [if_neg (by simp [on])]
  extract_lets told
  have chans : told.chans = s.chans := reporting_chans.event (reporting_chans.cause (reporting_chans.refl s))
  simp only [hd, powered_of_chans chans, chanFenced_of_chans chans, powered, serving, Bool.false_eq_true, if_false, if_true]
  have fenced := fenceChannel_role told c (role := .fenced) true none nofun
  have after := (Stands.frame.refl (fenceChannel c .fenced true none told)).removeCoreRails c
  exact ⟨_, rfl, by rw [after.role_eq (by rw [fenced]; nofun), fenced]⟩

theorem execThermalTrip_module (on : s.on = true) {d : Die} (hd : dieChan d = none) :
    ∃ t, execThermalTrip d s = .next t ∧ t.pwr.power = .standby := by
  unfold execThermalTrip
  rw [if_neg (by simp [on])]
  extract_lets told
  simp only [hd]
  exact ⟨_, rfl, by rw [lossDown_pwr]; rfl⟩

/-! ## The supervisor's two sides (R466) -/

/-- Which SX is active and whether the other stands by. -/
def SameSides (s t : State) : Prop := t.sec.sxActive = s.sec.sxActive ∧ t.sec.standbyOk = s.sec.standbyOk

theorem sides_frame : Frame SameSides where
  refl _ := ⟨rfl, rfl⟩
  trans h k := ⟨k.1.trans h.1, k.2.trans h.2⟩
  icp _ _ := ⟨rfl, rfl⟩
  loans _ _ := ⟨rfl, rfl⟩
  book _ _ := ⟨rfl, rfl⟩
  supv _ _ _ := ⟨rfl, rfl⟩
  records _ _ _ := ⟨rfl, rfl⟩
  sent _ _ := ⟨rfl, rfl⟩
  draws _ _ := ⟨rfl, rfl⟩
  hdrs _ _ := ⟨rfl, rfl⟩
  regs _ _ _ _ := ⟨rfl, rfl⟩
  link _ _ _ _ := ⟨rfl, rfl⟩
  lent _ h := h

theorem abandonInstall_sides (s : State) : SameSides s (abandonInstall s) := by
  unfold abandonInstall
  split
  · exact ⟨rfl, rfl⟩
  · dsimp only
    split
    · exact ⟨(apply_ite SecS.sxActive _ _ _).trans (ite_self _), (apply_ite SecS.standbyOk _ _ _).trans (ite_self _)⟩
    · exact ⟨rfl, rfl⟩

theorem SameSides.mapChans (h : SameSides s t) (f : Fin 9 → Chan → Chan) : SameSides s (t.mapChans f) := h

/-- The standby SX becomes the active one, and none is left to stand by. -/
theorem takeover_sides (ready : s.sec.standbyOk = true) :
    (takeover false s).sec.sxActive = !s.sec.sxActive ∧ (takeover false s).sec.standbyOk = false := by
  unfold takeover
  rw [if_neg (by simp [ready])]
  extract_lets was given swapped asked advanced ended
  have hadvanced : SameSides asked advanced := sides_frame.each _ (fun _ _ _ ht => sides_frame.modHdr ht) (sides_frame.refl _)
  have hended : SameSides asked ended :=
    SameSides.mapChans (sides_frame.each _ (fun _ _ _ ht => sides_frame.stopSurvey ht) hadvanced) _
  obtain ⟨active, left⟩ : SameSides asked (event 0x0160 1 (gpage .supv) 0 true ended) := sides_frame.event hended
  have side : asked.sec.sxActive = !s.sec.sxActive := rfl
  have none : asked.sec.standbyOk = false := rfl
  exact ⟨active.trans side, left.trans none⟩

theorem takeover_none (none : s.sec.standbyOk = false) : takeover false s = s := by
  unfold takeover
  rw [if_pos (by simp [none])]

end

/-- Settles O34: each event by its own outcome. -/
theorem powerAndThermalEvents : Obligations.PowerAndThermalEvents := by
  intro s on
  refine ⟨?_, ?_, ?_, fun rail gone => ?_, fun rail left => ?_, fun c hot powered changed => ?_, fun d => ?_, fun ready => ?_, ?_⟩
  case refine_1 =>
    have run : exec .inputLow s = execInputLow s := rfl
    simp only [run, execInputLow, on, if_true, pwrPage]
  case refine_2 =>
    have run : exec .coolantWarn s = execCoolantWarn s := rfl
    simp only [run, execCoolantWarn, on, if_true, pwrPage]
  case refine_3 =>
    have run : exec .opHours s = execOpHours s := rfl
    simp only [run, execOpHours, on, if_true]
  case refine_4 =>
    have run : exec (.phaseFail rail) s = execPhaseFail rail s := rfl
    simp only [run, execPhaseFail, gone, Bool.or_true, if_true]
  case refine_5 =>
    have run : exec (.phaseFail rail) s = execPhaseFail rail s := rfl
    rw [run, execPhaseFail_lost on left]
    refine ⟨fun few => ?_, fun three c hc powered => ⟨_, rfl, ?_⟩⟩
    · rw [decide_eq_false few]
      rfl
    · rw [decide_eq_true three]
      refine railLost_failed hc ?_
      rw [powered_of_chans (s := s) ?_ c, powered]
      exact reporting_chans.event (reporting_chans.cause rfl)
  case refine_6 =>
    have run : exec (.thermalPark c hot) s = execThermalPark c hot s := rfl
    simp only [run, execThermalPark, powered, changed, Bool.not_true, decide_false, Bool.or_self, Bool.false_eq_true, if_false, pwrPage]
    rfl
  case refine_7 =>
    obtain ⟨t, ht, _⟩ := everyCommandCompletes (.thermalTrip d) s
    refine ⟨t, ht, fun hd => ?_, fun c hd powered serving => ?_⟩
    · obtain ⟨_, hu, standby⟩ := execThermalTrip_module on hd
      obtain rfl := Host.Outcome.next.inj (hu.symm.trans ht)
      exact standby
    · obtain ⟨_, hu, fenced⟩ := execThermalTrip_fenced on hd powered serving
      obtain rfl := Host.Outcome.next.inj (hu.symm.trans ht)
      exact fenced
  case refine_8 =>
    have run : exec .heartbeatTimeout s = execHeartbeatTimeout s := rfl
    simp only [run, execHeartbeatTimeout, on, if_true]
    exact ⟨_, rfl, takeover_sides ready⟩
  case refine_9 =>
    have run : exec .alwaysOnPowerLoss s = execAlwaysOnPowerLoss s := rfl
    have standing : (s.pwr.power = .standby || s.pwr.power = .unpowered) = false := by
      rw [State.on_eq] at on
      cases h : s.pwr.power <;> simp_all
    simp only [run, execAlwaysOnPowerLoss, standing, Bool.false_eq_true, if_false]
    exact ⟨_, rfl, rfl, rfl, fun c => (lossDown_chan _ s c).1⟩

end Sys2Proof.Machine
end

section
/-! SUPPORT. Component images that do not report ready (R463) and clock domains that lose lock (R410, R466). -/
namespace Sys2Proof.Machine

/-! ## Loads (R463) -/

section
variable {s : State}

/-- The identity and boot state stands. -/
def SameSec (s t : State) : Prop := t.sec = s.sec

theorem reporting_sec : Reporting SameSec where
  refl _ := rfl
  trans h k := Eq.trans k h
  icp _ _ := rfl
  book _ _ := rfl
  records _ _ _ := rfl
  sent _ _ := rfl
  hdrs _ _ := rfl

/-- A load of the other slot marks it as the preferred one. -/
theorem slotFallback_sec (i : Fin 6) (inj : Bool) (s : State) :
    (slotFallback i inj s).sec = { s.sec with preferred := s.sec.preferred ^^^ BitVec.ofNat 6 (2 ^ i.val) } := by
  unfold slotFallback
  extract_lets lasting marked
  have same : SameSec s lasting := reporting_sec.lastingEvent_global (reporting_sec.refl s) rfl
  have told : SameSec marked (event 0x0301 2 (gpage .sec) 0 true (cause (gpage .sec) 17 marked)) :=
    reporting_sec.event (reporting_sec.cause (reporting_sec.refl marked))
  have marks : marked.sec = { lasting.sec with preferred := lasting.sec.preferred ^^^ BitVec.ofNat 6 (2 ^ i.val) } := rfl
  rw [same] at marks
  exact Eq.trans told marks

theorem getLsbD_ofNat_two_pow_self (i : Fin 6) : (BitVec.ofNat 6 (2 ^ i.val)).getLsbD i.val = true := by
  revert i
  decide

/-- The bit of the slot that was not preferred is what the active slot takes. -/
theorem getLsbD_fallback (active preferred : BitVec 6) (i : Fin 6) :
    ((active &&& ~~~(BitVec.ofNat 6 (2 ^ i.val))) ||| ((preferred ^^^ BitVec.ofNat 6 (2 ^ i.val)) &&& BitVec.ofNat 6 (2 ^ i.val))).getLsbD i.val =
      !preferred.getLsbD i.val := by
  simp only [BitVec.getLsbD_or, BitVec.getLsbD_and, BitVec.getLsbD_not, BitVec.getLsbD_xor, getLsbD_ofNat_two_pow_self, i.isLt, decide_true,
    Bool.not_true, Bool.and_false, Bool.xor_true, Bool.and_true, Bool.false_or]

/-- A channel whose image cannot be loaded is FAILED, powered or not. -/
theorem failed_of_fence_or_role (b : Bool) (c : Fin 9) (f : Chan → Chan) (s : State) :
    ((if b then fenceChannel c .failed true none (s.modChan c f) else setRole c .failed true s).chan c).role = .failed := by
  split
  · exact fenceChannel_role _ c true none nofun
  · exact setRole_role s c true nofun

end

/-- Settles O37: by the four ways a load that timed out goes on. -/
theorem loadTimeouts : Obligations.LoadTimeouts := by
  intro comp s on quiet
  have run (ch : Option (Fin 9)) (r o : Bool) : exec (.loadTimeout comp ch r o) s = execLoadTimeout comp ch r o s := rfl
  refine ⟨fun big ch r o => ?none, fun h => ⟨fun ch o => ?retried, fun other ch => ?other, fun core ch => ?core, fun image c => ?channel⟩⟩
  case none =>
    rw [run, execLoadTimeout, dif_neg (by omega)]
  all_goals simp only [run, execLoadTimeout, h, dif_pos, on, Bool.not_true, Bool.false_eq_true, if_false, takeInjection_unarmed _ quiet]
  case retried => rfl
  case other =>
    simp only [other, Bool.false_and, Bool.and_self, Bool.false_eq_true, if_false, if_true]
    refine ⟨_, rfl, ?_⟩
    have sec := slotFallback_sec ⟨comp.toNat, h⟩ false s
    have bit := getLsbD_fallback s.sec.active s.sec.preferred ⟨comp.toNat, h⟩
    simp only [State.modSec, injectedIf, State.when, Option.isSome_none, Bool.false_eq_true, if_false, sec, bit]
  case core =>
    simp only [Bool.false_and, Bool.false_eq_true, if_false]
    have : comp.toNat = 0 ∨ comp.toNat = 1 := by omega
    rcases this with zero | one
    · simp only [zero, if_true]
      refine ⟨_, rfl, ?_⟩
      rw [State.modPwr_pwr, orderlyDown_power]
    · simp only [one, Nat.one_ne_zero, if_false, if_true]
      exact ⟨_, rfl, orderlyDown_power _⟩
  case channel =>
    have zero : comp.toNat ≠ 0 := by omega
    have one : comp.toNat ≠ 1 := by omega
    simp only [Bool.false_and, Bool.false_eq_true, if_false, zero, one]
    exact ⟨_, rfl, failed_of_fence_or_role _ c _ _⟩

/-! ## Lost clocks (R410, R466) -/

section
variable {s t : State}

/-- A serving channel is fenced at the end, and one already out of service keeps its role. -/
theorem fenced_of_stands (h : Stands s t) {c : Fin 9} (live : (s.chan c).role ≠ .failed) :
    ((if t.chanFenced c then t else fenceChannel c .fenced true none t).chan c).role = .fenced := by
  split
  · next out =>
    have role : (t.chan c).role = .fenced ∨ (t.chan c).role = .failed := by
      unfold State.chanFenced at out
      split at out
      · next e => exact .inl e
      · next e => exact .inr e
      · cases out
    rcases h.role c with same | ⟨_, spare⟩
    · exact role.resolve_right fun failed => live (same ▸ failed)
    · rw [spare] at role
      simp at role
  · exact fenceChannel_role _ c true none nofun

theorem Stands.powerDownDomain (h : Stands s t) (c : Fin 9) (i : Fin 6) : Stands s (t.each (domainPages c i) Machine.powerDownBlock) :=
  Stands.frame.each _ (fun _ hp _ hu => hu.powerDownBlock (domainPages_isChan hp)) h

/-- A loss of lock that is not the first that relocks takes the channel out of service. -/
theorem execLockLoss_chan (on : s.on = true) {d : Domain} {c : Fin 9} {i : Fin 6} (hd : Domain.place d = .inl (c, i))
    (powered : s.powered c = true) (runs : (s.chan c).domRun[i.val] = true) {relocks : Bool}
    (lasting : relocks = false ∨ (s.chan c).domOnce[i.val] = true) (live : (s.chan c).role ≠ .failed) :
    ∃ t, execLockLoss d relocks s = .next t ∧ (t.chan c).role = .fenced := by
  unfold execLockLoss
  rw [if_neg (by simp [on])]
  simp only [hd]
  rw [if_neg (by simp [powered, runs])]
  rw [if_neg (by rcases lasting with h | h <;> simp [h])]
  refine ⟨_, rfl, fenced_of_stands ?_ live⟩
  have F := Stands.frame
  have down : Stands s ((takeInjection (cpage c .cclk) commonCover s).2.each (domainPages c i) powerDownBlock) :=
    (F.takeInjection (F.refl s)).powerDownDomain c i
  exact Stands.modChan (F.injectedIf (F.lastingEvent (Stands.modChan down)))

end

section
variable {s t : State}

theorem stopBlock_global {b : Blk} (hb : b ∈ globalBlks) (s : State) : stopBlock (gpage b) s = stopGlobal b s := by
  simp only [globalBlks, List.mem_cons, List.not_mem_nil, or_false] at hb
  rcases hb with rfl | rfl | rfl | rfl | rfl | rfl | rfl <;> rfl

theorem SameSides.stopGlobal (h : SameSides s t) (b : Blk) : SameSides s (stopGlobal b t) := by
  have F := sides_frame
  unfold Machine.stopGlobal
  split
  · exact F.trans h (abandonInstall_sides t)
  · exact F.modSupv (F.each _ (fun _ _ _ hu => F.stopSurvey hu) h)
  · exact h

theorem SameSides.initBlock (h : SameSides s t) {b : Blk} (hb : b ∈ globalBlks) : SameSides s (initBlock (gpage b) t) := by
  have cleared : SameSides s (t.clearRegs (gpage b)) := sides_frame.clearRegs h
  simp only [globalBlks, List.mem_cons, List.not_mem_nil, or_false] at hb
  rcases hb with rfl | rfl | rfl | rfl | rfl | rfl | rfl <;> exact cleared

/-- A block of the module that a core runs leaves which SX is active, and whether the other stands by, when it loses its power. -/
theorem SameSides.powerDownBlock (h : SameSides s t) {b : Blk} (hb : b ∈ globalBlks) : SameSides s (powerDownBlock (gpage b) t) := by
  have F := sides_frame
  unfold Machine.powerDownBlock endReset beginReset
  rw [stopBlock_global hb]
  exact SameSides.initBlock (F.modHdr (SameSides.stopGlobal (F.modHdr h) b)) hb

theorem activeCore_of_sides (h : SameSides s t) (i : Fin 6) : activeCore t i = activeCore s i := by
  unfold activeCore
  rw [h.1]

/-- What a lost core takes down with it: the module's pages, where it is the active one and nothing stands by. -/
theorem SameSides.coreDown (h : SameSides s t) {i : Fin 6} (hi : 2 < i.val) : SameSides s (t.each (modDomPages t i) Machine.powerDownBlock) := by
  have pages : modDomPages t i = if activeCore t i then globalBlks.map gpage else [] := by
    have : i ≠ 0 ∧ i ≠ 1 ∧ i ≠ 2 := by
      refine ⟨?_, ?_, ?_⟩ <;> (rintro rfl; exact absurd hi (by decide))
    simp only [modDomPages, this, if_false]
  rw [pages]
  split
  · refine sides_frame.each _ (fun p hp u hu => ?_) h
    obtain ⟨b, hb, rfl⟩ := List.mem_map.mp hp
    exact hu.powerDownBlock hb
  · exact h

theorem SameSides.modSupv (h : SameSides s t) {f : SupvS → SupvS} : SameSides s (t.modSupv f) := h

/-- A handover takes place where the active core is lost and the other SX stands by. -/
theorem coreLost_sides (h : SameSides s t) (i : Fin 6) :
    ∃ u, (if activeCore t i then (.next (takeover false t) : Host.Outcome State Fault Refusal) else .next (loseStandby t)) = .next u ∧
      u.sec.standbyOk = false ∧ u.sec.sxActive = (s.sec.sxActive ^^ (activeCore s i && s.sec.standbyOk)) := by
  rw [activeCore_of_sides h]
  cases activeCore s i with
  | false => exact ⟨_, rfl, rfl, h.1.trans (by simp)⟩
  | true =>
    refine ⟨_, rfl, ?_⟩
    cases ready : t.sec.standbyOk with
    | false =>
      rw [takeover_none ready]
      exact ⟨ready, by simp [h.1, ← h.2, ready]⟩
    | true =>
      obtain ⟨active, left⟩ := takeover_sides ready
      exact ⟨left, by simp [active, h.1, ← h.2, ready]⟩

/-- A core of the supervisor that is lost hands over to the standby SX, and none stands by afterwards. -/
theorem execLockLoss_core (on : s.on = true) {d : Domain} {i : Fin 6} (hd : Domain.place d = .inr i) (runs : s.supv.hmacRun[i.val] = true)
    (core : 2 < i.val) (loop : i.val < 5) {relocks : Bool} (lasting : relocks = false ∨ s.supv.hmacOnce[i.val] = true) :
    ∃ t, execLockLoss d relocks s = .next t ∧ t.sec.standbyOk = false ∧
      t.sec.sxActive = (s.sec.sxActive ^^ (activeCore s i && s.sec.standbyOk)) := by
  have F := sides_frame
  unfold execLockLoss
  rw [if_neg (by simp [on])]
  simp only [hd]
  rw [if_neg (by simp [runs]; omega)]
  have taken : SameSides s (takeInjection (gpage .clocks) commonCover s).2 := F.takeInjection (F.refl s)
  generalize takeInjection (gpage .clocks) commonCover s = q at taken ⊢
  obtain ⟨inj, u⟩ := q
  have lost : (s.supv.hmacOnce[i.val] || !(relocks && decide (inj ≠ some 2))) = true := by
    rcases lasting with h | h <;> simp [h]
  simp only [lost, Bool.true_and, Bool.not_true, Bool.false_eq_true, if_false, show ¬i.val < 3 by omega]
  refine coreLost_sides (SameSides.modSupv (F.injectedIf (F.lastingEvent (SameSides.modSupv ?_)))) i
  split
  · exact taken
  · exact taken.coreDown core

/-- A clock of the host port that is lost takes the host path with it. -/
theorem execLockLoss_hostPath (on : s.on = true) {d : Domain} {i : Fin 6} (hd : Domain.place d = .inr i) (runs : s.supv.hmacRun[i.val] = true)
    (host : i.val < 3) {relocks : Bool} (lasting : relocks = false ∨ s.supv.hmacOnce[i.val] = true) :
    ∃ t, execLockLoss d relocks s = .next t ∧ t.icp.linkUp = false ∧ t.supv.hmacRun[i.val] = false := by
  unfold execLockLoss
  rw [if_neg (by simp [on])]
  simp only [hd]
  rw [if_neg (by simp [runs]; omega)]
  generalize takeInjection (gpage .clocks) commonCover s = q
  obtain ⟨inj, u⟩ := q
  have lost : (s.supv.hmacOnce[i.val] || !(relocks && decide (inj ≠ some 2))) = true := by
    rcases lasting with h | h <;> simp [h]
  simp only [lost, Bool.not_true, Bool.false_eq_true, if_false, host, if_true]
  refine ⟨_, rfl, rfl, ?_⟩
  have core : decide (3 ≤ i.val) = false := decide_eq_false (by omega)
  simp only [hostPathLost, State.modIcp, State.modSupv, Vector.getElem_set_self, core, Bool.and_false]

end

/-- Settles O39: the first loss relocks, and another takes the channel, the host path or the core out of service. -/
theorem lockLossOutcome : Obligations.LockLossOutcome := by
  intro s on
  refine ⟨fun d c i hd powered runs => ⟨fun first quiet => ?_, fun relocks lasting live => execLockLoss_chan on hd powered runs lasting live⟩,
    fun d i hd core runs => ⟨fun first quiet => ?_, fun relocks lasting => ?_⟩, fun relocks => ?_⟩
  · have run : exec (.lockLoss d true) s = execLockLoss d true s := rfl
    simp only [run, execLockLoss, on, hd, powered, runs, first, takeInjection_unarmed _ quiet]
    rfl
  · have run : exec (.lockLoss d true) s = execLockLoss d true s := rfl
    have loop : i ≠ 5 := by rintro rfl; exact absurd core (by decide)
    simp only [run, execLockLoss, on, hd, runs, first, takeInjection_unarmed _ quiet, loop]
    rfl
  · by_cases hcore : 2 < i.val
    · obtain ⟨t, ht, sides⟩ := execLockLoss_core on hd runs hcore core lasting
      exact ⟨t, ht, fun h => absurd hcore (by omega), fun _ => sides⟩
    · obtain ⟨t, ht, path⟩ := execLockLoss_hostPath on hd runs (by omega) lasting
      exact ⟨t, ht, fun _ => path, fun h => absurd h hcore⟩
  · have run : exec (.lockLoss .srtc relocks) s = execLockLoss .srtc relocks s := rfl
    simp only [run, execLockLoss, on, Domain.place]
    rfl

end Sys2Proof.Machine
end

section
/-! SUPPORT. The power-up sequence (R401, R446, R449, R463). -/
namespace Sys2Proof.Machine

/-! ## What the sequence sets once -/

/-- The power state, the transition, the wake, the cycles, device time and the plane map. -/
def State.started (s : State) : Power × Bool × Option Bool × W32 × Nat × W32 :=
  (s.pwr.power, s.pwr.changing, s.pwr.wakePending, s.pwr.powerCycles, s.refCycles, s.supv.planeMap)

/-- What POWER_ON sets once stands. -/
def Boots (s t : State) : Prop := t.started = s.started

/-- What decides of a load, and which rails are lost. -/
def State.images (s : State) : Vector Container 6 × Vector Container 6 × BitVec 6 × BitVec 4 × Vector Nat 6 × Bool × Bool × List (Nat × Nat) :=
  (s.sec.slotA, s.sec.slotB, s.sec.preferred, s.sec.revoked, s.sec.rollback, s.sec.faultedA, s.sec.faultedB, s.pwr.phasesLost)

def SameImages (s t : State) : Prop := t.images = s.images

theorem boots_frame : Frame Boots where
  refl _ := rfl
  trans h k := Eq.trans k h
  icp _ _ := rfl
  loans _ _ := rfl
  book _ _ := rfl
  supv s f hf := by
    have map : (f s.supv).planeMap = s.supv.planeMap := show (f s.supv).standing.planeMap = s.supv.standing.planeMap by rw [hf]
    simp only [Boots, State.started, State.modSupv, map]
  records _ _ _ := rfl
  sent _ _ := rfl
  draws _ _ := rfl
  hdrs _ _ := rfl
  regs _ _ _ _ := rfl
  link _ _ _ _ := rfl
  lent _ h := h

theorem images_frame : Frame SameImages where
  refl _ := rfl
  trans h k := Eq.trans k h
  icp _ _ := rfl
  loans _ _ := rfl
  book _ _ := rfl
  supv _ _ _ := rfl
  records _ _ _ := rfl
  sent _ _ := rfl
  draws _ _ := rfl
  hdrs _ _ := rfl
  regs _ _ _ _ := rfl
  link _ _ _ _ := rfl
  lent _ h := h

section
variable {s t : State}

theorem Boots.modChan (h : Boots s t) {c : Fin 9} {f : Chan → Chan} : Boots s (t.modChan c f) := h
theorem Boots.modSec (h : Boots s t) {f : SecS → SecS} : Boots s (t.modSec f) := h
theorem Boots.modSupv (h : Boots s t) {f : SupvS → SupvS} (hf : ∀ v, (f v).planeMap = v.planeMap := by exact fun _ => rfl) :
    Boots s (t.modSupv f) := by
  have map := hf t.supv
  refine Eq.trans ?_ h
  simp only [State.started, State.modSupv, map]
theorem SameImages.modChan (h : SameImages s t) {c : Fin 9} {f : Chan → Chan} : SameImages s (t.modChan c f) := h

/-- A channel that is powered up leaves what the sequence has set for the module. -/
theorem Boots.powerUpChan (h : Boots s t) (c : Fin 9) (r : Role) : Boots s (powerUpChan c r t) := by
  have F := boots_frame
  unfold Machine.powerUpChan
  extract_lets woken blank paged ended
  have hpaged : Boots s paged := by
    refine F.each _ (fun p hp u hu => ?_) (Boots.modChan h)
    exact F.modHdr (F.initBlock (F.clearRegs (F.modHdr hu)) (chanPages_isChan hp) fun _ _ _ _ => rfl)
  have hended : Boots s ended := F.when (fun _ hu => F.cause (F.modPlat hu)) hpaged
  exact F.setRole hended (Boots.modChan hended)

theorem Boots.slotFallback (h : Boots s t) (i : Fin 6) (inj : Bool) : Boots s (slotFallback i inj t) := by
  have F := boots_frame
  unfold Machine.slotFallback
  exact F.event (F.cause (Boots.modSec (F.lastingEvent h)))

theorem Boots.loadComp (h : Boots s t) (i : Fin 6) : Boots s (loadComp i t).2 := by
  have F := boots_frame
  unfold Machine.loadComp
  dsimp only
  split
  · exact h.modSec
  · split
    · exact (h.slotFallback i false).modSec
    · exact F.event (h.slotFallback i false)

theorem Boots.loadComps (h : Boots s t) (l : List (Fin 6)) : Boots s (loadComps l t).2 := by
  induction l generalizing t with
  | nil => exact h
  | cons i l ih => exact ih (h.loadComp i)

theorem Boots.bootChannels (h : Boots s t) : Boots s (bootChannels t) := by
  have F := boots_frame
  have loaded : Boots s (Machine.loadComps [2, 3, 4, 5] t).2 := h.loadComps _
  unfold Machine.bootChannels
  generalize Machine.loadComps [2, 3, 4, 5] t = q at loaded ⊢
  obtain ⟨ok, u⟩ := q
  refine F.each _ (fun c _ u hu => ?_) loaded
  split
  · exact hu.powerUpChan c _
  · exact F.setRole hu (Boots.modChan hu)

theorem Boots.datumBad (h : Boots s t) (die : Die) : Boots s (datumBad die t) := by
  have F := boots_frame
  unfold Machine.datumBad
  split
  · split
    · exact h
    · exact F.event (Boots.modChan h)
  · split
    · exact h
    · exact F.event (Boots.modSupv h)
  · exact h

/-! ## The records and the reports of a start -/

/-- The records of a start touch no image. -/
theorem SameImages.applyTables (h : SameImages s t) : SameImages s (applyTables t) :=
  images_frame.each _ (fun _ _ _ hu => hu) (images_frame.each _ (fun _ _ _ hu => images_frame.each _ (fun _ _ _ hv => hv) hu) h)

theorem SameImages.applyRecords (h : SameImages s t) : SameImages s (applyRecords t) := by
  have F := images_frame
  unfold Machine.applyRecords
  extract_lets bad n forced counted
  have hcounted : SameImages s counted := F.each _ (fun _ _ _ hu => F.cause hu) h
  exact SameImages.applyTables (F.each _ (fun _ _ _ hu => F.event hu) hcounted)

theorem SameImages.reportTrips (h : SameImages s t) : SameImages s (reportTrips t) :=
  images_frame.each _ (fun _ _ _ hu => images_frame.event hu) h

theorem Boots.applyRecords (h : Boots s t) : Boots s (applyRecords t) := by
  have F := boots_frame
  have tables {u : State} (hu : Boots s u) : Boots s (applyTables u) :=
    F.each _ (fun _ _ _ hv => hv) (F.each _ (fun _ _ _ hv => F.each _ (fun _ _ _ hw => hw) hv) hu)
  unfold Machine.applyRecords
  extract_lets bad n forced counted
  have hcounted : Boots s counted := F.each _ (fun _ _ _ hu => F.cause hu) h
  exact tables (F.each _ (fun _ _ _ hu => F.event hu) hcounted)

theorem Boots.reportTrips (h : Boots s t) : Boots s (reportTrips t) :=
  boots_frame.each _ (fun _ _ _ hu => boots_frame.event hu) h

theorem Boots.bootPages (h : Boots s t) : Boots s (bootPages t) := boots_frame.each _ (fun _ _ _ hu => boots_frame.modHdr hu) h

theorem SameImages.bootPages (h : SameImages s t) : SameImages s (bootPages t) := images_frame.each _ (fun _ _ _ hu => images_frame.modHdr hu) h

/-- Whether the module's identity could be read touches neither what the sequence has set nor an image. -/
theorem identity_stands {F : State → State → Prop} (frame : Frame F) (hsec : ∀ u, F u (u.modSec fun x => { x with identOk := true }))
    (identOk : Bool) (h : F s t) :
    F s (if identOk && t.identified then t.modSec fun x => { x with identOk := true }
      else if !identOk then event 0x0306 2 (gpage .sec) 0 true (cause (gpage .sec) 19 (lastingEvent (gpage .sec) false false noDetail t))
      else t) := by
  split
  · exact frame.trans h (hsec t)
  · split
    · exact frame.event (frame.cause (frame.lastingEvent h))
    · exact h

/-! ## Loads that succeed -/

theorem loadable_of_images (h : SameImages s t) (i : Fin 6) : loadable t i (t.sec.preferred.getLsbD i.val) = loadable s i (s.sec.preferred.getLsbD i.val) := by
  simp only [SameImages, State.images, Prod.mk.injEq] at h
  obtain ⟨a, b, preferred, revoked, rollback, _⟩ := h
  simp only [loadable, slotImg, passes, a, b, preferred, revoked, rollback]
  rfl

/-- A component whose preferred image can be loaded takes it. -/
theorem loadComp_loadable {i : Fin 6} (h : loadable s i (s.sec.preferred.getLsbD i.val) = true) :
    (loadComp i s).1 = true ∧ SameImages s (loadComp i s).2 ∧ Boots s (loadComp i s).2 ∧ (loadComp i s).2.supv = s.supv := by
  unfold loadComp
  rw [if_pos h]
  exact ⟨rfl, rfl, rfl, rfl⟩

/-! ## The whole sequence -/

theorem setPower_boots (p : Power) (s : State) : Boots (s.modPwr fun x => { x with power := p }) (setPower p s) := by
  unfold setPower
  split
  · next same => rw [← same]; rfl
  · exact boots_frame.event (boots_frame.refl _)

theorem setPower_started {q : Power} {rest : Bool × Option Bool × W32 × Nat × W32} (p : Power) (h : s.started = (q, rest)) :
    (setPower p s).started = (p, rest) := by
  have set : (s.modPwr fun x => { x with power := p }).started = (p, s.started.2) := rfl
  rw [setPower_boots, set, h]

theorem transitionEnds_started {q : Power} {changing : Bool} {rest : Option Bool × W32 × Nat × W32} (h : s.started = (q, changing, rest)) :
    (s.modPwr fun x => { x with changing := false }).started = (q, false, rest) := by
  have set : (s.modPwr fun x => { x with changing := false }).started = (s.started.1, false, s.started.2.2) := rfl
  rw [set, h]

/-- The power-up sequence reaches service where the images load and the rails hold. -/
theorem powerUp_started (identOk : Bool) (sx : loadable s 0 (s.sec.preferred.getLsbD 0) = true)
    (hx : loadable s 1 (s.sec.preferred.getLsbD 1) = true) (side : (s.sec.faultedA && s.sec.faultedB) = false)
    (rails : railsGone s [54, 55] = false) :
    (powerUp identOk s).started = (if s.pwr.wakePending = some true then .dormant else .active, false, none, s.pwr.powerCycles + 1, 0,
      selectorMap s.supv.onSpare) := by
  unfold powerUp
  extract_lets dormant cleared cycled fresh
  have images : SameImages s fresh := rfl
  have loaded := loadComp_loadable (s := fresh) (i := 0) (by rw [loadable_of_images images]; exact sx)
  generalize loadComp 0 fresh = q at loaded ⊢
  obtain ⟨ok, u⟩ := q
  obtain ⟨rfl, uimages, uboots, usupv⟩ : ok = true ∧ SameImages fresh u ∧ Boots fresh u ∧ u.supv = fresh.supv := loaded
  dsimp -zeta only
  extract_lets aOk bOk sided mapped paged told named rested reached
  have faulted : (u.sec.faultedA && u.sec.faultedB) = false := by
    simp only [SameImages, State.images, Prod.mk.injEq] at uimages
    obtain ⟨_, _, _, _, _, a, b, _⟩ := uimages
    rw [a, b]
    exact side
  have side' : (!aOk && !bOk) = false := by simpa [aOk, bOk] using faulted
  rw [if_neg (by simp [side'])]
  have mapsTo : mapped.started = (s.pwr.power, true, none, s.pwr.powerCycles + 1, 0, selectorMap s.supv.onSpare) := by
    simp only [Boots, State.started, Prod.mk.injEq] at uboots
    obtain ⟨power, changing, wake, cycles, time, _⟩ := uboots
    have spare : sided.supv.onSpare = s.supv.onSpare := congrArg SupvS.onSpare usupv
    have parts : mapped.started = (u.pwr.power, u.pwr.changing, u.pwr.wakePending, u.pwr.powerCycles, u.refCycles,
      selectorMap sided.supv.onSpare) := rfl
    rw [parts, spare, power, changing, wake, cycles, time]
    rfl
  have boots_mapped : Boots mapped mapped := rfl
  have images_mapped : SameImages s mapped := images_frame.trans images uimages
  have hnamed : Boots mapped named ∧ SameImages s named :=
    ⟨identity_stands boots_frame (fun _ => rfl) identOk (boots_mapped).bootPages.applyRecords.reportTrips,
      identity_stands images_frame (fun _ => rfl) identOk images_mapped.bootPages.applyRecords.reportTrips⟩
  have loaded := loadComp_loadable (s := named) (i := 1) (by rw [loadable_of_images hnamed.2]; exact hx)
  obtain ⟨ok, vimages, vboots, _⟩ := loaded
  have held : railsGone (loadComp 1 named).2 [54, 55] = false := by
    have lost := images_frame.trans hnamed.2 vimages
    simp only [SameImages, State.images, Prod.mk.injEq] at lost
    obtain ⟨_, _, _, _, _, _, _, lost⟩ := lost
    unfold railsGone at rails ⊢
    rw [lost]
    exact rails
  rw [ok, if_neg (by simp [held])]
  have start : (loadComp 1 named).2.started = (s.pwr.power, true, none, s.pwr.powerCycles + 1, 0, selectorMap s.supv.onSpare) :=
    (boots_frame.trans hnamed.1 vboots).trans mapsTo
  have up := setPower_started .dormant start
  refine transitionEnds_started (changing := true) ?_
  unfold reached
  split
  · exact up
  · exact setPower_started .active (Eq.trans (Boots.bootChannels (boots_frame.refl _)) up)

/-- The state in which the sequence begins: with power, in Standby. -/
def State.supplied (s : State) : State :=
  if s.pwr.power = .unpowered then s.modPwr fun x => { x with wakeSrc := 0, power := .standby } else s

theorem powerOn_started (identOk : Bool) (bad : List Die) (sx : loadable s 0 (s.sec.preferred.getLsbD 0) = true)
    (hx : loadable s 1 (s.sec.preferred.getLsbD 1) = true) (side : (s.sec.faultedA && s.sec.faultedB) = false)
    (rails : railsGone s [54, 55] = false) :
    ((powerUp identOk s.supplied).each bad datumBad).started = (if s.pwr.wakePending = some true then .dormant else .active, false, none,
      s.pwr.powerCycles + 1, 0, selectorMap s.supv.onSpare) := by
  have reported : Boots (powerUp identOk s.supplied) ((powerUp identOk s.supplied).each bad datumBad) :=
    boots_frame.each _ (fun _ _ _ hu => hu.datumBad _) (boots_frame.refl _)
  refine Eq.trans reported ?_
  unfold State.supplied
  split
  · exact powerUp_started identOk (s := s.modPwr fun x => { x with wakeSrc := 0, power := .standby }) sx hx side rails
  · exact powerUp_started identOk sx hx side rails

end

/-- Settles O36: the sequence is run from what POWER_ON finds, and the data that are bad are reported after it. -/
theorem powerOnReachesService : Obligations.PowerOnReachesService := by
  intro identOk bad s start uv ov coolant leak sx hx side rails
  have run : exec (.powerOn identOk bad) s = execPowerOn identOk bad s := rfl
  have starts : (decide (s.pwr.power = .unpowered) || (decide (s.pwr.power = .standby) && s.pwr.wakePending.isSome)) = true := by
    rcases start with h | ⟨h, wake⟩
    · simp [h]
    · simp [h, wake]
  have begun := powerOn_started identOk bad sx hx side rails
  simp only [State.started, Prod.mk.injEq] at begun
  simp only [run, execPowerOn, starts, uv, ov, coolant, leak, Bool.not_false, Bool.and_self, if_true]
  exact ⟨_, rfl, begun⟩

end Sys2Proof.Machine
end

section
/-! SUPPORT. A re-survey of a channel die (R425, R426). -/
namespace Sys2Proof.Machine

/-! ## What a survey leaves -/

/-- The bench state, the memory and the (empty) list of issued descriptors of one channel, the other channels, the power state and the hour of
the last survey stand. -/
structure Surveys (c : Fin 9) (s t : State) : Prop where
  bench : (t.chan c).bench = (s.chan c).bench
  mem : (t.chan c).mem = (s.chan c).mem
  fly : (t.chan c).fly = (s.chan c).fly
  other : ∀ e, e ≠ c → t.chan e = s.chan e
  pwr : t.pwr = s.pwr
  last : t.supv.lastSurvey = s.supv.lastSurvey

namespace Surveys

variable {s t u : State} {c : Fin 9}

theorem of_chans (hc : t.chans = s.chans) (hp : t.pwr = s.pwr) (hv : t.supv.lastSurvey = s.supv.lastSurvey) : Surveys c s t := by
  have chan (e : Fin 9) : t.chan e = s.chan e := by unfold State.chan; rw [hc]
  exact ⟨by rw [chan], by rw [chan], by rw [chan], fun e _ => chan e, hp, hv⟩

theorem trans (h : Surveys c s t) (k : Surveys c t u) : Surveys c s u :=
  ⟨k.bench.trans h.bench, k.mem.trans h.mem, k.fly.trans h.fly, fun e he => (k.other e he).trans (h.other e he), k.pwr.trans h.pwr,
    k.last.trans h.last⟩

theorem reporting (c : Fin 9) : Reporting (Surveys c) where
  refl _ := of_chans rfl rfl rfl
  trans := trans
  icp _ _ := of_chans rfl rfl rfl
  book _ _ := of_chans rfl rfl rfl
  records _ _ _ := of_chans rfl rfl rfl
  sent _ _ := of_chans rfl rfl rfl
  hdrs _ _ := of_chans rfl rfl rfl

theorem setReg (h : Surveys c s t) {p : Page} {off : Nat} {v : W32} : Surveys c s (t.setReg p off v) := h.trans (of_chans rfl rfl rfl)

/-- An update of the surveyed channel that touches neither its bench nor its memory. -/
theorem modChan (h : Surveys c s t) {f : Chan → Chan}
    (hf : ∀ x : Chan, ((f x).bench, (f x).mem, (f x).fly) = (x.bench, x.mem, x.fly) := by exact fun _ => rfl) : Surveys c s (t.modChan c f) := by
  have self : (t.modChan c f).chan c = f (t.chan c) := State.modChan_chan_self ..
  have kept := hf (t.chan c)
  simp only [Prod.mk.injEq] at kept
  obtain ⟨bench, mem, fly⟩ := kept
  refine h.trans ⟨by rw [self, bench], by rw [self, mem], by rw [self, fly], fun e he => ?_, rfl, rfl⟩
  rw [State.modChan_chan, if_neg he]

theorem rampDown (h : Surveys c s t) (a : Fin 2) : Surveys c s (rampDown c a t) := by
  unfold Machine.rampDown
  dsimp only
  split
  · exact h.modChan
  · split
    · exact (h.setReg (p := cpage c .cpwr)).modChan
    · exact h

theorem holdUp (h : Surveys c s t) (a : Fin 2) : Surveys c s (holdUp c a t) := by
  unfold Machine.holdUp Machine.rampUp
  dsimp only
  split
  · exact (h.setReg (p := cpage c .cpwr)).modChan
  · exact h

end Surveys

section
variable {s t : State} {c : Fin 9}

/-- With nothing issued, a unit has nothing to go on with. -/
theorem goOn_idle (u : UnitId) (h : (s.chan c).fly = []) : goOn c u s = s := by
  unfold goOn
  rw [h]
  unfold runUnit
  simp only [h, List.find?_nil]

theorem Surveys.setPark (h : Surveys c s t) (rest : (s.chan c).fly = []) (on : Bool) : Surveys c s (setPark c on t) := by
  unfold Machine.setPark
  split
  · exact h
  · refine (Surveys.reporting c).each _ (fun a _ u hu => ?_) h.setReg
    split
    · split
      · exact hu
      · exact hu.rampDown a
    · rw [goOn_idle _ (hu.fly.trans rest)]
      exact hu.holdUp a

theorem Surveys.changeEntry (h : Surveys c s t) (rest : (s.chan c).fly = []) (i : Fin 6) (hi : i.val < 3) (entry : Nat) :
    Surveys c s (changeEntry c i hi entry t) := by
  have R := Surveys.reporting c
  unfold Machine.changeEntry
  split
  · exact h
  · refine R.when (fun _ hu => hu.setPark rest _) (R.control (Surveys.modChan (R.control (R.each _ (fun _ _ _ hu => R.control hu) ?_))))
    exact R.when (fun _ hu => hu.setPark rest _) h

theorem Surveys.surveyEvents (h : Surveys c s t) {p : Page} {inst k entry worst : Nat} {derated aged : Bool} :
    Surveys c s (surveyEvents p inst derated aged k entry worst t) := by
  have R := Surveys.reporting c
  unfold Machine.surveyEvents
  exact R.note (R.eventNoNote (R.when (fun _ hu => R.event hu) (R.when (fun _ hu => R.note (R.eventNoNote hu)) h)))

theorem chanDie_of_benchPlace {die : Die} {d : Fin 4} (h : benchPlace die = some (.inl (c, d))) : chanDie c d = die := by
  cases die <;> simp only [benchPlace, Option.some.injEq, Sum.inl.injEq, Prod.mk.injEq, reduceCtorEq] at h
  all_goals
    obtain ⟨rfl, rfl⟩ := h
    rfl

end

/-- Settles O42: the bench of the channel is set once, and all else that the survey does leaves it and the memories. -/
theorem resurveyCompletes : Obligations.ResurveyCompletes := by
  intro die c d r atE atN k s on place rating wanted rest window done good fresh b e0 f0 fe search
  have run : exec (.resurvey die atE atN false) s = execResurvey die atE atN false s := rfl
  have open_ : ((s.chan c).fly.isEmpty && (((s.chan c).role = .serving && ((s.chan c).surveyHold || s.pwr.power = .idle)) ||
      (s.chan c).role = .spare)) = true := by
    rcases window with ⟨serving, hold | idle⟩ | spare
    · simp [rest, serving, hold]
    · simp [rest, serving, idle]
    · simp [rest, spare]
  have due : toSurvey s c d = true := by
    simp only [toSurvey, done, good, fresh, chanDie_of_benchPlace place, rating]
    rfl
  rw [run]
  unfold execResurvey
  rw [if_neg (by simp), if_neg (by simp [on, rating])]
  extract_lets kmax allow decide' worst
  simp -zeta only [place]
  extract_lets -useContext bench role ready entry bit begun changed unparked counted reported withdrawn
  rw [if_neg (by rw [show ready = true from open_, wanted, due]; decide)]
  have decided : decide' (fun i => (spGet (fun _ => 0) bench.datum (24 * d.val + i)).toNat) entry = (k, e0, false, false) := by
    change decide' (fun i => (spGet (fun _ => 0) b.datum (24 * d.val + i)).toNat) e0 = _
    simp only [fe, f0] at search
    simp only [decide', allow, rating, kmax, search]
  have hparked : Surveys c s (s.when (d = 0) (setPark c true)) :=
    (Surveys.reporting c).when (fun _ hu => hu.setPark rest _) ((Surveys.reporting c).refl s)
  have hbegun : (begun.chan c).bench = { b with offset := b.offset.set d.val (BitVec.ofNat 4 k) } := by
    unfold begun
    rw [State.modChan_chan_self, decided]
    have dx : (if d = 0 then e0 else b.entryDx) = b.entryDx := by
      split
      · next h => simp only [e0, h, if_true]
      · rfl
    have gx : (if d = 1 then e0 else b.entryGx) = b.entryGx := by
      split
      · next h => subst h; rfl
      · rfl
    have mx : (if d = 2 then e0 else b.entryMx) = b.entryMx := by
      split
      · next h => subst h; rfl
      · rfl
    change ({ b with offset := _, entryDx := (if d = 0 then e0 else b.entryDx), entryGx := (if d = 1 then e0 else b.entryGx),
                     entryMx := (if d = 2 then e0 else b.entryMx), aged := b.aged || false } : BenchS) = _
    rw [dx, gx, mx, Bool.or_false]
  have begunSame : (begun.chan c).mem = (s.chan c).mem ∧ (begun.chan c).fly = [] ∧ begun.pwr = s.pwr ∧ ∀ e, e ≠ c → begun.chan e = s.chan e := by
    have self : begun.chan c = _ := State.modChan_chan_self ..
    refine ⟨?_, ?_, hparked.pwr, fun e he => ?_⟩
    · rw [self]; exact hparked.mem
    · rw [self]; exact hparked.fly.trans rest
    · unfold begun
      rw [State.modChan_chan, if_neg he]
      exact hparked.other e he
  obtain ⟨mem, rests, power, others⟩ := begunSame
  have hunparked : Surveys c begun unparked := by
    refine (Surveys.reporting c).when (fun _ hu => hu.setPark rests _) ?_
    unfold changed
    split
    · exact ((Surveys.reporting c).refl begun).changeEntry rests _ _ _
    · exact (Surveys.reporting c).refl begun
  have outcome (t : State) (h : Surveys c counted t) : (t.chan c).bench.offset[d.val] = BitVec.ofNat 4 k ∧
      (t.chan c).bench.entryDx = b.entryDx ∧ (t.chan c).bench.entryGx = b.entryGx ∧ (t.chan c).bench.entryMx = b.entryMx ∧
      t.supv.lastSurvey = s.pwr.opHours ∧ (t.chan c).bench.datum = b.datum ∧ (t.chan c).mem = (s.chan c).mem ∧
      ∀ e, e ≠ c → t.chan e = s.chan e := by
    have bench : (t.chan c).bench = { b with offset := b.offset.set d.val (BitVec.ofNat 4 k) } := h.bench.trans (hunparked.bench.trans hbegun)
    have hour : counted.supv.lastSurvey = s.pwr.opHours := congrArg PwrS.opHours (hunparked.pwr.trans power)
    rw [bench]
    exact ⟨Vector.getElem_set_self .., rfl, rfl, rfl, h.last.trans hour, rfl, h.mem.trans (hunparked.mem.trans mem),
      fun e he => (h.other e he).trans ((hunparked.other e he).trans (others e he))⟩
  have hreported : Surveys c counted reported := ((Surveys.reporting c).refl counted).surveyEvents
  have hwithdrawn : Surveys c counted withdrawn := hreported.trans (Surveys.of_chans rfl rfl rfl)
  split
  · exact ⟨_, rfl, outcome _ hwithdrawn.modChan⟩
  · exact ⟨_, rfl, outcome _ hreported⟩

end Sys2Proof.Machine
end

section
/-! SUPPORT. The ends of a drain and of a reset (R87, R404, R405). -/
namespace Sys2Proof.Machine

section
variable {s : State} {p : Page}

/-- A key that a filter drops reads its default. -/
theorem spGet_filter_not {α : Type} (d : Nat → α) (m : List (Nat × α)) (inside : Nat → Bool) {k : Nat} (hk : inside k = true) :
    spGet d (m.filter fun e => !inside e.1) k = d k := by
  induction m with
  | nil => rfl
  | cons e m ih =>
    by_cases he : inside e.1 = true
    · rw [List.filter_cons_of_neg (by simp [he])]
      exact ih
    · rw [List.filter_cons_of_pos (by simp [he])]
      have ne : e.1 ≠ k := fun h => he (h ▸ hk)
      simp only [spGet, ne, if_false, ih]

/-- The registers of a page that is cleared read their reset values. -/
theorem clearRegs_reg_self (s : State) (p : Page) {off : Nat} (ho : off < 4096) : (s.clearRegs p).reg p off = regDefault (p.base + off) := by
  obtain ⟨b, c, i⟩ := p
  have key := key_lt b c i
  unfold State.reg State.regAt State.clearRegs
  extract_lets inPage
  refine spGet_filter_not regDefault s.regs inPage ?_
  simp only [inPage, Page.base, Bool.and_eq_true]
  exact ⟨decide_eq_true (by omega), decide_eq_true (by omega)⟩

theorem initBlock_hdrs (p : Page) (s : State) : (initBlock p s).hdrs = s.hdrs := by
  unfold initBlock
  cases p.blk <;> rfl

/-- The blocks whose registers RESET returns without exception. -/
theorem initBlock_regs (icp : p.blk ≠ .icp) (dense : p.blk ≠ .dense) (cache : p.blk ≠ .cache) (hbm : p.blk ≠ .hbm) (trav : p.blk ≠ .trav)
    (s : State) : (initBlock p s).regs = (s.clearRegs p).regs := by
  unfold initBlock
  cases hb : p.blk with
  | icp => exact absurd hb icp
  | dense => exact absurd hb dense
  | cache => exact absurd hb cache
  | hbm => exact absurd hb hbm
  | trav => exact absurd hb trav
  | _ => rfl

end

/-- Settles O19: a drain ends with its mark, a reset with the page's registers at their reset values. -/
theorem drainAndResetEnd : Obligations.DrainAndResetEnd := by
  intro p s
  refine ⟨fun draining still => ?_, fun inv _ resetting => ⟨endReset p s, ?_, ?_, fun icp dense cache hbm trav off ho => ?_⟩⟩
  · have run : exec (.drained p) s = execDrained p s := rfl
    simp only [run, execDrained, draining, still, Bool.and_self, if_true]
  · have run : exec (.resetDone p) s = execResetDone p s := rfl
    simp only [run, execResetDone, resetting, if_true]
  · unfold endReset State.hdr
    rw [initBlock_hdrs]
    exact State.modHdr_hdr_self inv.1 p _
  · unfold endReset State.reg State.regAt
    rw [initBlock_regs icp dense cache hbm trav]
    exact clearRegs_reg_self _ p ho

end Sys2Proof.Machine
end

section
/-! SUPPORT. Commands of the survey, of the field book and of the cairn (R427, R434, R438, R441). -/
namespace Sys2Proof.Machine

/-! ## The survey's commands (R427, R438) -/

section
variable {s : State}

/-- A stored write sets a field that software writes as a whole. -/
theorem bitsOf_stored (old v w : W32) {hi lo : Nat} (hw : ∀ i < hi + 1 - lo, w.getLsbD (lo + i) = true) :
    bitsOf (((old &&& ~~~w) ||| (v &&& w)) &&& ~~~(v &&& 0)).toNat hi lo = bitsOf v.toNat hi lo := by
  have zero : v &&& 0 = 0 := BitVec.and_zero
  rw [zero, show ~~~(0 : W32) = BitVec.allOnes 32 from BitVec.not_zero, BitVec.and_allOnes, bitsOf_toNat, bitsOf_toNat]
  congr 1
  ext i hlt
  have rw_ := hw i hlt
  simp only [BitVec.getElem_extractLsb', BitVec.getLsbD_or, BitVec.getLsbD_and, BitVec.getLsbD_not, rw_, Bool.not_true, Bool.and_false,
    Bool.false_or, Bool.and_true]

/-- The value of a survey command: its bits over the INTERVAL that stands. -/
def surveyWord (v : Nat) (s : State) : W32 := w32 (v + s.field (gpage .bench) 0x100 25 16 * 2 ^ 16)

theorem surveyWord_fields {v : Nat} (hv : v < 2048) (s : State) :
    bitsOf (surveyWord v s).toNat 25 16 = s.field (gpage .bench) 0x100 25 16 ∧ bitsOf (surveyWord v s).toNat 9 0 = v % 1024 ∧
      bitAt (surveyWord v s).toNat 10 = decide (1024 ≤ v) := by
  have lt : s.field (gpage .bench) 0x100 25 16 < 1024 := bitsOf_lt _ 25 16
  have value : (surveyWord v s).toNat = v + s.field (gpage .bench) 0x100 25 16 * 2 ^ 16 := by
    simp only [surveyWord, w32, BitVec.toNat_ofNat]
    omega
  rw [value]
  refine ⟨?_, ?_, ?_⟩
  · simp only [bitsOf]
    omega
  · simp only [bitsOf]
    omega
  · simp only [bitAt, decide_eq_decide]
    omega

theorem surveyCmd_eq (up : s.takes (gpage .bench)) (v : Nat) :
    surveyCmd v s = .next ((surveyCtrlWrite (surveyWord v s) s).answered rsOk 0) := writeCmd_icp up rfl rfl

theorem surveyCmd_refused (up : s.takes (gpage .bench)) {v : Nat} (hv : v < 2048) (off : s.field (gpage .bench) 0x100 25 16 = 0) :
    surveyCmd v s = .next ((cfgRefused (gpage .bench) s).answered rsOk 0) := by
  obtain ⟨interval, _⟩ := surveyWord_fields hv s
  simp only [surveyCmd_eq up, surveyCtrlWrite, interval, off, if_true]

theorem surveyCmd_taken (hw : s.wf) (up : s.takes (gpage .bench)) {v : Nat} (hv : v < 2048) (on : s.field (gpage .bench) 0x100 25 16 ≠ 0) :
    ∃ t, surveyCmd v s = .next t ∧
      t.supv.surveyAsked = ((if 1024 ≤ v then s.supv.surveyAsked &&& s.supv.surveyRunning else s.supv.surveyAsked) ||| BitVec.ofNat 10 (v % 1024)) ∧
      t.field (gpage .bench) 0x100 25 16 = s.field (gpage .bench) 0x100 25 16 ∧ t.supv.surveyPending = s.supv.surveyPending ∧
      t.chans = s.chans ∧ t.hdrs = s.hdrs := by
  obtain ⟨interval, asked, cancels⟩ := surveyWord_fields hv s
  refine ⟨_, surveyCmd_eq up v, ?_⟩
  have stored : storedWrite (gpage .bench) 0x100 (surveyWord v s) s = s.setReg (gpage .bench) 0x100
    (((s.reg (gpage .bench) 0x100 &&& ~~~0x03FF0000) ||| (surveyWord v s &&& 0x03FF0000)) &&& ~~~(surveyWord v s &&& 0)) := rfl
  simp only [surveyCtrlWrite, interval, on, if_false, asked, cancels, decide_eq_true_eq]
  refine ⟨rfl, ?_, rfl, rfl, rfl⟩
  rw [stored]
  simp only [State.field, State.answered_reg, State.modSupv_reg]
  rw [State.setReg_reg_self hw, bitsOf_stored _ _ _ (by decide)]
  exact interval

end

/-! ## The cairn's rings (R441) -/

section
variable {s : State}

theorem releaseRing_rings (i r : Fin 10) (s : State) : (releaseRing i s).rings[r.val] =
    if i = r ∧ s.rings[r.val].frozen.isSome = true then .empty else s.rings[r.val] := by
  have set : (releaseRing i s).rings = s.rings.set i.val (match s.rings[i.val].frozen with | some _ => .empty | none => s.rings[i.val]) := rfl
  rw [set]
  by_cases same : i = r
  · subst same
    rw [Vector.getElem_set_self]
    cases s.rings[i.val].frozen <;> simp
  · rw [Vector.getElem_set_ne _ _ (fun h => same (Fin.ext h))]
    simp [same]

/-- Releasing rings one after the other releases those and no other. -/
theorem releaseRings_rings (l : List (Fin 10)) (r : Fin 10) (s : State) : (s.each l releaseRing).rings[r.val] =
    if r ∈ l ∧ s.rings[r.val].frozen.isSome = true then .empty else s.rings[r.val] := by
  induction l generalizing s with
  | nil => simp [State.each]
  | cons i l ih =>
    have step : s.each (i :: l) releaseRing = (releaseRing i s).each l releaseRing := rfl
    rw [step, ih, releaseRing_rings]
    by_cases same : i = r
    · subst same
      cases h : s.rings[i.val].frozen.isSome <;> simp [h, Ring.empty]
    · have other : r ≠ i := Ne.symm same
      simp [same, other]

theorem releaseRings_stands (l : List (Fin 10)) (s : State) :
    (s.each l releaseRing).hdrs = s.hdrs ∧ (s.each l releaseRing).slots = s.slots := by
  induction l generalizing s with
  | nil => exact ⟨rfl, rfl⟩
  | cons i l ih => exact ih (releaseRing i s)

/-- The bits of CAIRN_RELEASE. -/
theorem releaseMask_bit (mask : BitVec 10) (r : Fin 10) : bitAt (w32 (mask.toNat * 2 ^ 10)).toNat (10 + r.val) = mask.getLsbD r.val := by
  rw [bitAt_toNat, w32, BitVec.getLsbD_ofNat, Nat.testBit_mul_two_pow, BitVec.testBit_toNat]
  simp
  omega

end

/-- Settles O43: each command is one write, and its value says what it does. -/
theorem surveyAndRecorderCommands : Obligations.SurveyAndRecorderCommands := by
  intro s inv
  refine ⟨fun up => ?survey, fun path v up => ?book, fun mask up => ?rings⟩
  case survey =>
    intro iv i add cancel named
    obtain ⟨v, run, hv, adds, cancels⟩ : ∃ v, exec i s = surveyCmd v s ∧ v < 2048 ∧ add = BitVec.ofNat 10 (v % 1024) ∧
        (cancel = true ↔ 1024 ≤ v) := by
      rcases named with ⟨mask, rfl, rfl, rfl⟩ | ⟨rfl, rfl, rfl⟩ | ⟨rfl, rfl, rfl⟩
      · refine ⟨mask.toNat, rfl, by omega, ?_, by simp; omega⟩
        apply BitVec.eq_of_toNat_eq
        simp
      · exact ⟨0x200, rfl, by decide, rfl, by decide⟩
      · exact ⟨0x400, rfl, by decide, rfl, by decide⟩
    refine ⟨fun off => run.trans (surveyCmd_refused up hv off), fun on => ?_⟩
    obtain ⟨t, ht, asked, rest⟩ := surveyCmd_taken inv.1 up hv on
    refine ⟨t, run.trans ht, ?_, rest⟩
    simp only [asked, adds, cancels]
  case book =>
    intro u
    have run : exec (.fbookClear path v) s = .next ((bookClear v u).answered rsOk 0) := writeCmd_ok up (by decide) rfl v
    rw [run]
    exact ⟨fun same => by rw [bookClear, if_pos same], fun other => by rw [bookClear, if_neg other]⟩
  case rings =>
    have run : exec (.cairnRelease mask) s = .next (State.answered (s.each ((List.finRange 10).filter fun r =>
        bitAt (w32 (mask.toNat * 2 ^ 10)).toNat (10 + r.val)) releaseRing) rsOk 0) :=
      writeCmd_icp (off := 0x100) (v := w32 (mask.toNat * 2 ^ 10)) up rfl rfl
    obtain ⟨hdrs, slots⟩ := releaseRings_stands ((List.finRange 10).filter fun r => bitAt (w32 (mask.toNat * 2 ^ 10)).toNat (10 + r.val)) s
    refine ⟨_, run, hdrs, slots, fun r => (releaseRings_rings _ r s).trans ?_⟩
    simp only [List.mem_filter, List.mem_finRange, true_and, releaseMask_bit]

end Sys2Proof.Machine
end

section
/-! SUPPORT. Stopping and starting a clock domain (R408, R411). -/
namespace Sys2Proof.Machine

section
variable {s t : State} {c : Fin 9} {d : Fin 6}

/-- Which clock domains of the channels run. -/
def SameDomains (s t : State) : Prop := ∀ c, (t.chan c).domRun = (s.chan c).domRun

theorem domains_frame : Frame SameDomains where
  refl _ _ := rfl
  trans h k c := (k c).trans (h c)
  icp _ _ _ := rfl
  loans _ _ _ := rfl
  book _ _ _ := rfl
  supv _ _ _ _ := rfl
  records _ _ _ _ := rfl
  sent _ _ _ := rfl
  draws _ _ _ := rfl
  hdrs _ _ _ := rfl
  regs _ _ _ _ _ := rfl
  link s c f hf k := by
    rw [State.modChan_chan]
    split
    · next e =>
      subst e
      have run (x : Chan) : (f x).domRun = x.domRun := by
        have := (hf x).standing
        simp only [Chan.standing, Prod.mk.injEq] at this
        obtain ⟨_, _, _, run, _⟩ := this
        exact run
      exact run _
    · rfl
  lent {s t c} _ h k := by
    rw [State.modChan_chan]
    split
    · next e => exact e ▸ h k
    · exact h k

/-- A domain other than MSIDE holds no CCLK, whose reset starts the domains that its register had stopped. -/
theorem domainPages_not_cclk (hd : d ≠ 2) {p : Page} (hp : p ∈ domainPages c d) : p.blk ≠ .cclk := by
  intro h
  have dom : chanDomain p.blk p.inst.val = d := of_decide_eq_true (List.mem_filter.mp hp).2
  rw [h] at dom
  exact hd dom.symm

theorem SameDomains.domainDown (h : SameDomains s t) (hd : d ≠ 2) : SameDomains s (t.each (domainPages c d) powerDownBlock) :=
  domains_frame.each _ (fun _ hp _ hu => domains_frame.powerDownBlock hu (domainPages_isChan hp) fun hb => absurd hb (domainPages_not_cclk hd hp)) h

theorem SameDomains.domainInit (h : SameDomains s t) (hd : d ≠ 2) :
    SameDomains s (t.each (domainPages c d) fun p s => initBlock p s) :=
  domains_frame.each _ (fun _ hp _ hu => domains_frame.initBlock hu (domainPages_isChan hp) fun hb => absurd hb (domainPages_not_cclk hd hp)) h

/-- A domain that is stopped, and no other. -/
theorem stopDomain_domRun (hd : d ≠ 2) (v : W32) (s : State) : ((stopDomain c d v s).chan c).domRun = (s.chan c).domRun.set d.val false := by
  unfold stopDomain
  extract_lets down
  have same : SameDomains s down := (domains_frame.refl s).domainDown hd
  rw [domains_frame.control (domains_frame.refl _) c, State.modChan_chan_self, ← same c]

/-- A domain that is started, and no other. -/
theorem startDomain_domRun (hd : d ≠ 2) (v : W32) (s : State) : ((startDomain c d v s).chan c).domRun = (s.chan c).domRun.set d.val true := by
  unfold startDomain
  extract_lets started begun
  have same : SameDomains started begun := (domains_frame.refl started).domainInit hd
  have set : (started.chan c).domRun = (s.chan c).domRun.set d.val true := by
    unfold started
    rw [State.modChan_chan_self]
  rw [domains_frame.control (domains_frame.refl _) c, same c, set]

/-- The domains that a write of DOMAIN_EN can stop and start: all but MSIDE. -/
def switchable : List (Fin 6) := [0, 1, 3, 4, 5]

theorem getLsbD_w32_bit (d e : Fin 6) : (w32 (2 ^ d.val)).getLsbD e.val = decide (d = e) := by
  revert d e
  decide

/-- What a filter that looks for one domain finds. -/
theorem switchable_filter (d : Fin 6) (f : Fin 6 → Bool) :
    switchable.filter (fun e => f e && decide (d = e)) = if d ≠ 2 ∧ f d = true then [d] else [] := by
  have here : ∀ e ∈ switchable, (f e && decide (d = e)) = (f d && decide (d = e)) := by
    intro e _
    by_cases h : d = e
    · rw [h]
    · simp [h]
  rw [List.filter_congr here]
  cases f d
  · simp
  · simp only [Bool.true_and, and_true]
    clear here
    revert d
    decide

/-- The value of DOMAIN_EN that a stop or a start of one domain writes. -/
def domainWord (en : W32) (d : Fin 6) (run : Bool) : W32 := if run then en ||| w32 (2 ^ d.val) else en &&& ~~~(w32 (2 ^ d.val))

theorem domainWord_bit (en : W32) (d e : Fin 6) (run : Bool) :
    (domainWord en d run).getLsbD e.val = if d = e then run else en.getLsbD e.val := by
  have lt : e.val < 32 := by omega
  unfold domainWord
  cases run <;> by_cases h : d = e <;>
    simp only [BitVec.getLsbD_or, BitVec.getLsbD_and, BitVec.getLsbD_not, getLsbD_w32_bit, h, lt, decide_true, decide_false, Bool.or_true,
      Bool.or_false, Bool.not_true, Bool.not_false, Bool.and_true, Bool.and_false, Bool.false_eq_true, if_true, if_false]

theorem domainWord_stops (en : W32) (d : Fin 6) (run : Bool) :
    switchable.filter (fun e => en.getLsbD e.val && !(domainWord en d run).getLsbD e.val) =
      if d ≠ 2 ∧ (en.getLsbD d.val && !run) = true then [d] else [] := by
  rw [← switchable_filter d fun e => en.getLsbD e.val && !run]
  refine List.filter_congr fun e _ => ?_
  rw [domainWord_bit]
  by_cases h : d = e <;> simp [h]

theorem domainWord_starts (en : W32) (d : Fin 6) (run : Bool) :
    switchable.filter (fun e => !en.getLsbD e.val && (domainWord en d run).getLsbD e.val) =
      if d ≠ 2 ∧ (!en.getLsbD d.val && run) = true then [d] else [] := by
  rw [← switchable_filter d fun e => !en.getLsbD e.val && run]
  refine List.filter_congr fun e _ => ?_
  rw [domainWord_bit]
  by_cases h : d = e <;> simp [h]

/-- A write of DOMAIN_EN that changes one bit, or none. -/
theorem domainEnWrite_word (c : Fin 9) (d : Fin 6) (run : Bool) (s : State) :
    domainEnWrite c (domainWord (s.reg (cpage c .cclk) 0x104) d run) s =
      (let en := s.reg (cpage c .cclk) 0x104
       let v := domainWord en d run
       let stored := s.setReg (cpage c .cclk) 0x104 ((v &&& 0x3B) ||| 4)
       if d ≠ 2 ∧ (en.getLsbD d.val && !run) = true then
         if mayStop s c d then stopDomain c d v stored else cfgRefused (cpage c .cclk) s
       else if d ≠ 2 ∧ (!en.getLsbD d.val && run) = true then startDomain c d v stored
       else stored) := by
  have stops := domainWord_stops (s.reg (cpage c .cclk) 0x104) d run
  have starts := domainWord_starts (s.reg (cpage c .cclk) 0x104) d run
  simp only [switchable] at stops starts
  simp only [domainEnWrite, stops, starts]
  cases run <;> cases (s.reg (cpage c .cclk) 0x104).getLsbD d.val <;> by_cases h : d ≠ 2 <;>
    simp [h, State.each]

theorem cclkWrite_enable (c : Fin 9) (v : W32) (s : State) : writeSpecific .icp (cpage c .cclk) 0x104 v s = domainEnWrite c v s := rfl

theorem execDomainStop_eq (up : s.takes (cpage c .cclk)) (d : Fin 6) :
    exec (.domainStop c d) s = .next ((domainEnWrite c (domainWord (s.reg (cpage c .cclk) 0x104) d false) s).answered rsOk 0) := by
  have run : exec (.domainStop c d) s =
    writeCmd .icp (regAddr (cpage c .cclk) 0x104) (domainWord (s.reg (cpage c .cclk) 0x104) d false) s := rfl
  rw [run, writeCmd_icp up rfl rfl, cclkWrite_enable]

theorem execDomainStart_eq (up : s.takes (cpage c .cclk)) (d : Fin 6) :
    exec (.domainStart c d) s = .next ((domainEnWrite c (domainWord (s.reg (cpage c .cclk) 0x104) d true) s).answered rsOk 0) := by
  have run : exec (.domainStart c d) s =
    writeCmd .icp (regAddr (cpage c .cclk) 0x104) (domainWord (s.reg (cpage c .cclk) 0x104) d true) s := rfl
  rw [run, writeCmd_icp up rfl rfl, cclkWrite_enable]

/-- One element of the running domains set. -/
theorem domRun_set {x : Vector Bool 6} {b : Bool} (h : (t.chan c).domRun = x.set d.val b) :
    (t.chan c).domRun[d.val] = b ∧ ∀ e : Fin 6, e ≠ d → (t.chan c).domRun[e.val] = x[e.val] := by
  rw [h]
  exact ⟨Vector.getElem_set_self .., fun e he => Vector.getElem_set_ne _ _ fun same => he (Fin.ext same.symm)⟩

end

/-- Settles O46: the write of DOMAIN_EN changes the bit of one domain, or of none. -/
theorem domainCommands : Obligations.DomainCommands := by
  intro c s up
  dsimp only
  refine ⟨fun d hd on => ⟨fun may => ?_, fun may => ?_⟩, fun d hd off => ?_, fun d i named => ?_⟩
  · refine ⟨_, execDomainStop_eq up d, domRun_set ?_⟩
    simp only [domainEnWrite_word, hd, on, may, ne_eq, not_false_eq_true, Bool.not_false, Bool.and_self, and_self, if_true]
    exact stopDomain_domRun hd _ _
  · rw [execDomainStop_eq up d]
    simp only [domainEnWrite_word, hd, on, may, ne_eq, not_false_eq_true, Bool.not_false, Bool.and_self, and_self, if_true, Bool.false_eq_true,
      if_false]
  · refine ⟨_, execDomainStart_eq up d, domRun_set ?_⟩
    simp only [domainEnWrite_word, hd, off, ne_eq, not_false_eq_true, Bool.not_false, Bool.not_true, Bool.and_self, and_self,
      and_false, Bool.false_eq_true, if_true, if_false]
    exact startDomain_domRun hd _ _
  · rcases named with ⟨rfl, none⟩ | ⟨rfl, none⟩
    · refine ⟨_, execDomainStop_eq up d, ?_⟩
      have no : ¬(d ≠ 2 ∧ ((s.reg (cpage c .cclk) 0x104).getLsbD d.val && !false) = true) := by rcases none with h | h <;> simp [h]
      simp only [domainEnWrite_word]
      rw [if_neg no, if_neg (by simp)]
      exact ⟨rfl, rfl⟩
    · refine ⟨_, execDomainStart_eq up d, ?_⟩
      have no : ¬(d ≠ 2 ∧ (!(s.reg (cpage c .cclk) 0x104).getLsbD d.val && true) = true) := by rcases none with h | h <;> simp [h]
      simp only [domainEnWrite_word]
      rw [if_neg (by simp), if_neg no]
      exact ⟨rfl, rfl⟩

end Sys2Proof.Machine
end

section
/-! SUPPORT. Commands of the plats and of a port's receivers (R346, R365, R377, R389). -/
namespace Sys2Proof.Machine

/-! ## What sending leaves -/

/-- The parts of a port that sending never changes, the others as after a reset. -/
def Port.standing (q : Port) : Port :=
  { Port.reset with
    state := q.state, light := q.light, identOk := q.identOk, peer := q.peer, failures := q.failures
    rxSeq := q.rxSeq, nakking := q.nakking, nakLock := q.nakLock, retryLeft := q.retryLeft, retryInj := q.retryInj }

/-- What sending flits leaves of its channel: the plat, the memory, and the standing parts of each port. -/
structure Chan.Sends (x y : Chan) : Prop where
  plat : y.plat = x.plat
  mem : y.mem = x.mem
  ports : ∀ p : Fin 6, y.ports[p.val].standing = x.ports[p.val].standing

/-- A relation that sending flits keeps. -/
structure Sending (R : State → State → Prop) : Prop where
  trans : ∀ {s t u}, R s t → R t u → R s u
  sent : ∀ s c f, (∀ x : Chan, x.Sends (f x)) → R s (s.modChan c f)

namespace Sending

variable {R : State → State → Prop} {r s : State} {c : Fin 9} {p : Fin 6}

variable (F : Sending R) (h : R r s)
include F h

theorem modChan {f : Chan → Chan} (hf : ∀ x : Chan, x.Sends (f x) := by exact fun _ => ⟨rfl, rfl, fun _ => rfl⟩) : R r (s.modChan c f) :=
  F.trans h (F.sent s c f hf)

theorem modPort {f : Port → Port} (hf : ∀ q : Port, (f q).standing = q.standing := by exact fun _ => rfl) : R r (s.modPort c p f) :=
  F.modChan h fun x => ⟨rfl, rfl, fun o => by
    rw [Vector.getElem_set]
    split
    · next e => simpa only [e] using hf x.ports[o.val]
    · rfl⟩

theorem sendFlit {x : TxFlit} : R r (sendFlit c p x s) := by
  unfold Machine.sendFlit leaveBuffer
  dsimp only
  split
  · exact F.modPort (F.modPort h)
  · exact F.modPort h

theorem pumpPort (fuel : Nat) : R r (pumpPort c p fuel s) := by
  induction fuel generalizing s with
  | zero => exact h
  | succ fuel ih =>
    unfold Machine.pumpPort
    dsimp only
    split
    · exact h
    · split
      · exact ih (F.sendFlit h)
      · exact h

theorem pumpAll : R r (pumpAll c s) := each_within _ (fun _ _ _ ht => F.pumpPort ht _) h

theorem routeOwn {owner : Option Nat} {f : Flit} : R r (routeOwn c owner f s) := by
  unfold Machine.routeOwn
  split
  · exact F.modChan h
  · split
    · exact F.modPort h
    · exact h

theorem platMsg {dest : BitVec 14} {code arg : Nat} : R r (platMsg c dest code arg s) :=
  F.pumpAll (each_within _ (fun _ _ _ ht => F.routeOwn ht) h)

end Sending

/-! ## Messages of the plat leave its state -/

/-- The own slots, the memory and the inbound areas of a channel stand, but for the areas that a mask names. -/
structure AreasStand (c : Fin 9) (gone : Nat) (s t : State) : Prop where
  own : (t.chan c).plat.own = (s.chan c).plat.own
  mem : (t.chan c).mem = (s.chan c).mem
  inbound : ∀ a : Fin 2, bitAt gone a.val = false → (t.chan c).plat.inbound[a.val] = (s.chan c).plat.inbound[a.val]

namespace AreasStand

variable {s t u : State} {c : Fin 9} {gone : Nat}

theorem refl (s : State) : AreasStand c gone s s := ⟨rfl, rfl, fun _ _ => rfl⟩

theorem trans (h : AreasStand c gone s t) (k : AreasStand c gone t u) : AreasStand c gone s u :=
  ⟨k.own.trans h.own, k.mem.trans h.mem, fun a ha => (k.inbound a ha).trans (h.inbound a ha)⟩

theorem sending (c : Fin 9) (gone : Nat) : Sending (AreasStand c gone) where
  trans := trans
  sent s d f hf := by
    have kept : ((s.modChan d f).chan c).plat = (s.chan c).plat ∧ ((s.modChan d f).chan c).mem = (s.chan c).mem := by
      rw [State.modChan_chan]
      split
      · next e => subst e; exact ⟨(hf _).plat, (hf _).mem⟩
      · exact ⟨rfl, rfl⟩
    exact ⟨by rw [kept.1], kept.2, fun _ _ => by rw [kept.1]⟩

theorem setArea (h : AreasStand c gone s t) {i : Fin 2} (hi : bitAt gone i.val = true) (x : Inbound) :
    AreasStand c gone s (t.modPlat c fun y => { y with inbound := y.inbound.set i.val x }) := by
  refine h.trans ⟨?_, ?_, fun a ha => ?_⟩
  · rw [State.modPlat, State.modChan_chan_self]
  · rw [State.modPlat, State.modChan_chan_self]
  · rw [State.modPlat, State.modChan_chan_self]
    have other : i.val ≠ a.val := fun same => by rw [same, ha] at hi; cases hi
    exact Vector.getElem_set_ne i.isLt a.isLt other

theorem stopReceiving (h : AreasStand c gone s t) {i : Fin 2} (hi : bitAt gone i.val = true) : AreasStand c gone s (stopReceiving c i t) := by
  unfold Machine.stopReceiving
  dsimp only
  split
  · exact (sending c gone).platMsg (h.setArea hi _)
  · exact h

end AreasStand

section
variable {s : State} {c : Fin 9}

/-- Released areas are empty, and the others stand (R377). -/
theorem releaseIn_areas (c : Fin 9) (areas : Nat) (s : State) :
    (∀ a : Fin 2, ((releaseIn c areas s).chan c).plat.inbound[a.val] = if bitAt areas a.val then .empty else (s.chan c).plat.inbound[a.val]) ∧
      ((releaseIn c areas s).chan c).plat.own = (s.chan c).plat.own ∧ ((releaseIn c areas s).chan c).mem = (s.chan c).mem := by
  unfold releaseIn
  extract_lets stopped
  have stands : AreasStand c areas s stopped :=
    each_within _ (fun i hi _ hu => hu.stopReceiving (List.mem_filter.mp hi).2) (AreasStand.refl s)
  rw [State.modPlat, State.modChan_chan_self]
  refine ⟨fun a => ?_, stands.own, stands.mem⟩
  rw [Vector.getElem_ofFn]
  split
  · rfl
  · next no => exact stands.inbound a (Bool.eq_false_iff.mpr no)

/-- With no area named nothing is released. -/
theorem releaseIn_none (c : Fin 9) (s : State) : releaseIn c 0 s = s := by
  have none (i : Nat) : bitAt 0 i = false := by simp [bitAt]
  have same (x : PlatS) : { x with inbound := .ofFn fun i : Fin 2 => x.inbound[i.val] } = x := by
    have : (Vector.ofFn fun i : Fin 2 => x.inbound[i.val]) = x.inbound := by
      ext i hi
      rw [Vector.getElem_ofFn]
    rw [this]
  unfold releaseIn
  simp only [none, Bool.false_eq_true, if_false, List.filter_false, State.each, List.foldl_nil, same, State.modPlat]
  exact congrArg (fun chans => { s with chans }) (Vector.set_getElem_self c.isLt)

/-! ## A claim (R389) -/

/-- The supervisor's own state stands. -/
def SameStanding (s t : State) : Prop := t.supv.standing = s.supv.standing

theorem standing_frame : Frame SameStanding where
  refl _ := rfl
  trans h k := Eq.trans k h
  icp _ _ := rfl
  loans _ _ := rfl
  book _ _ := rfl
  supv s _ hf := hf s.supv
  records _ _ _ := rfl
  sent _ _ := rfl
  draws _ _ := rfl
  hdrs _ _ := rfl
  regs _ _ _ _ := rfl
  link _ _ _ _ := rfl
  lent _ h := h

theorem SameStanding.setRole {t : State} (h : SameStanding s t) {d : Fin 9} {role : Role} {severe : Bool} :
    SameStanding s (setRole d role severe t) := standing_frame.setRole h h

/-- Every page of a channel is reset and released. -/
theorem SameStanding.resetPage {t : State} (h : SameStanding s t) {q : Page} (hq : q.blk.isChan = true) :
    SameStanding s (releaseBlock q (endReset q (beginReset q t))) := by
  have F := standing_frame
  exact F.modHdr (F.initBlock (F.modHdr (F.stopBlock (F.modHdr h) hq)) hq fun _ _ _ _ => rfl)

theorem selectorBit : ∀ p : Fin 8, (BitVec.ofNat 8 (2 ^ p.val)).getLsbD p.val = true := by decide

/-- The channel that claims a plane fills, and the plane's selector switches. -/
theorem claimGo_outcome (path : Path) (c : Fin 9) (p : Fin 8) (v : W32) (s : State) :
    ((claimGo path c p v s).chan c).role = .filling ∧ (claimGo path c p v s).supv.switching.getLsbD p.val = true ∧
      (claimGo path c p v s).supv.claim = some ⟨c, p⟩ ∧ (claimGo path c p v s).supv.planeMap = s.supv.planeMap := by
  have F := standing_frame
  unfold claimGo
  extract_lets named recalled fenced reset roled freed switched
  have hreset : SameStanding named reset := by
    have hrecalled : SameStanding named recalled := F.when (fun _ ht => F.recallLoans ht) (F.refl named)
    have hfenced : SameStanding named fenced := F.when (fun _ ht => F.fenceChannel ht.setRole) hrecalled
    exact F.each _ (fun _ hq _ ht => ht.resetPage (chanPages_isChan hq)) hfenced
  have hroled : SameStanding named roled := hreset.setRole
  have hfreed : SameStanding named freed := F.modPlat hroled
  have role : (freed.chan c).role = .filling := by
    have filling : (roled.chan c).role = .filling := setRole_role reset c (role := .filling) false nofun
    unfold freed
    rw [State.modPlat, State.modChan_chan_self]
    dsimp only
    exact filling
  have ended : SameStanding switched (control 8 (cpage c .plat) (pathSrc path) v switched) := F.control (F.refl _)
  have chans : (control 8 (cpage c .plat) (pathSrc path) v switched).chans = switched.chans := reporting_chans.control (reporting_chans.refl _)
  have fields (x y : SupvS) (h : x.standing = y.standing) : x.switching = y.switching ∧ x.claim = y.claim ∧ x.planeMap = y.planeMap := by
    simp only [SupvS.standing, SupvS.mk.injEq] at h
    exact ⟨h.2.2.1, h.2.2.2.2.1, h.1⟩
  obtain ⟨switching, claim, map⟩ := fields _ _ ended
  obtain ⟨_, claimed, mapped⟩ := fields _ _ hfreed
  have claimStays : switched.supv.claim = freed.supv.claim := by simp only [switched, State.modSupv_supv]
  have mapStays : switched.supv.planeMap = freed.supv.planeMap := by simp only [switched, State.modSupv_supv]
  have claimSet : named.supv.claim = some ⟨c, p⟩ := by simp only [named, State.modSupv_supv]
  have mapSame : named.supv.planeMap = s.supv.planeMap := by simp only [named, State.modSupv_supv]
  refine ⟨?_, ?_, by rw [claim, claimStays, claimed, claimSet], by rw [map, mapStays, mapped, mapSame]⟩
  · have chan : (control 8 (cpage c .plat) (pathSrc path) v switched).chan c = freed.chan c := by
      unfold State.chan
      rw [chans]
      simp only [switched, State.modSupv_chans]
    rw [chan, role]
  · rw [switching]
    have set : switched.supv.switching = freed.supv.switching ||| BitVec.ofNat 8 (2 ^ p.val) := by
      simp only [switched, State.modSupv_supv]
    rw [set, BitVec.getLsbD_or, selectorBit, Bool.or_true]

/-! ## The commands of PLAT.STATUS and FORCE_RX -/

theorem platStatusCmd (up : s.takes (cpage c .plat)) (v : W32) :
    writeCmd .icp (platStatusAddr c) v s = .next ((platStatusWrite .icp c v s).answered rsOk 0) := by
  have asked : platStatusAddr c = regAddr (cpage c .plat) 0x100 := rfl
  have write : writeSpecific .icp (cpage c .plat) 0x100 v s = platStatusWrite .icp c v s := rfl
  rw [asked, writeCmd_icp up rfl rfl, write]

/-- The fields of PLAT.STATUS that a command writes. -/
theorem platStatusWrite_eq {path : Path} {v : W32} {p : Fin 8} {areas : Nat} {claim recopy : Bool} (hp : bitsOf v.toNat 18 16 = p.val)
    (hclaim : bitAt v.toNat 19 = claim) (hareas : bitsOf v.toNat 21 20 = areas) (hrecopy : bitAt v.toNat 22 = recopy) :
    platStatusWrite path c v s =
      if claim && !claimOk c p s then cfgRefused (cpage c .plat) s
      else (releaseIn c areas (s.when claim (claimGo path c p v))).when recopy (queueCopies c) := by
  have plane : (⟨bitsOf v.toNat 18 16 % 8, by omega⟩ : Fin 8) = p := Fin.ext (by simp only [hp]; omega)
  simp only [platStatusWrite, plane, hclaim, hareas, hrecopy]

theorem claimWord_fields (p : Fin 8) : bitsOf (w32 (p.val * 2 ^ 16 + 2 ^ 19)).toNat 18 16 = p.val ∧ bitAt (w32 (p.val * 2 ^ 16 + 2 ^ 19)).toNat 19 = true ∧
    bitsOf (w32 (p.val * 2 ^ 16 + 2 ^ 19)).toNat 21 20 = 0 ∧ bitAt (w32 (p.val * 2 ^ 16 + 2 ^ 19)).toNat 22 = false := by
  revert p
  decide

theorem areasWord_fields : ∀ areas : BitVec 2, bitsOf (w32 (areas.toNat * 2 ^ 20)).toNat 18 16 = 0 ∧ bitAt (w32 (areas.toNat * 2 ^ 20)).toNat 19 = false ∧
    bitsOf (w32 (areas.toNat * 2 ^ 20)).toNat 21 20 = areas.toNat ∧ bitAt (w32 (areas.toNat * 2 ^ 20)).toNat 22 = false := by
  decide

theorem forceWord_fields : ∀ (fibres : BitVec 2) (wave : BitVec 3), bitsOf (w32 (fibres.toNat * 2 ^ 16 + wave.toNat * 2 ^ 18)).toNat 17 16 = fibres.toNat ∧
    bitsOf (w32 (fibres.toNat * 2 ^ 16 + wave.toNat * 2 ^ 18)).toNat 20 18 = wave.toNat := by
  decide

/-- A claim that is allowed, and one that is not (R389). -/
theorem execClaim_eq (up : s.takes (cpage c .plat)) (p : Fin 8) :
    exec (.claim c p) s = .next (State.answered (if claimOk c p s then claimGo .icp c p (w32 (p.val * 2 ^ 16 + 2 ^ 19)) s |> releaseIn c 0
      else cfgRefused (cpage c .plat) s) rsOk 0) := by
  obtain ⟨hp, hclaim, hareas, hrecopy⟩ := claimWord_fields p
  have run : exec (.claim c p) s = writeCmd .icp (platStatusAddr c) (w32 (p.val * 2 ^ 16 + 2 ^ 19)) s := rfl
  rw [run, platStatusCmd up, platStatusWrite_eq hp hclaim hareas hrecopy]
  cases claimOk c p s <;> rfl

theorem execReleaseIn_eq (up : s.takes (cpage c .plat)) (areas : BitVec 2) :
    exec (.releaseIn c areas) s = .next ((releaseIn c areas.toNat s).answered rsOk 0) := by
  obtain ⟨hp, hclaim, hareas, hrecopy⟩ := areasWord_fields areas
  have run : exec (.releaseIn c areas) s = writeCmd .icp (platStatusAddr c) (w32 (areas.toNat * 2 ^ 20)) s := rfl
  rw [run, platStatusCmd up, platStatusWrite_eq (p := 0) hp hclaim hareas hrecopy]
  rfl

theorem execRecopy_eq (up : s.takes (cpage c .plat)) : exec (.recopy c) s = .next ((queueCopies c s).answered rsOk 0) := by
  have run : exec (.recopy c) s = writeCmd .icp (platStatusAddr c) (w32 (2 ^ 22)) s := rfl
  rw [run, platStatusCmd up, platStatusWrite_eq (p := 0) (areas := 0) (claim := false) (recopy := true) rfl rfl rfl rfl]
  simp only [Bool.false_and, Bool.false_eq_true, if_false, State.when, if_true, releaseIn_none]

end

section
variable {s : State} {c : Fin 9} {p : Fin 6}

theorem execForceRx_eq (up : s.takes (travPage c p)) (fibres : BitVec 2) (wave : BitVec 3) :
    exec (.forceRx c p fibres wave) s = .next ((forceRx c p fibres.toNat wave.toNat s).answered rsOk 0) := by
  obtain ⟨hfibres, hwave⟩ := forceWord_fields fibres wave
  have run : exec (.forceRx c p fibres wave) s =
    writeCmd .icp (regAddr (travPage c p) 0x10C) (w32 (fibres.toNat * 2 ^ 16 + wave.toNat * 2 ^ 18)) s := rfl
  have write (v : W32) : writeSpecific .icp (travPage c p) 0x10C v s = forceRx c p (bitsOf v.toNat 17 16) (bitsOf v.toNat 20 18) s := rfl
  rw [run, writeCmd_icp up rfl rfl, write, hfibres, hwave]

theorem forceRx_none (wave : Nat) : forceRx c p 0 wave s = s := by
  have none : ((List.finRange 2).filter fun f => bitAt 0 f.val) = [] := by decide
  simp only [forceRx, none, List.isEmpty_nil, if_true]

theorem fibres_named {fibres : BitVec 2} (h : fibres ≠ 0) : ((List.finRange 2).filter fun f => bitAt fibres.toNat f.val).isEmpty = false := by
  revert fibres
  decide

/-- FORCE_RX is refused as a whole (R346, R365). -/
theorem forceRx_refused {fibres : BitVec 2} {wave : Nat} (named : fibres ≠ 0)
    (h : 3 < wave ∨ ∃ f : Fin 2, fibres.getLsbD f.val = true ∧ spareUsed s c p f true = true) :
    forceRx c p fibres.toNat wave s = cfgRefused (travPage c p) s := by
  unfold forceRx
  extract_lets fs
  rw [if_neg (by simp [fs, fibres_named named])]
  split
  · next low =>
    obtain ⟨f, hf, used⟩ := h.resolve_left (by omega)
    refine if_pos (List.any_eq_true.mpr ⟨f, ?_, by rw [used, Bool.true_or]⟩)
    exact List.mem_filter.mpr ⟨List.mem_finRange f, by rw [bitAt_toNat]; exact hf⟩
  · rfl

end

/-- Settles O44: each command is one write, and the fields of its value say what it does. -/
theorem claimAndPlatCommands : Obligations.ClaimAndPlatCommands := by
  intro c s
  refine ⟨fun up => ⟨fun p => ⟨fun ok => ?claimed, fun no => ?refused⟩, fun areas => ?released, execRecopy_eq up⟩, fun p fibres wave up =>
    ⟨execForceRx_eq up fibres wave, ?none, fun named bad => ?forced⟩⟩
  case claimed =>
    obtain ⟨role, switching, claim, map⟩ := claimGo_outcome .icp c p (w32 (p.val * 2 ^ 16 + 2 ^ 19)) s
    refine ⟨_, execClaim_eq up p, ?_⟩
    rw [if_pos ok, releaseIn_none]
    exact ⟨role, switching, claim, map⟩
  case refused => rw [execClaim_eq up p, no]; rfl
  case released =>
    obtain ⟨areasAre, own, mem⟩ := releaseIn_areas c areas.toNat s
    refine ⟨execReleaseIn_eq up areas, fun a => ⟨?_, own, mem⟩⟩
    rw [areasAre, bitAt_toNat]
  case none =>
    rintro rfl
    rw [execForceRx_eq up]
    exact congrArg (fun t => Host.Outcome.next (State.answered t rsOk 0)) (forceRx_none _)
  case forced => rw [execForceRx_eq up, forceRx_refused named bad]

end Sys2Proof.Machine
end

section
/-! SUPPORT. What issues at the head of a stream (R99, R105, R120, R121). -/
namespace Sys2Proof.Machine

section
variable {s : State} {c : Fin 9} {st : Fin 4} {isOp : List Byte → Bool} {d : List Byte} {fetched : Bool} {u : UnitId}

/-- The head that R105 grants issues to what its opcode's meaning does with it. -/
theorem issueHead_due (due : s.due c st d fetched u) (op : isOp d = true) (k : Fly → State → State) :
    issueHead c st isOp k s = s.issuing c st u (k (s.issued c st d fetched u)) := by
  obtain ⟨grant, ⟨q, fin, head, rfl, rfl⟩, rfl, free⟩ := due
  simp only [issueHead, grant, head, op, free, ne_eq, not_true_eq_false, if_false, Bool.not_true, Bool.false_eq_true]
  rfl

/-- What an issue comes to depends on the state in which the descriptor has left its stream. -/
theorem issuing_congr {k k' : State → State} (h : k (s.taken c st u) = k' (s.taken c st u)) : s.issuing c st u k = s.issuing c st u k' :=
  congrArg (settle c) h

/-- A head whose unit is fenced completes FENCED without issuing (R120). -/
theorem issueHead_fenced {q : QDesc} {fin : Option (Fin 4 × Bool)} (grant : grantOf s c = some st)
    (head : headOf st ((s.chan c).stream st) = some (q, fin)) (op : isOp q.bytes = true)
    (fenced : dueFenced s c (unitFor s c q.bytes) q.bytes = true) (k : Fly → State → State) :
    issueHead c st isOp k s = settle c (finishQueued c q.bytes st fin.isSome stFenced 0 (endFetch c st (popHead c st false s))) := by
  simp only [issueHead, grant, head, op, fenced, ne_eq, not_true_eq_false, if_false, Bool.not_true, Bool.false_eq_true, if_true]

/-- What issuing a descriptor does with it: its copies are taken, and it is checked. -/
def checkIssue (c : Fin 9) (chk : State → Env → List Byte → Chk) (copies : State → Fly → Env) (flags : H16 → Nat → H16) (f : Fly) (s : State) : State :=
  let f := { f with env := copies s f }
  match chk s f.env f.desc with
  | some (status, detail) => refuseAt c f status (flags status detail) detail s
  | none => enter c f s

variable {chk : State → Env → List Byte → Chk} {copies : State → Fly → Env} {flags : H16 → Nat → H16} {f : Fly}

theorem checkIssue_passed (h : chk s (copies s f) f.desc = none) :
    checkIssue c chk copies flags f s = enter c { f with env := copies s f } s := by
  simp only [checkIssue, h]

theorem checkIssue_refused {status : H16} {detail : Nat} (h : chk s (copies s f) f.desc = some (status, detail)) :
    checkIssue c chk copies flags f s = finishDesc c f.desc f.stream f.fetched f.no status (flags status detail) (w32 detail) s := by
  simp only [checkIssue, h, refuseAt]

/-- Each of the unit descriptors is checked and issued. -/
theorem exec_unitDesc {i : Instr} (named : unitDesc i = some (c, st, isOp, chk, copies)) (s : State) :
    exec i s = .next (issueHead c st isOp (checkIssue c chk copies fun _ _ => 0) s) := by
  unfold unitDesc at named
  split at named
  pick_goal 14
  · cases named
  all_goals
    simp only [Option.some.injEq, Prod.mk.injEq] at named
    obtain ⟨rfl, rfl, rfl, rfl, rfl⟩ := named
    rfl

/-- The flags that a refusal leaves: LOAN_RECALLED where the loan was recalled (R307). -/
def linkFlags (op : Nat) (status : H16) (detail : Nat) : H16 :=
  if (op = 0x58 ∨ op = 0x59) ∧ status = stOperand ∧ detail = 0x0C25 then flLoanRecalled else 0

/-- What the refusal of a loan leaves. -/
def loanFlags (status : H16) (detail : Nat) : H16 := if detail = 0x0C25 && status = stOperand then flLoanRecalled else 0

theorem linkFlags_loan {op : Nat} (h : op = 0x58 ∨ op = 0x59) (status : H16) (detail : Nat) : loanFlags status detail = linkFlags op status detail := by
  by_cases hs : status = stOperand <;> by_cases hd : detail = 0x0C25 <;> simp [loanFlags, linkFlags, h, hs, hd]

theorem linkFlags_other {op : Nat} (h : ¬(op = 0x58 ∨ op = 0x59)) (status : H16) (detail : Nat) : 0 = linkFlags op status detail := by
  rw [linkFlags, if_neg fun k => h k.1]

/-- Each of the link descriptors is checked and issued. -/
theorem exec_linkDesc {i : Instr} {op : Nat} (named : linkDesc i = some (c, st, op, chk)) (s : State) :
    ∃ flags, (∀ status detail, flags status detail = linkFlags op status detail) ∧
      exec i s = .next (issueHead c st (opIs op) (checkIssue c chk (fun _ f => f.env) flags) s) := by
  unfold linkDesc at named
  split at named
  pick_goal 8
  · cases named
  all_goals
    simp only [Option.some.injEq, Prod.mk.injEq] at named
    obtain ⟨rfl, rfl, rfl, rfl⟩ := named
  case h_2 => exact ⟨loanFlags, linkFlags_loan (by decide), rfl⟩
  case h_3 => exact ⟨loanFlags, linkFlags_loan (by decide), rfl⟩
  all_goals exact ⟨fun _ _ => 0, linkFlags_other (by decide), rfl⟩

end

/-- Settles O47: the head is checked with its unit's copies, or completes FENCED. -/
theorem unitDescriptorsIssue : Obligations.UnitDescriptorsIssue := by
  intro i c st isOp chk copies d fetched u s named op
  refine ⟨fun due => ⟨fun passed => ?_, fun status detail refused => ?_⟩, fun q fin grant head bytes fenced => ?_⟩
  · rw [exec_unitDesc named, issueHead_due due op]
    exact congrArg Host.Outcome.next (issuing_congr (checkIssue_passed passed))
  · rw [exec_unitDesc named, issueHead_due due op]
    exact congrArg Host.Outcome.next (issuing_congr (checkIssue_refused refused))
  · subst bytes
    rw [exec_unitDesc named, issueHead_fenced grant head op fenced]

/-- Settles O48: the head is checked, and a refusal says whether its loan was recalled. -/
theorem linkDescriptorsIssue : Obligations.LinkDescriptorsIssue := by
  intro i c st op chk d fetched u s named isOp due
  obtain ⟨flags, hflags, run⟩ := exec_linkDesc named s
  refine ⟨fun passed => ?_, fun status detail refused => ?_⟩
  · rw [run, issueHead_due due isOp]
    exact congrArg Host.Outcome.next (issuing_congr (checkIssue_passed passed))
  · rw [run, issueHead_due due isOp]
    refine congrArg Host.Outcome.next (issuing_congr ((checkIssue_refused refused).trans ?_))
    rw [hflags]
    rfl

end Sys2Proof.Machine
end

section
/-! SUPPORT. The work of a channel's units (R106 to R120, R172 to R191): each of its operations stays within a relation that the updates of
that work keep. -/
namespace Sys2Proof.Machine

namespace Finishing

variable {P : Fin 9 → Fin 4 → Prop} {R : State → State → Prop} {r s : State}

variable (F : Finishing P R) (h : R r s)
include F h

theorem popHead {c : Fin 9} {st : Fin 4} {issues : Bool} (hP : P c st := by exact trivial) : R r (popHead c st issues s) := F.modStream h hP

theorem endFetch {c : Fin 9} {st : Fin 4} (hP : P c st := by exact trivial) : R r (endFetch c st s) := by
  unfold Machine.endFetch
  split
  · exact h
  · split
    · dsimp only
      split
      · exact F.modStream h hP
      · exact F.finishDesc (F.modStream h hP) fun _ => hP
    · exact h

theorem settleStream {c : Fin 9} {st : Fin 4} (n : Nat) (hP : P c st := by exact trivial) : R r (settleStream c st n s) := by
  induction n generalizing s with
  | zero => exact h
  | succ n ih =>
    unfold Machine.settleStream
    dsimp only
    split
    · exact h
    · split
      · exact h
      · split
        · exact ih (F.finishQueued (F.endFetch (F.popHead h hP) hP) fun _ => hP)
        · split
          · exact ih (F.finishQueued (F.endFetch (F.popHead h hP) hP) fun _ => hP)
          · exact h

theorem settle {c : Fin 9} (hst : ∀ st t, R r t → R r (Machine.settleStream c st 320 t)) : R r (settle c s) := by
  unfold Machine.settle
  split
  · exact F.each _ (fun st _ t ht => hst st t ht) h
  · exact h

theorem dropFetch {c : Fin 9} {st : Fin 4} {f : Fetch} {status : H16} {detail : W32}
    (hP : P c st := by exact trivial) : R r (dropFetch c st f status detail s) :=
  F.each _ (fun _ _ _ ht => F.finishQueued ht fun _ => hP) (F.when (fun _ ht => F.finishDesc ht fun _ => hP) (F.modStream h hP))

end Finishing

namespace Work

variable {R : State → State → Prop} {r s : State}

variable (F : Work R) (h : R r s)
include F h

theorem modFly {c : Fin 9} {no : Nat} {g : Fly → Fly} (hg : ∀ x : Fly, (g x).no = x.no ∧ (g x).desc = x.desc ∧
    (x.committed = true → (g x).committed = true) := by exact fun _ => ⟨rfl, rfl, id⟩) : R r (s.modFly c no g) := by
  refine F.modFlies h fun f => ?_
  split
  · exact hg f
  · exact ⟨rfl, rfl, id⟩

/-! ## Feeding -/

theorem readSpans {c : Fin 9} {q : Requester} {unit : Nat} {l : List Span} : R r (readSpans c q unit l s) :=
  F.each _ (fun _ _ _ ht => F.readLine ht) (F.requestRuns (F.flushHeld h))

theorem doReads {c : Fin 9} {l : List Reads} : R r (doReads c l s) := F.each _ (fun _ _ _ ht => F.readSpans ht) h

theorem takeArray {c : Fin 9} {a : Fin 2} {f : Fly} : R r (takeArray c a f s) := by
  unfold Machine.takeArray
  exact F.modArray h

theorem beginFly {c : Fin 9} {f : Fly} : R r (beginFly c f s) := by
  unfold Machine.beginFly
  dsimp only
  split
  · exact F.sweep (F.endFly h)
  · split
    · exact F.endFly (F.doReads h)
    · split
      · exact F.takeArray (F.modFly (F.doReads h))
      · exact F.modFly (F.doReads h)

theorem rampUp {c : Fin 9} {a : Fin 2} : R r (rampUp c a s) := F.modArray (F.bumpField h)

theorem holdUp {c : Fin 9} {a : Fin 2} : R r (holdUp c a s) := by
  unfold Machine.holdUp
  dsimp only
  split
  · exact F.rampUp h
  · exact h

theorem mayBegin {c : Fin 9} {f : Fly} {t : State} (ht : mayBegin c f s = some t) : R r t := by
  unfold Machine.mayBegin at ht
  split at ht
  · dsimp only at ht
    split at ht
    · exact Option.some.inj ht ▸ h
    · split at ht
      · cases ht
      · split at ht
        · exact Option.some.inj ht ▸ h
        · exact Option.some.inj ht ▸ F.rampUp h
  · cases ht

theorem runUnit {c : Fin 9} {u : UnitId} (n : Nat) : R r (runUnit c u n s) := by
  induction n generalizing s with
  | zero => exact h
  | succ n ih =>
    unfold Machine.runUnit
    split
    · exact ih (F.modFly h)
    · split
      · split
        · next begun => exact F.mayBegin h begun
        · exact ih (F.beginFly h)
      · exact h

theorem goOn {c : Fin 9} {u : UnitId} : R r (goOn c u s) := F.runUnit h _

theorem readsEnd {c : Fin 9} {f : Fly} : R r (readsEnd c f s) := F.deliverReplies (F.when (fun _ ht => F.drainPort ht) (F.drainPort h))

theorem feedEnd {c : Fin 9} {u : UnitId} : R r (feedEnd c u s) := by
  unfold Machine.feedEnd
  split
  · extract_lets busy fed gone
    have hbusy : R r busy := by
      refine F.each _ (fun e _ t ht => ?_) h
      split
      · exact F.countBusy ht
      · exact ht
    have hgone : R r gone := F.goOn (F.modFly (F.readsEnd hbusy))
    split
    · split
      · exact hgone
      · exact F.openGap hgone
    · exact hgone
  · exact F.goOn h

theorem settle {c : Fin 9} : R r (settle c s) := F.toFinishing.settle h fun _ _ ht => F.settleStream ht _

/-! ## Descriptors that are aborted or complete -/

theorem endContinues {c : Fin 9} {a : Fin 2} {no : Nat} : R r (endContinues c a no s) := F.each _ (fun _ _ _ ht => F.endFly ht) h

theorem abortFly {c : Fin 9} {f : Fly} : R r (abortFly c f s) := by
  refine F.withGaps h fun t ht => F.goOn (F.sweep (F.endFly ?_))
  split
  · split
    · exact F.endContinues ht
    · exact ht
  · exact ht

theorem endMove {c : Fin 9} {f : Fly} {status flags : H16} {detail : Nat} : R r (endMove c f status flags detail s) :=
  F.settle (F.goOn (F.sweep (F.endFly h)))

theorem completeFly {c : Fin 9} {f : Fly} : R r (completeFly c f s) := by
  unfold Machine.completeFly
  extract_lets fed q stored
  have hfed : R r fed := F.when (fun _ ht => F.feedEnd ht) h
  split
  · exact F.settle (F.goOn (F.sweep (F.endFly hfed)))
  · refine F.settle (F.goOn (F.endFly (F.when (fun _ ht => ?_) hfed)))
    exact F.deliverReplies (F.drainPort (F.each _ (fun _ _ _ hu => F.storeEff hu) ht))

end Work

/-! ## What the work leaves -/

/-- No descriptor enters the work of a channel, and none changes its number or body or loses its commit. -/
def FlyShrinks (c : Fin 9) (s t : State) : Prop :=
  ∀ g ∈ (t.chan c).fly, ∃ f ∈ (s.chan c).fly, f.no = g.no ∧ f.desc = g.desc ∧ (f.committed = true → g.committed = true)

theorem flyShrinks_work (c : Fin 9) : Work (FlyShrinks c) where
  refl _ g hg := ⟨g, hg, rfl, rfl, id⟩
  trans h k g hg := by
    obtain ⟨f, hf, no, desc, committed⟩ := k g hg
    obtain ⟨e, he, no', desc', committed'⟩ := h f hf
    exact ⟨e, he, no'.trans no, desc'.trans desc, committed ∘ committed'⟩
  icp _ _ g hg := ⟨g, hg, rfl, rfl, id⟩
  hub _ _ _ g hg := ⟨g, hg, rfl, rfl, id⟩
  book _ _ g hg := ⟨g, hg, rfl, rfl, id⟩
  supv _ _ _ g hg := ⟨g, hg, rfl, rfl, id⟩
  records _ _ _ g hg := ⟨g, hg, rfl, rfl, id⟩
  sent _ _ g hg := ⟨g, hg, rfl, rfl, id⟩
  draws _ _ g hg := ⟨g, hg, rfl, rfl, id⟩
  hdrs _ _ g hg := ⟨g, hg, rfl, rfl, id⟩
  counted _ _ _ _ _ g hg := ⟨g, hg, rfl, rfl, id⟩
  chan s d f hf g hg := by
    rw [State.modChan_chan] at hg
    split at hg
    · next e => subst e; exact (hf _).fly g hg
    · exact ⟨g, hg, rfl, rfl, id⟩

/-- The work of a channel starts no closure work: an array without it stays without. -/
def ClosuresEnd (c : Fin 9) (a : Fin 2) (s t : State) : Prop := (s.chan c).arrays[a.val].closure = none → (t.chan c).arrays[a.val].closure = none

theorem closuresEnd_work (c : Fin 9) (a : Fin 2) : Work (ClosuresEnd c a) where
  refl _ := id
  trans h k := k ∘ h
  icp _ _ := id
  hub _ _ _ := id
  book _ _ := id
  supv _ _ _ := id
  records _ _ _ := id
  sent _ _ := id
  draws _ _ := id
  hdrs _ _ := id
  counted _ _ _ _ _ := id
  chan s d f hf h := by
    rw [State.modChan_chan]
    split
    · next e => subst e; exact (hf _).closure a h
    · exact h

/-- The registers other than the counters of the work stand. -/
def RegsStand (s t : State) : Prop := ∀ p off, off < 4096 → workReg p.blk off = false → t.reg p off = s.reg p off

theorem workReg_lt {b : Blk} {off : Nat} (h : workReg b off = true) : off < 4096 := by
  cases b <;> simp only [workReg, List.contains_cons, List.contains_nil, Bool.or_false, Bool.or_eq_true, beq_iff_eq, Bool.false_eq_true] at h <;>
    omega

/-- The first page of a page's block. -/
def firstPage (p : Page) : Page := ⟨p.blk, if p.blk.isChan then p.chan else 0, 0⟩

theorem firstPage_ok : ∀ (b : Blk) (c : Fin 9), (⟨b, if b.isChan then c else 0, 0⟩ : Page).ok = true := by
  intro b
  cases b <;> decide

theorem firstPage_zone (p : Page) : (firstPage p).zone = p.zone := by
  obtain ⟨b, c, i⟩ := p
  cases b <;> rfl

theorem firstPage_key (p : Page) : p.key = (firstPage p).key + p.inst.val := by
  rw [Page.key, Page.key, firstPage_zone]
  simp only [firstPage, Fin.val_zero, Nat.add_zero]

theorem firstPage_aligned (p : Page) : (firstPage p).key % 16 = 0 := by
  simp only [Page.key, firstPage, Fin.val_zero, Nat.add_zero]
  omega

/-- The key of a page tells its block. -/
theorem blk_of_key {p q : Page} (h : p.key = q.key) : p.blk = q.blk := by
  have hp := firstPage_key p
  have hq := firstPage_key q
  have ap := firstPage_aligned p
  have aq := firstPage_aligned q
  have same : (firstPage p).key = (firstPage q).key := by omega
  have pages := pageOf_base _ _ 0 (firstPage_ok p.blk p.chan)
  have base : (firstPage p).base = (firstPage q).base := congrArg (· * 4096) same
  have pages' := pageOf_base _ _ 0 (firstPage_ok q.blk q.chan)
  have named : firstPage p = firstPage q := Option.some.inj (pages.symm.trans ((congrArg (pageOf <| w32 ·) base).trans pages'))
  exact congrArg (·.blk) named

theorem regsStand_work : Work RegsStand where
  refl _ _ _ _ _ := rfl
  trans h k p off ho hr := (k p off ho hr).trans (h p off ho hr)
  icp _ _ _ _ _ _ := rfl
  hub _ _ _ _ _ _ _ := rfl
  book _ _ _ _ _ _ := rfl
  supv _ _ _ _ _ _ _ := rfl
  records _ _ _ _ _ _ _ := rfl
  sent _ _ _ _ _ _ := rfl
  draws _ _ _ _ _ _ := rfl
  hdrs _ _ _ _ _ _ := rfl
  counted s p off v hp q o ho hq := by
    refine State.setReg_reg_ne (fun same => ?_) v
    have lt := workReg_lt hp
    simp only [Page.base] at same
    have keys : q.key = p.key := by omega
    have offs : o = off := by omega
    rw [blk_of_key keys, offs, hp] at hq
    cases hq
  chan _ _ _ _ _ _ _ _ := rfl

end Sys2Proof.Machine
end

section
/-! SUPPORT. Ramps and closure work of the arrays (R189 to R194, R288, R289, R418, R419). -/
namespace Sys2Proof.Machine

/-! ## What queued descriptors leave of the arrays -/

/-- The descriptors in flight and the ramps of a channel's arrays stand. -/
def RampsStand (c : Fin 9) (s t : State) : Prop :=
  (t.chan c).fly = (s.chan c).fly ∧ ∀ a : Fin 2, (t.chan c).arrays[a.val].ramp = (s.chan c).arrays[a.val].ramp

theorem rampsStand_finishing (c : Fin 9) : Finishing (fun _ _ => True) (RampsStand c) where
  refl _ := ⟨rfl, fun _ => rfl⟩
  trans h k := ⟨k.1.trans h.1, fun a => (k.2 a).trans (h.2 a)⟩
  icp _ _ := ⟨rfl, fun _ => rfl⟩
  book _ _ := ⟨rfl, fun _ => rfl⟩
  records _ _ _ := ⟨rfl, fun _ => rfl⟩
  sent _ _ := ⟨rfl, fun _ => rfl⟩
  hdrs _ _ := ⟨rfl, fun _ => rfl⟩
  rejected _ _ _ := ⟨rfl, fun _ => rfl⟩
  stream s d st f _ := by
    unfold RampsStand State.modStream
    rw [State.modChan_chan]
    split
    · next e => subst e; exact ⟨rfl, fun _ => rfl⟩
    · exact ⟨rfl, fun _ => rfl⟩
  finished s d f hf := by
    unfold RampsStand
    rw [State.modChan_chan]
    split
    · next e => subst e; exact ⟨(hf _).fly, (hf _).ramp⟩
    · exact ⟨rfl, fun _ => rfl⟩

theorem settle_ramps (c : Fin 9) (s : State) : RampsStand c s (settle c s) :=
  (rampsStand_finishing c).settle ((rampsStand_finishing c).refl s) fun _ _ ht => (rampsStand_finishing c).settleStream ht _

theorem settle_regs (c : Fin 9) (s : State) : RegsStand s (settle c s) := regsStand_work.settle (regsStand_work.refl s)

/-! ## Ramps -/

section
variable {c : Fin 9} {a : Fin 2} {s t : State}

theorem modArray_array_self (s : State) (c : Fin 9) (a : Fin 2) (f : ArrayS → ArrayS) :
    ((s.modArray c a f).chan c).arrays[a.val] = f (s.chan c).arrays[a.val] := by
  simp [State.modArray]

theorem modArray_fly (s : State) (c : Fin 9) (a : Fin 2) (f : ArrayS → ArrayS) : ((s.modArray c a f).chan c).fly = (s.chan c).fly := by
  simp [State.modArray]

theorem overlaps_arrUnit (a : Fin 2) (u : UnitId) : overlaps (arrUnit a) u = decide (arrUnit a = u) := by
  unfold arrUnit
  split <;> rfl

/-- A unit with nothing in flight has nothing to begin. -/
theorem goOn_unit_idle (none : ∀ f ∈ (s.chan c).fly, f.unit ≠ arrUnit a) : goOn c (arrUnit a) s = s := by
  have away (f : Fly) (hf : f ∈ (s.chan c).fly) : overlaps (arrUnit a) f.unit = false := by
    rw [overlaps_arrUnit, decide_eq_false (Ne.symm (none f hf))]
  have staged : (s.chan c).fly.find? (fun f => overlaps (arrUnit a) f.unit && f.phase = .staged && mayFeed s c f) = .none :=
    List.find?_eq_none.mpr fun f hf => by simp [away f hf]
  have begin : (s.chan c).fly.find? (fun f => overlaps (arrUnit a) f.unit && f.phase = .feeding && !f.begun) = .none :=
    List.find?_eq_none.mpr fun f hf => by simp [away f hf]
  simp only [goOn, runUnit, staged, begin]

theorem presenting_idle (none : ∀ f ∈ (s.chan c).fly, f.unit ≠ arrUnit a) : presenting s c a = false := by
  simp only [presenting, List.any_eq_false]
  intro f hf
  simp [none f hf]

theorem holdUp_unheld (h : holdSet s c = false ∨ parkSet s c = true) : holdUp c a s = s := by
  unfold holdUp
  rcases h with h | h <;> simp [h]

/-- At the end of a ramp the array stands in its new state, with the fill control that is in force. -/
def rampTo (c : Fin 9) (a : Fin 2) (r : Ramp) (s : State) : State := takeFill c a (s.modArray c a fun x => { x with ramp := r })

theorem rampTo_ramp (s : State) (c : Fin 9) (a : Fin 2) (r : Ramp) : ((rampTo c a r s).chan c).arrays[a.val].ramp = r := by
  simp only [rampTo, takeFill, modArray_array_self]

theorem rampTo_fly (s : State) (c : Fin 9) (a : Fin 2) (r : Ramp) : ((rampTo c a r s).chan c).fly = (s.chan c).fly := by
  simp only [rampTo, takeFill, modArray_fly]

/-- With nothing in flight in the array, the end of a ramp changes its state, and the streams may then go on. -/
theorem settle_rampTo (idle : ∀ f ∈ (s.chan c).fly, f.unit ≠ arrUnit a) (r : Ramp) : ∃ t, settle c (goOn c (arrUnit a) (rampTo c a r s)) = t ∧
    (t.chan c).arrays[a.val].ramp = r ∧ (t.chan c).fly = (s.chan c).fly ∧
      ∀ off, off = 0x100 ∨ off = 0x104 → t.reg (cpage c .cpwr) off = s.reg (cpage c .cpwr) off := by
  have stays : goOn c (arrUnit a) (rampTo c a r s) = rampTo c a r s := goOn_unit_idle (by rw [rampTo_fly]; exact idle)
  obtain ⟨fly, ramps⟩ := settle_ramps c (rampTo c a r s)
  rw [stays]
  refine ⟨_, rfl, (ramps a).trans (rampTo_ramp s c a r), fly.trans (rampTo_fly s c a r), fun off ho => ?_⟩
  rcases ho with rfl | rfl
  · exact settle_regs c (rampTo c a r s) (cpage c .cpwr) 0x100 (by decide) rfl
  · exact settle_regs c (rampTo c a r s) (cpage c .cpwr) 0x104 (by decide) rfl

theorem rampEnds_up (idle : ∀ f ∈ (s.chan c).fly, f.unit ≠ arrUnit a) (up : (s.chan c).arrays[a.val].ramp = .rampUp) (noPark : parkSet s c = false)
    (noGap : s.field (cpage c .cpwr) 0x100 1 0 ≠ 1 ∨ holdSet s c = true) : ((rampEnds c a s).chan c).arrays[a.val].ramp = .full := by
  obtain ⟨t, ht, ramp, fly, regs⟩ := settle_rampTo idle .full
  have ends : rampEnds c a s = if presenting t c a then t else openGap c a t := by
    unfold rampEnds
    rw [up, ← ht]
    rfl
  have park : parkSet (takeFill c a t) c = false := (congrArg (fun w : W32 => bitAt w.toNat 0) (regs _ (.inr rfl))).trans noPark
  have hold : holdSet (takeFill c a t) c = holdSet s c := congrArg (fun w : W32 => bitAt w.toNat 1) (regs _ (.inr rfl))
  have mode : rampMode (takeFill c a t) c a = s.field (cpage c .cpwr) 0x100 1 0 := by
    rw [rampMode, takeFill, modArray_array_self]
    exact congrArg (fun w : W32 => bitsOf w.toNat 1 0) (regs _ (.inl rfl))
  have closed : openGap c a t = takeFill c a t := by
    unfold openGap
    rcases noGap with h | h <;> simp [park, hold, mode, h]
  rw [ends, presenting_idle (by rw [fly]; exact idle), if_neg Bool.false_ne_true, closed, takeFill, modArray_array_self]
  exact ramp

theorem rampEnds_down (idle : ∀ f ∈ (s.chan c).fly, f.unit ≠ arrUnit a) (down : (s.chan c).arrays[a.val].ramp = .rampDown)
    (noHold : holdSet s c = false ∨ parkSet s c = true) : ((rampEnds c a s).chan c).arrays[a.val].ramp = .parked := by
  obtain ⟨t, ht, ramp, fly, regs⟩ := settle_rampTo idle .parked
  have ends : rampEnds c a s = holdUp c a t := by
    unfold rampEnds
    rw [down, ← ht]
    rfl
  have word := regs 0x104 (.inr rfl)
  have unheld : holdSet t c = false ∨ parkSet t c = true := by
    simpa only [holdSet, parkSet, word] using noHold
  rw [ends, holdUp_unheld unheld]
  exact ramp

end

/-! ## Counts in the upper half of a register -/

theorem high_bumped (v : W32) (n : Nat) :
    bitsOf (w32 (v.toNat - bitsOf v.toNat 31 16 * 2 ^ 16 + satAdd (2 ^ (31 + 1 - 16) - 1) (bitsOf v.toNat 31 16) n * 2 ^ 16)).toNat 31 16 =
      min 0xFFFF (bitsOf v.toNat 31 16 + n) := by
  have := v.isLt
  simp only [bitsOf, satAdd, w32, BitVec.toNat_ofNat]
  omega

theorem high_of_low_bumped (v : W32) (n : Nat) :
    bitsOf (w32 (v.toNat - bitsOf v.toNat 15 0 * 2 ^ 0 + satAdd (2 ^ (15 + 1 - 0) - 1) (bitsOf v.toNat 15 0) n * 2 ^ 0)).toNat 31 16 =
      bitsOf v.toNat 31 16 := by
  have := v.isLt
  simp only [bitsOf, satAdd, w32, BitVec.toNat_ofNat]
  omega

section
variable {s : State} (hw : s.wf) (p : Page) (off n : Nat)
include hw

theorem field_bumpField_high : (s.bumpField p off 31 16 n).field p off 31 16 = min 0xFFFF (s.field p off 31 16 + n) := by
  rw [State.field, State.bumpField, State.setReg_reg_self hw]
  exact high_bumped _ n

theorem field_bumpField_low : (s.bumpField p off 15 0 n).field p off 31 16 = s.field p off 31 16 := by
  rw [State.field, State.bumpField, State.setReg_reg_self hw]
  exact high_of_low_bumped _ n

end

/-- An active array that presents nothing starts its ramp down, which counts. -/
theorem rampDown_full {c : Fin 9} {a : Fin 2} {s : State} (hw : s.wf) (mode : rampMode s c a = 0) (full : (s.chan c).arrays[a.val].ramp = .full) :
    ((rampDown c a s).chan c).arrays[a.val].ramp = .rampDown ∧
      (rampDown c a s).field (cpage c .cpwr) 0x108 31 16 = min 0xFFFF (s.field (cpage c .cpwr) 0x108 31 16 + 1) ∧
      ((rampDown c a s).chan c).mem = (s.chan c).mem := by
  have down : rampDown c a s = (s.bumpField (cpage c .cpwr) 0x108 31 16 1).modArray c a fun x => { x with ramp := .rampDown } := by
    simp [rampDown, mode, full]
  rw [down]
  refine ⟨by rw [modArray_array_self], field_bumpField_high hw _ _ _, ?_⟩
  simp [State.modArray]

/-! ## Closure work (R288, R289, R418, R419) -/

theorem Reporting.addSample {R : State → State → Prop} (F : Reporting R) {r s : State} (h : R r s) {g : GaugeSample} : R r (addSample g s) := by
  unfold Machine.addSample
  split
  · exact h
  · exact F.modBook h

section
variable {c : Fin 9} {a : Fin 2} {s : State}

theorem Work.closeSample {R : State → State → Prop} (F : Work R) {r : State} {f : Fly} {outcome : Nat} {err : Int}
    (h : R r (s.modArray c a fun x => { x with closure := none })) : R r (closeSample c a f outcome err s) := by
  unfold Machine.closeSample
  dsimp only
  refine F.goOn ?_
  split
  · exact F.completeFly (F.modFly h)
  · exact F.modFly h

/-- A sample that is closed leaves the array without closure work. -/
theorem closeSample_closure (f : Fly) (outcome : Nat) (err : Int) : ((closeSample c a f outcome err s).chan c).arrays[a.val].closure = none := by
  have closed : ClosuresEnd c a (s.modArray c a fun x => { x with closure := none }) (closeSample c a f outcome err s) :=
    (closuresEnd_work c a).closeSample ((closuresEnd_work c a).refl _)
  exact closed (by rw [modArray_array_self])

theorem closeSample_regs (f : Fly) (outcome : Nat) (err : Int) : RegsStand s (closeSample c a f outcome err s) :=
  regsStand_work.closeSample fun _ _ _ _ => rfl

theorem readsBlocked_of_stacks (h : ∀ i : Fin 2, stackFenced s c i = false) (l : List Reads) : readsBlocked s c l = false := by
  have none : ((List.finRange 2).any fun i => stackFenced s c i) = false := by simp [h]
  simp [readsBlocked, accessBlocked, none]

end

/-- The memory of a channel stands. -/
def MemStands (c : Fin 9) (s t : State) : Prop := (t.chan c).mem = (s.chan c).mem

theorem reporting_mem (c : Fin 9) : Reporting (MemStands c) where
  refl _ := rfl
  trans h k := k.trans h
  icp _ _ := rfl
  book _ _ := rfl
  records _ _ _ := rfl
  sent _ _ := rfl
  hdrs _ _ := rfl

namespace MemStands

variable {c : Fin 9} {s t : State}

theorem modChan (h : MemStands c s t) {f : Chan → Chan} (hf : ∀ x : Chan, (f x).mem = x.mem := by exact fun _ => rfl) :
    MemStands c s (t.modChan c f) := by
  rw [MemStands, State.modChan_chan_self, hf]
  exact h

theorem makeRoom (h : MemStands c s t) (l : Nat) : MemStands c s (makeRoom c l t) := by
  unfold Machine.makeRoom
  dsimp only
  split
  · split
    · exact modChan (t := t.draw.2) h
    · exact h
  · exact h

theorem readLine (h : MemStands c s t) (e : Nat × BitVec 4) : MemStands c s (readLine c e t) := by
  unfold Machine.readLine
  split
  · exact modChan (t := (Machine.makeRoom c e.1 t).bump64 (cpage c .cache) 0x108 1) (makeRoom h e.1)
  · exact h

theorem flushHeld (h : MemStands c s t) : MemStands c s (flushHeld c t) := by
  unfold Machine.flushHeld Machine.writeBackLines
  split
  · exact h
  · exact modChan h

/-- Reads leave the memory. -/
theorem doReads (h : MemStands c s t) (l : List Reads) : MemStands c s (doReads c l t) := by
  have F := reporting_mem c
  refine F.each _ (fun r _ u hu => ?_) h
  refine F.each _ (fun e _ v hv => readLine hv e) ?_
  exact modChan (flushHeld hu)

end MemStands

section
variable {c : Fin 9} {a : Fin 2} {s : State} {f : Fly} {k : Closure}

/-- The comparison counts its sample (R289). -/
def sampleCounted (c : Fin 9) (f : Fly) (err : Int) (s : State) : State :=
  bookTotal c 1 1 (addSample (closureGauge c err) ((doReads c (closureReads c f) s).bumpField (numwPage c) 0x11C 31 16 1))

theorem sampleCounted_wf (hw : s.wf) (f : Fly) (err : Int) : (sampleCounted c f err s).wf :=
  (keeps_bookTotal (keeps_addSample ((keeps_doReads (Keeps.refl s) c _).bumpField _ _ _ _ _) _) c 1 1).wf hw

theorem sampleCounted_field (hw : s.wf) (f : Fly) (err : Int) :
    (sampleCounted c f err s).field (numwPage c) 0x11C 31 16 = min 0xFFFF (s.field (numwPage c) 0x11C 31 16 + 1) := by
  have W := regsStand_work
  have read : RegsStand s (doReads c (closureReads c f) s) := W.doReads (W.refl s)
  have counted : RegsStand ((doReads c (closureReads c f) s).bumpField (numwPage c) 0x11C 31 16 1) (sampleCounted c f err s) :=
    W.bookTotal (W.addSample (W.refl _))
  have wf : (doReads c (closureReads c f) s).wf := (keeps_doReads (Keeps.refl s) c _).wf hw
  rw [State.field, counted _ _ (by decide) rfl, ← State.field, field_bumpField_high wf, State.field, read _ _ (by decide) rfl, ← State.field]

/-- A sample in excess is counted and reported (R289). -/
def excessReported (c : Fin 9) (a : Fin 2) (t : State) : State :=
  event 0x0120 0 (numwPage c) a.val false (bookTotal c 2 1 (t.bumpField (numwPage c) 0x11C 15 0 1))

theorem excessReported_field {t : State} (hw : t.wf) : (excessReported c a t).field (numwPage c) 0x11C 31 16 = t.field (numwPage c) 0x11C 31 16 := by
  have W := regsStand_work
  have told : RegsStand (t.bumpField (numwPage c) 0x11C 15 0 1) (excessReported c a t) := W.event (W.bookTotal (W.refl _))
  rw [State.field, told _ _ (by decide) rfl, ← State.field, field_bumpField_low hw]

/-- The bound of a sample's error. -/
def sampleBound (f : Fly) : Int := (BitVec.ofNat 8 (bitsOf f.env.closureRate.toNat 15 8)).toInt

/-- The error of a granted sample, and whether it exceeds the bound. -/
def sampleOf (s : State) (c : Fin 9) (f : Fly) (k : Closure) : Int × Bool := sampleErr k (wideResult (s.chan c).mem f.env f.desc) (sampleBound f)

/-- What a sample that has time comes to. -/
theorem closureCompare_runs (pass : closurePass s c a = some (f, k)) (fresh : k.inExcess = false) (granted : f.granted = true)
    (runs : closureRuns s c a k = true) (inForce : ∀ i : Fin 2, stackFenced s c i = false) {x : Int × Bool}
    (hx : sampleOf s c f k = x) : closureCompare c a s =
      if x.2 = true then
        (excessReported c a (sampleCounted c f x.1 s)).modArray c a fun y => { y with closure := some { k with inExcess := true, err := x.1 } }
      else closeSample c a f 1 x.1 (sampleCounted c f x.1 s) := by
  have mem : ((doReads c (closureReads c f) s).chan c).mem = (s.chan c).mem := MemStands.doReads ((reporting_mem c).refl s) _
  subst hx
  unfold closureCompare
  simp only [pass, fresh, granted, runs, readsBlocked_of_stacks inForce, mem, Bool.not_true, Bool.or_self, Bool.false_eq_true, if_false]
  cases h : (sampleOf s c f k).2 <;> simp only [sampleOf, sampleBound] at h <;> simp only [sampleOf, sampleBound, h] <;> rfl

end

/-- Settles O52: the ends of a ramp with nothing in flight change its state alone, and closed samples end their closure work. -/
theorem rampAndClosureEvents : Obligations.RampAndClosureEvents := by
  intro c a s ⟨hw, _⟩ r
  refine ⟨fun powered mode full noHold idle => ?_, fun idle => ⟨fun up noPark noGap => ⟨_, rfl, rampEnds_up idle up noPark noGap⟩,
    fun down noHold => ⟨_, rfl, rampEnds_down idle down noHold⟩⟩, rfl, fun live noPark f k pass => ⟨?_, ?_⟩⟩
  · have run : exec (.fillMaxReached c a) s = execFillMaxReached c a s := rfl
    refine ⟨_, ?_, rampDown_full hw mode full⟩
    rw [run, execFillMaxReached, powered, mode, show (s.chan c).arrays[a.val].ramp = .full from full, noHold, idle]
    rfl
  · intro fresh granted runs inForce x
    have run : exec (.closureCompare c a) s = .next (closureCompare c a s) := if_pos live
    have counted := sampleCounted_field (c := c) hw f x.1
    rw [run, closureCompare_runs pass fresh granted runs inForce (x := x) rfl]
    cases excess : x.2
    · rw [if_neg Bool.false_ne_true]
      refine ⟨_, rfl, ?_, fun _ => closeSample_closure f 1 x.1, nofun⟩
      rw [State.field, closeSample_regs f 1 x.1 _ _ (by decide) rfl]
      exact counted
    · rw [if_pos rfl]
      refine ⟨_, rfl, ?_, nofun, fun _ => by rw [modArray_array_self]⟩
      exact (excessReported_field (sampleCounted_wf hw f x.1)).trans counted
  · intro inExcess
    have run (r1 r2 r3 : Bool) : exec (.repeatResult c a r1 r2 r3) s = .next (repeatResult c a r1 r2 r3 s) := if_pos live
    refine ⟨fun r2 r3 => ⟨_, run true r2 r3, ?_⟩, fun r3 => ⟨_, run false false r3, ?_⟩⟩
    · simp only [repeatResult, pass, inExcess, noPark, Bool.not_true, Bool.or_self, Bool.false_eq_true, if_false, if_true]
      exact closeSample_closure f 2 k.err
    · simp only [repeatResult, pass, inExcess, noPark, Bool.not_true, Bool.or_self, Bool.false_eq_true, if_false, Bool.false_and]
      exact fenceChannel_role _ c true _ nofun

end Sys2Proof.Machine
end

section
/-! SUPPORT. Aborts, stream control, the ramp control word, the hub's ports and loans (R118, R119, R191, R307, R309). -/
namespace Sys2Proof.Machine

/-! ## Loops -/

/-- What one step of a loop establishes and every step keeps holds at the end. -/
theorem each_establishes {α : Type} {Q : State → Prop} {f : α → State → State} {x : α} (est : ∀ t, Q (f x t))
    (keep : ∀ y t, Q t → Q (f y t)) {l : List α} (hx : x ∈ l) (s : State) : Q (s.each l f) := by
  have kept (l : List α) : ∀ s, Q s → Q (s.each l f) := by
    induction l with
    | nil => exact fun _ h => h
    | cons y l ih => exact fun s h => ih _ (keep y s h)
  induction l generalizing s with
  | nil => cases hx
  | cons y l ih =>
    rcases List.mem_cons.mp hx with rfl | hx
    · exact kept l _ (est s)
    · exact ih hx _

/-! ## Aborts (R118) -/

/-- No descriptor in flight on the channel has the number. -/
def Gone (c : Fin 9) (no : Nat) (t : State) : Prop := ∀ g ∈ (t.chan c).fly, g.no ≠ no

section
variable {c : Fin 9} {s t : State}

theorem Gone.shrinks {no : Nat} (gone : Gone c no s) (h : FlyShrinks c s t) : Gone c no t := fun g hg same => by
  obtain ⟨f, hf, no', -⟩ := h g hg
  exact gone f hf (no'.trans same)

theorem dropFly_gone (s : State) (c : Fin 9) (no : Nat) : Gone c no (s.dropFly c no) := fun g hg => by
  rw [State.dropFly, State.modChan_chan_self] at hg
  simpa using (List.mem_filter.mp hg).2

theorem endFly_gone (s : State) (c : Fin 9) (f : Fly) (status flags : H16) (detail : W32) : Gone c f.no (endFly c f status flags detail s) := by
  have W := flyShrinks_work c
  unfold endFly
  extract_lets presented granted late hubUnit
  generalize (if f.granted && !f.done && status ≠ stCompleted
    then cutDrain c (writeReq c f.unit f.no) f.effs late else (0, late)) = cut
  exact Gone.shrinks (dropFly_gone _ c f.no) (W.finishDesc (W.refl _))

theorem Work.withGaps_after {R : State → State → Prop} (F : Work R) (k : State → State) : R (k s) (Machine.withGaps c k s) := by
  refine F.each _ (fun a _ t ht => ?_) (F.refl (k s))
  split
  · exact ht
  · exact F.openGap ht

theorem abortFly_gone (s : State) (c : Fin 9) (f : Fly) : Gone c f.no (abortFly c f s) := by
  have W := flyShrinks_work c
  have ended (t : State) : Gone c f.no (goOn c f.unit (sweep (endFly c f stAborted 0 0 t))) :=
    (endFly_gone t c f stAborted 0 0).shrinks (W.goOn (W.sweep (W.refl _)))
  unfold abortFly
  refine Gone.shrinks ?_ (W.withGaps_after _)
  exact ended _

/-- No descriptor that is not committed keeps an identifier that is aborted. -/
theorem abortId_committed (c : Fin 9) (ident : W32) (s : State) :
    ∀ g ∈ ((abortId c ident s).chan c).fly, dId g.desc = ident → g.committed = true := by
  intro g hg hid
  have W := flyShrinks_work c
  unfold abortId at hg
  extract_lets hit mark ch matched marked late ended at hg
  split at hg
  · next none =>
    have kept : ((cause (cpage c .seq) 16 s).chan c).fly = (s.chan c).fly :=
      congrArg (fun chans : Vector Chan 9 => chans[c.val].fly) (reporting_chans.cause (reporting_chans.refl s))
    rw [kept] at hg
    have other : ((s.chan c).fly.any fun f => hit f.desc) = false := by
      simp only [matched, Bool.not_eq_true', Bool.or_eq_false_iff] at none
      exact none.1
    exact absurd (decide_eq_true hid) (by simpa [hit] using List.any_eq_false.mp other g hg)
  · have hmarked : FlyShrinks c s marked := by
      refine W.each _ (fun st _ t ht => ?_) (W.refl s)
      have hqueued : FlyShrinks c s (t.modStream c st fun x =>
          { x with queue := x.queue.map mark, fetch := x.fetch.map fun f => { f with buf := f.buf.map mark } }) := W.modStream ht
      dsimp only
      split
      · split
        · exact hqueued
        · split
          · exact W.modStream hqueued
          · exact W.dropFetch hqueued
      · exact hqueued
    have hlate : FlyShrinks c s late := W.modFlies hmarked fun f => by split <;> exact ⟨rfl, rfl, id⟩
    have step (f : Fly) (t : State) : FlyShrinks c t (if alive t c f.no = true then abortFly c f t else t) := by
      split
      · exact W.abortFly (W.refl t)
      · exact W.refl t
    have hended : FlyShrinks c late ended := W.each _ (fun f _ t ht => W.trans ht (step f t)) (W.refl late)
    have hsettled : FlyShrinks c ended (settle c ended) := W.settle (W.refl ended)
    obtain ⟨f, hf, no, desc, committed⟩ := W.trans hlate (W.trans hended hsettled) g hg
    by_contra open'
    have listed : f ∈ ch.fly.filter fun f => hit f.desc && !f.committed := by
      refine List.mem_filter.mpr ⟨hf, ?_⟩
      have uncommitted : f.committed = false := Bool.eq_false_iff.mpr fun h => open' (committed h)
      simp [hit, desc, hid, uncommitted]
    have gone : Gone c f.no ended := by
      refine each_establishes (fun t => ?_) (fun y t ht => ht.shrinks (step y t)) listed late
      split
      · exact abortFly_gone t c f
      · next dead => exact fun h hh same => dead (List.any_eq_true.mpr ⟨h, hh, decide_eq_true same⟩)
    exact gone.shrinks hsettled g hg no.symm

end

/-! ## Flushes (R119) -/

/-- The descriptors in flight and a stream stand. -/
def StreamStands (c : Fin 9) (st : Fin 4) (s t : State) : Prop := (t.chan c).fly = (s.chan c).fly ∧ (t.chan c).stream st = (s.chan c).stream st

/-- Descriptors that finish in other streams leave a stream as it is. -/
theorem streamStands_finishing (c : Fin 9) (st : Fin 4) : Finishing (fun d x => ¬(d = c ∧ x = st)) (StreamStands c st) where
  refl _ := ⟨rfl, rfl⟩
  trans h k := ⟨k.1.trans h.1, k.2.trans h.2⟩
  icp _ _ := ⟨rfl, rfl⟩
  book _ _ := ⟨rfl, rfl⟩
  records _ _ _ := ⟨rfl, rfl⟩
  sent _ _ := ⟨rfl, rfl⟩
  hdrs _ _ := ⟨rfl, rfl⟩
  rejected _ _ _ := ⟨rfl, rfl⟩
  stream s d x f other := by
    unfold StreamStands State.modStream
    rw [State.modChan_chan]
    split
    · next e =>
      refine ⟨by rw [e], ?_⟩
      have apart : x.val ≠ st.val := fun same => other ⟨e.symm, Fin.ext same⟩
      rw [Chan.stream, Vector.getElem_set_ne _ _ apart, e]
      rfl
    · exact ⟨rfl, rfl⟩
  finished s d f hf := by
    unfold StreamStands
    rw [State.modChan_chan]
    split
    · next e => subst e; exact ⟨(hf _).fly, by rw [Chan.stream, (hf _).streams]; rfl⟩
    · exact ⟨rfl, rfl⟩

section
variable {c : Fin 9} {st : Fin 4} {s t : State}

theorem modStream_stream_self (s : State) (c : Fin 9) (st : Fin 4) (f : Stream → Stream) :
    ((s.modStream c st f).chan c).stream st = f ((s.chan c).stream st) := by
  simp [State.modStream, Chan.stream]

theorem modStream_fly (s : State) (c : Fin 9) (st : Fin 4) (f : Stream → Stream) : ((s.modStream c st f).chan c).fly = (s.chan c).fly := by
  simp [State.modStream]

theorem dropFetch_stands (f : Fetch) (detail : W32) :
    StreamStands c st (s.modStream c st fun x => { x with fetch := none }) (dropFetch c st f stFlushed detail s) := by
  have F := streamStands_finishing c st
  exact F.each _ (fun _ _ _ ht => F.finishQueued ht nofun) (F.when (fun _ ht => F.finishDesc ht nofun) (F.refl _))

/-- A flush leaves its stream as after a reset. -/
theorem flushStream_self (c : Fin 9) (st : Fin 4) (s : State) :
    ((flushStream c st s).chan c).stream st = .reset ∧ ((flushStream c st s).chan c).fly = (s.chan c).fly := by
  have F := streamStands_finishing c st
  unfold flushStream
  extract_lets x emptied dropped
  have hdropped : (dropped.chan c).stream st = .reset ∧ (dropped.chan c).fly = (s.chan c).fly := by
    unfold dropped
    split
    · next f _ =>
      obtain ⟨fly, stream⟩ := dropFetch_stands (c := c) (st := st) (s := emptied) f (w32 f.issued)
      exact ⟨stream.trans (by rw [modStream_stream_self, modStream_stream_self]; rfl), fly.trans (by rw [modStream_fly, modStream_fly])⟩
    · exact ⟨modStream_stream_self s c st _, modStream_fly s c st _⟩
  obtain ⟨fly, stream⟩ : StreamStands c st dropped (dropped.each x.queue fun q => finishQueued c q.bytes st false stFlushed 0) :=
    F.each _ (fun _ _ _ ht => F.finishQueued ht nofun) (F.refl dropped)
  exact ⟨stream.trans hdropped.1, fly.trans hdropped.2⟩

theorem Finishing.flushStream {P : Fin 9 → Fin 4 → Prop} {R : State → State → Prop} (F : Finishing P R) {r : State} (h : R r s) (hP : P c st) :
    R r (flushStream c st s) := by
  unfold Machine.flushStream
  refine F.each _ (fun _ _ _ ht => F.finishQueued ht fun _ => hP) ?_
  split
  · exact F.dropFetch (F.modStream h hP) hP
  · exact F.modStream h hP

/-- What a write of STREAM_CTL does to one stream. -/
def streamStep (c : Fin 9) (resume flush : Nat) (st : Fin 4) (s : State) : State :=
  if bitAt flush st.val then flushStream c st s
  else if bitAt resume st.val then s.modStream c st fun x => { x with halted := false } else s

theorem streamCtl_eq (c : Fin 9) (resume flush : Nat) (s : State) :
    streamCtl c resume flush s = settle c (s.each allStreams (streamStep c resume flush)) := rfl

theorem Finishing.streamStep {P : Fin 9 → Fin 4 → Prop} {R : State → State → Prop} (F : Finishing P R) {r : State} (h : R r s) (hP : P c st)
    (resume flush : Nat) : R r (streamStep c resume flush st s) := by
  unfold Machine.streamStep
  split
  · exact F.flushStream h hP
  · split
    · exact F.modStream h hP
    · exact h

/-- In a loop over the streams each takes its own step, and those of the others leave it as it is. -/
theorem stream_of_each (step : Fin 4 → State → State) (st : Fin 4)
    (other : ∀ x t u, x ≠ st → StreamStands c st t u → StreamStands c st t (step x u)) (s : State) : ∃ t, StreamStands c st s t ∧ StreamStands c st (step st t) (s.each allStreams step) := by
  have F := streamStands_finishing c st
  have others {l : List (Fin 4)} (hl : st ∉ l) (u : State) : StreamStands c st u (u.each l step) :=
    F.each _ (fun x hx t ht => other x u t (fun same => hl (same ▸ hx)) ht) (F.refl u)
  obtain ⟨before, after, split⟩ := List.append_of_mem (List.mem_finRange st)
  have once : (before ++ st :: after).Nodup := split ▸ List.nodup_finRange 4
  obtain ⟨-, tail, apart⟩ := List.nodup_append.mp once
  have hbefore : st ∉ before := fun h => apart st h st List.mem_cons_self rfl
  have hafter : st ∉ after := (List.nodup_cons.mp tail).1
  refine ⟨s.each before step, others hbefore s, ?_⟩
  have run : s.each allStreams step = (step st (s.each before step)).each after step := by
    rw [allStreams, split, State.each, List.foldl_append]
    rfl
  rw [run]
  exact others hafter _

theorem stream_of_steps (c : Fin 9) (resume flush : Nat) (st : Fin 4) (s : State) : ∃ t, StreamStands c st s t ∧
    StreamStands c st (streamStep c resume flush st t) (s.each allStreams (streamStep c resume flush)) :=
  stream_of_each _ st (fun _ _ _ apart h => (streamStands_finishing c st).streamStep h (fun both => apart both.2) resume flush) s

theorem streamCtl_fly (c : Fin 9) (resume flush : Nat) (s : State) : ((streamCtl c resume flush s).chan c).fly = (s.chan c).fly := by
  have F := rampsStand_finishing c
  have steps : RampsStand c s (s.each allStreams (streamStep c resume flush)) := F.each _ (fun _ _ _ ht => F.streamStep ht trivial _ _) (F.refl s)
  exact (settle_ramps c _).1.trans steps.1

theorem settleStream_reset (n : Nat) (h : (s.chan c).stream st = .reset) : settleStream c st n s = s := by
  cases n with
  | zero => rfl
  | succ n =>
    unfold settleStream
    dsimp only
    rw [h]
    rfl

/-- A stream as after a reset stays so while the others go on. -/
theorem settle_reset (h : (s.chan c).stream st = .reset) : ((settle c s).chan c).stream st = .reset := by
  have F := streamStands_finishing c st
  have kept : StreamStands c st s (settle c s) := F.settle (F.refl s) fun x t ht => by
    by_cases same : x = st
    · rw [same, settleStream_reset _ (ht.2.trans h)]
      exact ht
    · exact F.settleStream ht _ fun both => same both.2
  exact kept.2.trans h

theorem streamCtl_flushed (resume : Nat) {flush : Nat} (h : bitAt flush st.val = true) :
    ((streamCtl c resume flush s).chan c).stream st = .reset := by
  obtain ⟨t, -, steps⟩ := stream_of_steps c resume flush st s
  have flushed : ((streamStep c resume flush st t).chan c).stream st = .reset := by
    rw [streamStep, if_pos h]
    exact (flushStream_self c st t).1
  exact settle_reset (steps.2.trans flushed)

/-- A channel with no stream to settle stands. -/
theorem settle_of_streams (h : ∀ st, settleStream c st 320 s = s) : settle c s = s := by
  have all (l : List (Fin 4)) : s.each l (fun st s => settleStream c st 320 s) = s := by
    induction l with
    | nil => rfl
    | cons st l ih =>
      rw [State.each, List.foldl_cons, h st]
      exact ih
  unfold settle
  split
  · exact all _
  · rfl

/-- A channel whose streams hold nothing has nothing to settle. -/
theorem settle_empty (h : ∀ st : Fin 4, ((s.chan c).stream st).queue = [] ∧ ((s.chan c).stream st).fetch = none) : settle c s = s := by
  refine settle_of_streams fun st => ?_
  obtain ⟨queue, fetch⟩ := h st
  have nothing : headOf st ((s.chan c).stream st) = none := by
    simp only [headOf, fetch, queue, List.head?_nil, Option.map_none]
  unfold settleStream
  simp only [nothing, ite_self]

theorem streamStep_resume (resume : Nat) (s : State) : ((streamStep c resume 0 st s).chan c).stream st =
    { (s.chan c).stream st with halted := ((s.chan c).stream st).halted && !bitAt resume st.val } := by
  have noFlush : bitAt 0 st.val = false := by simp [bitAt]
  rw [streamStep, noFlush, if_neg Bool.false_ne_true]
  cases named : bitAt resume st.val
  · simp
  · simp only [if_true, modStream_stream_self, Bool.not_true, Bool.and_false]

/-- A resume of streams that hold nothing releases those it names. -/
theorem streamCtl_resumed (resume : Nat) (h : ∀ st : Fin 4, ((s.chan c).stream st).queue = [] ∧ ((s.chan c).stream st).fetch = none) (st : Fin 4) :
    (((streamCtl c resume 0 s).chan c).stream st).halted = (((s.chan c).stream st).halted && !bitAt resume st.val) := by
  have stream (st : Fin 4) : ((s.each allStreams (streamStep c resume 0)).chan c).stream st =
      { (s.chan c).stream st with halted := ((s.chan c).stream st).halted && !bitAt resume st.val } := by
    obtain ⟨t, before, after⟩ := stream_of_steps c resume 0 st s
    rw [after.2, streamStep_resume, before.2]
  rw [streamCtl_eq, settle_empty fun x => by rw [stream x]; exact h x, stream]

end

/-! ## The ramp control word (R191) -/

section
variable {c : Fin 9} {s : State}

theorem bit_one_set (w : W32) (on : Bool) : let x := w32 (w.toNat - bitsOf w.toNat 1 1 * 2 ^ 1 + (if on then 1 else 0) % 2 ^ (1 + 1 - 1) * 2 ^ 1)
    bitAt x.toNat 1 = on ∧ bitAt x.toNat 0 = bitAt w.toNat 0 := by
  have := w.isLt
  cases on <;> simp only [bitAt, bitsOf, w32, BitVec.toNat_ofNat, decide_eq_decide, decide_eq_true_eq, decide_eq_false_iff_not, if_true,
    Bool.false_eq_true, if_false] <;> omega

theorem bit_zero_set (w : W32) (on : Bool) : let x := w32 (w.toNat - bitsOf w.toNat 0 0 * 2 ^ 0 + (if on then 1 else 0) % 2 ^ (0 + 1 - 0) * 2 ^ 0)
    bitAt x.toNat 0 = on ∧ bitAt x.toNat 1 = bitAt w.toNat 1 := by
  have := w.isLt
  cases on <;> simp only [bitAt, bitsOf, w32, BitVec.toNat_ofNat, decide_eq_decide, decide_eq_true_eq, decide_eq_false_iff_not, if_true,
    Bool.false_eq_true, if_false] <;> omega

theorem Work.parkChanged {R : State → State → Prop} (F : Work R) {r : State} (h : R r s) {on : Bool} : R r (parkChanged c on s) := by
  refine F.each _ (fun a _ t ht => ?_) h
  split
  · split
    · exact ht
    · exact F.rampDown ht
  · exact F.holdUp (F.goOn ht)

theorem holdSet_of_stands {t : State} (h : RegsStand s t) : holdSet t c = holdSet s c := congrArg (fun w : W32 => bitAt w.toNat 1) (h _ _ (by decide) rfl)

theorem parkSet_of_stands {t : State} (h : RegsStand s t) : parkSet t c = parkSet s c := congrArg (fun w : W32 => bitAt w.toNat 0) (h _ _ (by decide) rfl)

theorem setPark_bits (hw : s.wf) (on : Bool) : parkSet (setPark c on s) c = on ∧ holdSet (setPark c on s) c = holdSet s c := by
  have W := regsStand_work
  unfold setPark
  split
  · next same => exact ⟨same, rfl⟩
  · have changed : RegsStand (s.setField (cpage c .cpwr) 0x104 0 0 (if on then 1 else 0)) (parkChanged c on _) := W.parkChanged (W.refl _)
    rw [parkSet_of_stands changed, holdSet_of_stands changed, parkSet, holdSet, State.setField, State.setReg_reg_self hw]
    exact bit_zero_set _ on

/-- The word with its HOLD bit written and its PARK bit set or cleared. -/
def ctrlWritten (c : Fin 9) (v : W32) (s : State) : State :=
  setPark c (bitAt v.toNat 0) (s.setField (cpage c .cpwr) 0x104 1 1 (if bitAt v.toNat 1 then 1 else 0))

theorem rampCtrlWrite_stands (v : W32) : RegsStand (ctrlWritten c v s) (rampCtrlWrite c v s) := by
  have W := regsStand_work
  refine W.each _ (fun a _ t ht => ?_) (W.refl _)
  dsimp only
  split
  · exact W.rampDown ht
  · exact W.holdUp ht

theorem rampCtrlWrite_bits (hw : s.wf) (v : W32) :
    parkSet (rampCtrlWrite c v s) c = bitAt v.toNat 0 ∧ holdSet (rampCtrlWrite c v s) c = bitAt v.toNat 1 := by
  have held : (s.setField (cpage c .cpwr) 0x104 1 1 (if bitAt v.toNat 1 then 1 else 0)).wf := ((Keeps.refl s).setField _ _ _ _ _).wf hw
  obtain ⟨park, hold⟩ := setPark_bits (c := c) held (bitAt v.toNat 0)
  rw [parkSet_of_stands (rampCtrlWrite_stands v), holdSet_of_stands (rampCtrlWrite_stands v)]
  refine ⟨park, hold.trans ?_⟩
  rw [holdSet, State.setField, State.setReg_reg_self hw]
  exact (bit_one_set _ _).1

end

/-! ## The hub's ports and loans (R307, R309) -/

section
variable {s : State}

/-- Moves that a disabled port ends leave the register that disabled it. -/
theorem portEnWrite_reg (hw : s.wf) (v : W32) : (portEnWrite v s).reg (gpage .hub) 0x100 = v &&& 0x3FF := by
  have W := regsStand_work
  have ended : RegsStand (s.setReg (gpage .hub) 0x100 (v &&& 0x3FF)) (portEnWrite v s) := by
    refine W.each _ (fun c _ t ht => W.each _ (fun f _ u hu => ?_) ht) (W.refl _)
    split
    · exact hu
    · split
      · exact W.endMove (W.bump hu)
      · exact W.endMove hu
  rw [ended _ _ (by decide) rfl, State.setReg_reg_self hw]

/-- The loans stand. -/
def LoansStand (s t : State) : Prop := t.hub.loans = s.hub.loans

theorem loansStand_work : Work LoansStand where
  refl _ := rfl
  trans h k := Eq.trans k h
  icp _ _ := rfl
  book _ _ := rfl
  records _ _ _ := rfl
  sent _ _ := rfl
  hdrs _ _ := rfl
  hub s _ hf := hf s.hub
  supv _ _ _ := rfl
  draws _ _ := rfl
  counted _ _ _ _ _ := rfl
  chan _ _ _ _ := rfl

/-- A loan that is asked back. -/
def markRecalled (p : Nat → Loan → Bool) (l : Nat × Loan) : Nat × Loan :=
  if !l.2.recalled && p l.1 l.2 then (l.1, { l.2 with recalled := true }) else l

/-- A recall marks the loans it asks back, ends their use, and raises the hub's cause at the end. -/
theorem recallLoans_ends (hw : s.wf) {p : Nat → Loan → Bool} (some : ∃ l ∈ s.hub.loans, l.2.recalled = false ∧ p l.1 l.2 = true) :
    ∃ t : State, t.wf ∧ t.hub.loans = s.hub.loans.map (markRecalled p) ∧ recallLoans p s = cause (gpage .hub) 17 t := by
  have W := loansStand_work
  unfold recallLoans
  extract_lets hit marked onLoan ended freed planes reported
  have any : hit.isEmpty = false := by
    obtain ⟨l, hl, active, asked⟩ := some
    rw [List.isEmpty_eq_false_iff_exists_mem]
    exact ⟨l, List.mem_filter.mpr ⟨hl, by simp [active, asked]⟩⟩
  rw [any, if_neg Bool.false_ne_true]
  refine ⟨reported, ?_, ?_, rfl⟩
  · have keeps : Keeps s reported := by
      refine Keeps.each (Keeps.when (Keeps.each ((Keeps.refl s).modHub _) _ fun c t ht => ?_) _ fun t ht => ?_) _ fun k t ht => ?_
      · exact keeps_sweep (keeps_endFlies ht _ _ _ _)
      · exact Keeps.each ht _ fun c u hu => keeps_setRole hu _ _ _
      · exact keeps_eventNoNote ht _ _ _ _ _ _
    exact keeps.wf hw
  · have kept : LoansStand marked reported := by
      refine W.each _ (fun k _ t ht => W.eventNoNote ht) (W.when (fun t ht => ?_) (W.each _ (fun c _ t ht => W.sweep (W.endFlies ht)) (W.refl marked)))
      exact W.each _ (fun c _ u hu => W.setRole hu (W.trans hu rfl)) ht
    exact kept

theorem mem_markRecalled {p : Nat → Loan → Bool} {loans : List (Nat × Loan)} {l : Nat × Loan} (hl : l ∈ loans.map (markRecalled p))
    (asked : ∀ x, p l.1 x = true) : l.2.recalled = true := by
  obtain ⟨x, -, rfl⟩ := List.mem_map.mp hl
  unfold markRecalled at asked ⊢
  split
  · rfl
  · next no =>
    rw [if_neg no] at asked
    simpa [asked] using no

/-- The word of a RECALL command. -/
def recallWord (id : Byte) : W32 := w32 (2 ^ 31 + id.toNat * 2 ^ 23)

theorem recallWord_fields (id : Byte) : bitAt (recallWord id).toNat 31 = true ∧ bitsOf (recallWord id).toNat 30 23 = id.toNat := by
  have := id.isLt
  simp only [recallWord, bitAt, bitsOf, w32, BitVec.toNat_ofNat, decide_eq_true_eq]
  omega

theorem recallWrite_word (id : Byte) : recallWrite (recallWord id) s =
    if s.hub.loans.any fun l => l.1 = id.toNat && !l.2.recalled then recallLoans (fun k _ => k = id.toNat) s else cfgRefused (gpage .hub) s := by
  obtain ⟨go, number⟩ := recallWord_fields id
  simp only [recallWrite, go, number, Bool.not_true, Bool.false_eq_true, if_false]

end

theorem streamWord_fields : ∀ mask : BitVec 4,
    (bitsOf (w32 (mask.toNat * 2 ^ 12)).toNat 11 8 = 0 ∧ bitsOf (w32 (mask.toNat * 2 ^ 12)).toNat 15 12 = mask.toNat) ∧
      bitsOf (w32 (mask.toNat * 2 ^ 8)).toNat 11 8 = mask.toNat ∧ bitsOf (w32 (mask.toNat * 2 ^ 8)).toNat 15 12 = 0 := by
  decide

theorem parkWord_fields : ∀ on held : Bool,
    bitAt (w32 (boolBit on 0 + boolBit held 1)).toNat 0 = on ∧ bitAt (w32 (boolBit on 0 + boolBit held 1)).toNat 1 = held := by
  decide

section
variable {s : State} {c : Fin 9}

theorem execAbort_eq (up : s.takes (cpage c .seq)) (ident : W32) : exec (.abort c ident) s = .next ((abortId c ident s).answered rsOk 0) := by
  have run : exec (.abort c ident) s = writeCmd .icp (regAddr (cpage c .seq) 0x100) ident s := rfl
  rw [run, writeCmd_icp up rfl rfl]
  rfl

theorem seqWrite_streamCtl (v : W32) : writeSpecific .icp (cpage c .seq) 0x104 v s = streamCtl c (bitsOf v.toNat 11 8) (bitsOf v.toNat 15 12) s := rfl

theorem execFlush_eq (up : s.takes (cpage c .seq)) (mask : BitVec 4) : exec (.flush c mask) s = .next ((streamCtl c 0 mask.toNat s).answered rsOk 0) := by
  have run : exec (.flush c mask) s = writeCmd .icp (regAddr (cpage c .seq) 0x104) (w32 (mask.toNat * 2 ^ 12)) s := rfl
  obtain ⟨⟨resume, flush⟩, -⟩ := streamWord_fields mask
  rw [run, writeCmd_icp up rfl rfl, seqWrite_streamCtl, resume, flush]

theorem execResume_eq (up : s.takes (cpage c .seq)) (mask : BitVec 4) :
    exec (.resume c mask) s = .next ((streamCtl c mask.toNat 0 s).answered rsOk 0) := by
  have run : exec (.resume c mask) s = writeCmd .icp (regAddr (cpage c .seq) 0x104) (w32 (mask.toNat * 2 ^ 8)) s := rfl
  obtain ⟨-, resume, flush⟩ := streamWord_fields mask
  rw [run, writeCmd_icp up rfl rfl, seqWrite_streamCtl, resume, flush]

theorem execPark_eq (up : s.takes (cpage c .cpwr)) (on : Bool) :
    exec (.park c on) s = .next ((rampCtrlWrite c (w32 (boolBit on 0 + boolBit (holdSet s c) 1)) s).answered rsOk 0) := by
  have run : exec (.park c on) s = writeCmd .icp (regAddr (cpage c .cpwr) 0x104) (w32 (boolBit on 0 + boolBit (holdSet s c) 1)) s := rfl
  rw [run, writeCmd_icp up rfl rfl]
  rfl

theorem execPortEnWrite_eq (up : s.takes (gpage .hub)) (v : W32) : exec (.portEnWrite v) s = .next ((portEnWrite v s).answered rsOk 0) := by
  have run : exec (.portEnWrite v) s = writeCmd .icp (regAddr (gpage .hub) 0x100) v s := rfl
  rw [run, writeCmd_icp up rfl rfl]
  rfl

theorem execRecall_eq (up : s.takes (gpage .hub)) (id : Byte) : exec (.recall id) s = .next ((recallWrite (recallWord id) s).answered rsOk 0) := by
  have run : exec (.recall id) s = writeCmd .icp (regAddr (gpage .hub) 0x104) (w32 (2 ^ 31 + id.toNat * 2 ^ 23)) s := rfl
  have write (v : W32) : writeSpecific .icp (gpage .hub) 0x104 v s = recallWrite v s := rfl
  rw [run, writeCmd_icp up rfl rfl, write, recallWord]

/-- A recall of an active loan marks it, and raises the hub's cause (R307). -/
theorem execRecall_active (hw : s.wf) (up : s.takes (gpage .hub)) {id : Byte} {l : Nat × Loan} (hl : l ∈ s.hub.loans) (hid : l.1 = id.toNat)
    (active : l.2.recalled = false) : ∃ t, exec (.recall id) s = .next t ∧ (t.hdr (gpage .hub)).errStat.getLsbD 17 = true ∧
      ∀ l ∈ t.hub.loans, l.1 = id.toNat → l.2.recalled = true := by
  have any : (s.hub.loans.any fun l => l.1 = id.toNat && !l.2.recalled) = true := List.any_eq_true.mpr ⟨l, hl, by simp [hid, active]⟩
  obtain ⟨t, wf, loans, ends⟩ := recallLoans_ends (p := fun k _ => decide (k = id.toNat)) hw ⟨l, hl, active, decide_eq_true hid⟩
  have kept : LoansStand t (cause (gpage .hub) 17 t) := loansStand_work.cause (loansStand_work.refl t)
  have hdr : (cause (gpage .hub) 17 t).hdr (gpage .hub) = (t.hdr (gpage .hub)).withCause 17 t.now := causeAt_hdr_self wf (gpage .hub) 17 false noDetail
  refine ⟨(cause (gpage .hub) 17 t).answered rsOk 0, ?_, ?_, fun x hx same => ?_⟩
  · rw [execRecall_eq up, recallWrite_word, any, if_pos rfl, ends]
  · rw [State.answered_hdr, hdr]
    exact withCause_errStat_self _ (by decide)
  · rw [State.answered_hub, kept, loans] at hx
    exact mem_markRecalled hx fun _ => decide_eq_true same

theorem execRecall_idle (up : s.takes (gpage .hub)) {id : Byte} (idle : ∀ l ∈ s.hub.loans, l.1 = id.toNat → l.2.recalled = true) :
    exec (.recall id) s = .next ((cfgRefused (gpage .hub) s).answered rsOk 0) := by
  have none : (s.hub.loans.any fun l => l.1 = id.toNat && !l.2.recalled) = false :=
    List.any_eq_false.mpr fun l hl => by
      by_cases same : l.1 = id.toNat
      · simp [idle l hl same]
      · simp [same]
  rw [execRecall_eq up, recallWrite_word, none, if_neg Bool.false_ne_true]

/-- An abort that finds no descriptor raises its cause alone (R118). -/
theorem abortId_miss {ident : W32} (fly : ∀ f ∈ (s.chan c).fly, dId f.desc ≠ ident)
    (streams : ∀ st : Fin 4, (∀ q ∈ ((s.chan c).stream st).queue, dId q.bytes ≠ ident) ∧
      (∀ f, ((s.chan c).stream st).fetch = some f → dId f.desc ≠ ident ∧ ∀ q ∈ f.buf, dId q.bytes ≠ ident)) :
    abortId c ident s = cause (cpage c .seq) 16 s := by
  unfold abortId
  extract_lets hit mark ch matched
  have none : matched = false := by
    refine Bool.or_eq_false_iff.mpr ⟨List.any_eq_false.mpr fun f hf => by simp [hit, fly f hf], List.any_eq_false.mpr fun st _ => ?_⟩
    obtain ⟨queue, fetch⟩ := streams st
    have queued : (ch.stream st).queue.any (fun q => hit q.bytes) = false := List.any_eq_false.mpr fun q hq => by simp [hit, queue q hq]
    dsimp only
    rw [queued, Bool.false_or]
    split
    · next f hf =>
      obtain ⟨own, buffered⟩ := fetch f hf
      have none : f.buf.any (fun q => hit q.bytes) = false := List.any_eq_false.mpr fun q hq => by simp [hit, buffered q hq]
      simp [hit, own, none]
    · exact Bool.false_ne_true
  rw [none]
  rfl

end

/-- Settles O45: each command is one write, and what follows it changes nothing that the write has set. -/
theorem channelControlCommands : Obligations.ChannelControlCommands := by
  intro s ⟨hw, _⟩
  refine ⟨fun c up => ⟨fun ident => ⟨fun fly streams => ?_, ?_⟩, fun mask => ⟨?_, fun empty => ?_⟩⟩, fun c up on => ?_,
    fun up => ⟨fun v => ?_, fun id => ⟨?_, ?_⟩⟩⟩
  · rw [execAbort_eq up, abortId_miss fly streams]
  · exact ⟨_, execAbort_eq up ident, abortId_committed c ident s⟩
  · exact ⟨_, execFlush_eq up mask, streamCtl_fly c _ _ s, fun st hst => streamCtl_flushed 0 (by rw [bitAt_toNat]; exact hst)⟩
  · refine ⟨_, execResume_eq up mask, streamCtl_fly c _ _ s, fun st => ?_⟩
    rw [← bitAt_toNat]
    exact streamCtl_resumed mask.toNat empty st
  · obtain ⟨park, hold⟩ := parkWord_fields on (holdSet s c)
    obtain ⟨parked, held⟩ := rampCtrlWrite_bits (c := c) hw (w32 (boolBit on 0 + boolBit (holdSet s c) 1))
    exact ⟨_, execPark_eq up on, parked.trans park, held.trans hold⟩
  · exact ⟨_, execPortEnWrite_eq up v, by rw [State.answered_reg, portEnWrite_reg hw]⟩
  · intro ⟨l, hl, hid, active⟩
    exact execRecall_active hw up hl hid active
  · exact execRecall_idle up

end Sys2Proof.Machine
end

section
/-! SUPPORT. What a host's request meets on its way (R39 to R55), and what the accepted one does (R61 to R78, R309, R472). -/
namespace Sys2Proof.Machine

/-! ## What the arrival of a request leaves -/

/-- The channels, the hub's ports and the headers of the pages other than ICP's stand. -/
structure Received (s t : State) : Prop where
  chans : t.chans = s.chans
  ports : t.reg (gpage .hub) 0x100 = s.reg (gpage .hub) 0x100
  hdr : ∀ q : Page, q.key ≠ (gpage .icp).key → t.hdr q = s.hdr q

namespace Received

variable {s t : State}

theorem refl (s : State) : Received s s := ⟨rfl, rfl, fun _ _ => rfl⟩

theorem chan (h : Received s t) (c : Fin 9) : t.chan c = s.chan c := congrArg (fun chans : Vector Chan 9 => chans[c.val]) h.chans

/-- Another register of a host page. -/
theorem setReg (h : Received s t) {p : Page} {off : Nat} (apart : (gpage .hub).base + 0x100 ≠ p.base + off) (v : W32) : Received s (t.setReg p off v) :=
  ⟨h.chans, (State.setReg_reg_ne apart v).trans h.ports, h.hdr⟩

theorem modHdr (h : Received s t) (f : Hdr → Hdr) : Received s (t.modHdr (gpage .icp) f) :=
  ⟨h.chans, h.ports, fun q hq => (State.modHdr_hdr_ne hq f).trans (h.hdr q hq)⟩

theorem causeAt (h : Received s t) (n : Nat) (inj : Bool) (detail : List Byte) : Received s (causeAt (gpage .icp) n inj detail t) := by
  obtain ⟨regs, chans, -⟩ := reporting_parts.causeAt (p := gpage .icp) (n := n) (inj := inj) (detail := detail) (reporting_parts.refl t)
  exact ⟨chans.trans h.chans, (congrArg (fun r => spGet regDefault r ((gpage .hub).base + 0x100)) regs).trans h.ports,
    fun q hq => (causeAt_hdr_ne _ n inj detail hq).trans (h.hdr q hq)⟩

theorem transientEvent (h : Received s t) (inj : Bool) : Received s (transientEvent (gpage .icp) inj t) := by
  obtain ⟨chans, ports, hdr⟩ := (h.modHdr fun x => { x with retryCnt := w32 (satAdd 0xFFFFFFFF x.retryCnt.toNat 1) }).causeAt 1 inj noDetail
  exact ⟨chans, ports, hdr⟩

theorem sendPfc (h : Received s t) (k : Fin 2) (quanta : H16) : Received s (sendPfc k quanta t) := by
  unfold Machine.sendPfc
  split
  · have sent : Received s { t with sent := t.sent ++ [.pfc (BitVec.ofNat 3 (classPri t k)) quanta] } := ⟨h.chans, h.ports, h.hdr⟩
    exact sent.setReg (p := gpage .hmac) (off := 0x128) (by decide) _
  · exact h

theorem modIcp (h : Received s t) (f : IcpS → IcpS) : Received s (t.modIcp f) := ⟨h.chans, h.ports, h.hdr⟩

theorem observeIngress (h : Received s t) (k : Fin 2) (occ : Nat) : Received s (observeIngress k occ t) := by
  unfold Machine.observeIngress
  dsimp only
  split
  · exact h.modIcp _
  · split
    · exact (modIcp (h.modIcp _) _).sendPfc k 0xFFFF
    · split
      · exact (modIcp (h.modIcp _) _).sendPfc k 0
      · exact h.modIcp _

theorem retried (h : Received s t) : Received s (let (inj, s) := takeInjection (gpage .icp) commonCover t
    injectedIf inj.isSome (gpage .icp) (Machine.transientEvent (gpage .icp) inj.isSome s)) := by
  have taken : Received s (takeInjection (gpage .icp) commonCover t).2 := by
    unfold takeInjection
    split
    · split
      · exact modHdr h fun x => { x with errInject := x.errInject &&& 0x1F }
      · exact h
    · exact h
  generalize takeInjection (gpage .icp) commonCover t = inj at taken
  obtain ⟨inj, u⟩ := inj
  have told : Received s (Machine.transientEvent (gpage .icp) inj.isSome u) := transientEvent taken _
  cases inj with
  | none => exact told
  | some n => exact causeAt told 3 true noDetail

theorem enterWindow (h : Received s t) (f : HostFrame) : Received s (enterWindow f t) := by
  unfold Machine.enterWindow
  extract_lets p entered counted sourced marked
  have hcounted : Received s counted := by
    unfold counted
    split
    · split
      · exact h.modIcp _
      · exact (h.modIcp _).setReg (by decide) _
    · exact h.modIcp _
  have hmarked : Received s marked := ((hcounted.setReg (by decide) _).setReg (by decide) _).modIcp _
  split
  · exact hmarked.retried
  · exact hmarked

theorem fenced (h : Received s t) {p : Page} (hp : p.key ≠ (gpage .icp).key) : t.fenced p = s.fenced p := by
  simp only [State.fenced, State.chanFenced, h.hdr p hp, h.chan]

theorem hostPath (h : Received s t) (c : Fin 9) : hostPath t c = hostPath s c := by
  simp only [Machine.hostPath, portOn, hostPortOn, h.ports]

theorem stackFenced (h : Received s t) (c : Fin 9) (i : Fin 2) : stackFenced t c i = stackFenced s c i :=
  h.fenced fun same => by cases (blk_of_key same : Blk.hbm = Blk.icp)

end Received

/-- The window does not move when a frame's place in the ingress buffer is observed. -/
theorem observeIngress_window (k : Fin 2) (occ : Nat) (s : State) :
    (observeIngress k occ s).icp.rxSeqHigh = s.icp.rxSeqHigh ∧ (observeIngress k occ s).icp.marks = s.icp.marks := by
  have sent (k : Fin 2) (quanta : H16) (t : State) : (sendPfc k quanta t).icp = t.icp := by
    unfold sendPfc
    split <;> rfl
  unfold observeIngress
  dsimp only
  split
  · exact ⟨rfl, rfl⟩
  · split
    · rw [sent]
      exact ⟨rfl, rfl⟩
    · split
      · rw [sent]
        exact ⟨rfl, rfl⟩
      · exact ⟨rfl, rfl⟩

theorem classify_observed (k : Fin 2) (occ : Nat) (s : State) (q : W32) : classify (observeIngress k occ s).icp q = classify s.icp q := by
  obtain ⟨high, marks⟩ := observeIngress_window k occ s
  simp only [classify, high, marks]

/-! ## Accepted requests -/

section
variable {f : HostFrame} {s : State} {c : Fin 9}

/-- The state in which an accepted request is executed. -/
def entered (k : Fin 2) (f : HostFrame) (s : State) : State := enterWindow f (observeIngress k (ingressWith f) s)

theorem entered_received (k : Fin 2) (f : HostFrame) (s : State) : Received s (entered k f s) :=
  ((Received.refl s).observeIngress k _).enterWindow f

/-- The response of an accepted request, kept for its duplicates unless the request reset ICP (R52, R78). -/
def keptFor (k : Fin 2) (f : HostFrame) (s : State) (x : TxFrame × State) : State :=
  if x.2.epochOf (gpage .icp) = (observeIngress k (ingressWith f) s).epochOf (gpage .icp) then keepResponse f.seq x.1 x.2 else x.2

/-- A request that arrives, is numbered anew or unmarked in the window, and is refused by no check, is entered and executed. -/
theorem request_accepted (single : f.bcast = false) (noProbe : frProbe f = false) (new : classify s.icp f.seq = .fresh ∨ classify s.icp f.seq = .inside)
    {typ : Nat} {k : Fin 2} {own : Option Nak} (ok : refusal typ k f own = none) (act : Act) :
    request typ k f own act s = keptFor k f s (act (entered k f s)) := by
  have numbered : request typ k f own act s = numbered k f none act (observeIngress k (ingressWith f) s) := by
    simp only [request, arrival, single, noProbe, ok, Bool.false_and, Bool.false_eq_true, if_false, classify_observed]
    rcases new with h | h <;> rw [h]
  rw [numbered]
  rfl

theorem onLink_live (live : linkLive s = true) (g : State → State) : onLink g s = .next (g s) := if_pos live

/-- Whichever leaves first, the status sent is the one kept. -/
theorem answerFirst_response (r : TxFrame) (before after : State) : (answerFirst r before after).1 = r := by
  unfold answerFirst answer
  dsimp only
  split <;> rfl

theorem noBlock_entered (h : ∀ i : Fin 2, stackFenced s c i = false) (k : Fin 2) (write : Bool) (l : List Span) :
    accessBlocked (entered k f s) c write l = false := by
  have none : ((List.finRange 2).any fun i => stackFenced (entered k f s) c i) = false := by
    simp only [(entered_received k f s).stackFenced, h, List.any_eq_false, Bool.false_eq_true, not_false_eq_true, implies_true]
  rw [accessBlocked, none, Bool.false_and]

/-! ## Writes and reads of memory (R63, R64, R309) -/

theorem memWriteAct_disabled (zone : zoneChan f = some c) (path : hostPath s c = false) :
    memWriteAct f s = answer (ackFrame f 1 rsReset) (hostReset s) := by
  simp only [memWriteAct, zone, path, Bool.not_false, if_true]

theorem memWriteAct_cut (zone : zoneChan f = some c) (path : hostPath s c = true) {n : Nat} (cut : f.cut = some n) :
    memWriteAct f s = answer (ackFrame f 1 rsReset) (writeMem c hubReq (f.addr.toNat % 2 ^ 40) ((body f).take n) (hostReset s)) := by
  simp only [memWriteAct, zone, path, cut, Bool.not_true, Bool.false_eq_true, if_false]

theorem memWriteAct_stored (zone : zoneChan f = some c) (path : hostPath s c = true) (whole : f.cut = none)
    (free : accessBlocked s c true [(f.addr.toNat % 2 ^ 40, (body f).length)] = false) :
    memWriteAct f s = answer (ackFrame f 1 rsOk) (countGet c f.tag (f.addr.toNat % 2 ^ 40) (body f).length
      (deliverReplies c (drainPort c 14 (writeMem c hubReq (f.addr.toNat % 2 ^ 40) (body f) s)))) := by
  simp only [memWriteAct, zone, path, whole, free, Bool.not_true, Bool.false_eq_true, if_false]

/-- Nothing stops a read that no port and no stack blocks. -/
theorem readStop_none (path : hostPath s c = true) (whole : f.cut = none) {l : List Span} (free : ∀ x ∈ l, accessBlocked s c false [x] = false) :
    readStop s c f none l = none := by
  have blocked : l.findIdx? (fun x => accessBlocked s c false [x]) = none := List.findIdx?_eq_none_iff.mpr free
  simp only [readStop, path, whole, blocked, Bool.not_true, Bool.false_eq_true, if_false, Option.bind_none, List.foldl_cons, List.foldl_nil]

theorem memReadAct_whole (zone : zoneChan f = some c) {l : List Span} (hl : readFrames (f.addr.toNat % 2 ^ 40) (readLen f) = l)
    (free : readStop s c f none l = none) :
    memReadAct f none s = (nakFrame f 1 rsSequence 0, (readSpans c hubReq maxTransaction l s).each
      (l.zipIdx.map fun e => dataFrame f l.length e.2 (memRds (s.chan c).mem e.1.1 e.1.2)) transmit) := by
  have frames : (l.zipIdx.map fun e => dataFrame f l.length e.2 (memRds (s.chan c).mem e.1.1 e.1.2)).length = l.length := by simp
  subst hl
  simp only [memReadAct, zone, free]
  rw [List.take_length, List.take_of_length_le frames.le]

/-! ## Batches (R66) -/

/-- The descriptors of a batch stand at the end of their streams. -/
def queueBatch (c : Fin 9) (ds : List (List Byte)) (s : State) : State := s.each allStreams fun st s =>
  s.modStream c st fun x => { x with queue := x.queue ++ (ds.filter fun d => dStream d = st).map fun d => ⟨d, false⟩ }

theorem queueBatch_stream (c : Fin 9) (ds : List (List Byte)) (s : State) (st : Fin 4) : ((queueBatch c ds s).chan c).stream st =
    { (s.chan c).stream st with queue := ((s.chan c).stream st).queue ++ (ds.filter fun d => dStream d = st).map fun d => ⟨d, false⟩ } := by
  obtain ⟨t, before, after⟩ := stream_of_each (c := c) (fun st s => s.modStream c st fun x =>
    { x with queue := x.queue ++ (ds.filter fun d => dStream d = st).map fun d => ⟨d, false⟩ }) st
    (fun x _ _ apart h => (streamStands_finishing c st).modStream h fun both => apart both.2) s
  rw [queueBatch, after.2, modStream_stream_self, before.2]

theorem batchAct_queued (zone : zoneChan f = some c) (path : hostPath s c = true) :
    batchAct f s = (ackFrame f 1 rsOk, settle c (transmit (ackFrame f 1 rsOk) (queueBatch c (descsOf (body f)) s))) := by
  simp only [batchAct, zone, path, Bool.not_true, Bool.false_eq_true, if_false]
  rfl

/-- Streams that are all halted have nothing to settle. -/
theorem settle_halted (h : ∀ st : Fin 4, ((s.chan c).stream st).halted = true) : settle c s = s := by
  refine settle_of_streams fun st => ?_
  unfold settleStream
  simp only [h st, if_true]

end

/-- Frames that are transmitted leave the channels. -/
theorem transmit_chans (r : TxFrame) (s : State) : (transmit r s).chans = s.chans := by
  unfold transmit
  split
  · rfl
  · split
    · rfl
    · exact reporting_chans.putFrame (reporting_chans.refl s)

theorem keepResponse_chans (q : W32) (r : TxFrame) (s : State) : (keepResponse q r s).chans = s.chans := State.modIcp_chans s _

theorem keptFor_chans (k : Fin 2) (f : HostFrame) (s : State) (x : TxFrame × State) : (keptFor k f s x).chans = x.2.chans := by
  unfold keptFor
  split
  · exact keepResponse_chans f.seq x.1 x.2
  · rfl

/-- An accepted batch whose streams are all halted waits at their ends. -/
theorem batchAct_halted {f : HostFrame} {s t : State} {c : Fin 9} (hs : Received s t) (zone : zoneChan f = some c) (path : hostPath s c = true)
    (halted : ∀ st : Fin 4, ((s.chan c).stream st).halted = true) (st : Fin 4) : (((batchAct f t).2.chan c).stream st).queue =
      ((s.chan c).stream st).queue ++ ((descsOf (body f)).filter fun d => dStream d = st).map fun d => ⟨d, false⟩ := by
  have stream (st : Fin 4) : ((transmit (ackFrame f 1 rsOk) (queueBatch c (descsOf (body f)) t)).chan c).stream st =
      { (s.chan c).stream st with
        queue := ((s.chan c).stream st).queue ++ ((descsOf (body f)).filter fun d => dStream d = st).map fun d => ⟨d, false⟩ } := by
    rw [State.chan, transmit_chans, ← State.chan, queueBatch_stream, hs.chan]
  rw [batchAct_queued zone ((hs.hostPath c).trans path), settle_halted fun st => by rw [stream]; exact halted st, stream]

/-- A report that is ready is sent and counted (R472). -/
theorem execReportReady_eq {s : State} {q : AttestReq} (h : s.icp.attestReq = some q) : exec .reportReady s =
    .next ((reportFrames q (reportBytes s q.nonce)).foldl (fun u r => transmit r u)
      ((s.modIcp fun i => { i with attestReq := none, attestCache := some (q.seq, reportFrames q (reportBytes s q.nonce)) }).modSec
        fun x => { x with reports := satAdd 0xFFFF x.reports 1 })) := by
  have run : exec .reportReady s = execReportReady s := rfl
  rw [run, execReportReady, h]
  rfl

/-- Settles O55: an accepted request is entered and executed, and its arrival leaves what the execution reads. -/
theorem hostRequestsAccepted : Obligations.HostRequestsAccepted := by
  intro f s live single noProbe new
  have accepted {typ : Nat} {k : Fin 2} {own : Option Nak} (ok : refusal typ k f own = none) (act : Act) :
      onLink (fun s => request typ k f own act s) s = .next (keptFor k f s (act (entered k f s))) := by
    rw [onLink_live live, request_accepted single noProbe new ok]
  have received (k : Fin 2) := entered_received k f s
  refine ⟨fun ok => ?_, fun ok => ?_, fun c zone => ⟨fun ok => ⟨fun off => ?_, fun n path cut => ?_, fun path whole inForce => ?_⟩,
    fun ok path whole inForce => ?_, fun ok path => ?_, fun ok => ?_⟩, fun ok => ?_⟩
  · exact accepted ok _
  · have run : exec (.regWrite f) s = .next (keptFor 0 f s (answerFirst (response f 3 0
      (writeBurst (burstAddrs f (regCount true f)) (body f) f.cut (entered 0 f s)).1 []) (entered 0 f s)
        (writeBurst (burstAddrs f (regCount true f)) (body f) f.cut (entered 0 f s)).2)) := accepted ok _
    rw [run, keptFor, answerFirst_response]
    rfl
  · have run : exec (.memWrite f) s = .next (keptFor 1 f s (memWriteAct f (entered 1 f s))) := accepted ok _
    rw [run, memWriteAct_disabled zone (((received 1).hostPath c).trans off)]
    rfl
  · have run : exec (.memWrite f) s = .next (keptFor 1 f s (memWriteAct f (entered 1 f s))) := accepted ok _
    rw [run, memWriteAct_cut zone (((received 1).hostPath c).trans path) cut]
    rfl
  · have run : exec (.memWrite f) s = .next (keptFor 1 f s (memWriteAct f (entered 1 f s))) := accepted ok _
    rw [run, memWriteAct_stored zone (((received 1).hostPath c).trans path) whole (noBlock_entered inForce 1 true _)]
    rfl
  · have run : exec (.memRead f none) s = .next (keptFor 1 f s (memReadAct f none (entered 1 f s))) := accepted ok _
    rw [run, memReadAct_whole zone rfl (readStop_none (((received 1).hostPath c).trans path) whole fun _ _ => noBlock_entered inForce 1 false _),
      (received 1).chan]
    rfl
  · have run : exec (.batch f) s = .next (keptFor 1 f s (batchAct f (entered 1 f s))) := accepted ok _
    refine ⟨_, run, fun halted st => ?_⟩
    rw [State.chan, keptFor_chans, ← State.chan]
    exact batchAct_halted (received 1) zone path halted st
  · have run : exec (.routePlan f) s = .next (keptFor 0 f s (match zoneChan f with
      | none => answer (ackFrame f 0 rsOk) (entered 0 f s)
      | some c => answer (ackFrame f 0 rsOk) (planFrame c (frFirst f) (f.addr.toNat % 2 ^ 32) (body f) (entered 0 f s)).2)) := accepted ok _
    rw [run, zone]
    rfl
  · have run : exec (.attest f) s = .next (keptFor 0 f s (nakFrame f 0 rsSequence 0,
      (entered 0 f s).modIcp fun i => { i with attestReq := some ⟨f.seq, body f, f.src, f.tag⟩ })) := accepted ok _
    have asked : (keptFor 0 f s (nakFrame f 0 rsSequence 0, (entered 0 f s).modIcp fun i =>
        { i with attestReq := some ⟨f.seq, body f, f.src, f.tag⟩ })).icp.attestReq = some ⟨f.seq, body f, f.src, f.tag⟩ := by
      unfold keptFor
      split <;> rfl
    exact ⟨_, run, asked, execReportReady_eq asked⟩

end Sys2Proof.Machine
end

section
/-! SUPPORT. Flits and the messages that bring a link up (R349 to R353). -/
namespace Sys2Proof.Machine

/-! ## What stands of a port -/

section
variable {c : Fin 9} {p : Fin 6} {r s : State}

theorem modPort_port_self (s : State) (c : Fin 9) (p : Fin 6) (f : Port → Port) : (s.modPort c p f).port c p = f (s.port c p) := by
  simp [State.modPort, State.port]

/-- The standing parts of a port stand. -/
def PortStands (c : Fin 9) (p : Fin 6) (s t : State) : Prop := (t.port c p).standing = (s.port c p).standing

/-- What reads the standing parts alone reads the same. -/
theorem PortStands.read (h : PortStands c p r s) {α : Type} (f : Port → α) (hf : ∀ q : Port, f q.standing = f q := by exact fun _ => rfl) :
    f (s.port c p) = f (r.port c p) :=
  (hf _).symm.trans ((congrArg f h).trans (hf _))

theorem portStands_sending (c : Fin 9) (p : Fin 6) : Sending (PortStands c p) where
  trans h k := Eq.trans k h
  sent s d f hf := by
    unfold PortStands State.port
    rw [State.modChan_chan]
    split
    · next e => subst e; exact (hf _).ports p
    · rfl

theorem portStands_work (c : Fin 9) (p : Fin 6) : Work (PortStands c p) where
  refl _ := rfl
  trans h k := Eq.trans k h
  icp _ _ := rfl
  book _ _ := rfl
  records _ _ _ := rfl
  sent _ _ := rfl
  hdrs _ _ := rfl
  hub _ _ _ := rfl
  supv _ _ _ := rfl
  draws _ _ := rfl
  counted _ _ _ _ _ := rfl
  chan s d f hf := by
    unfold PortStands State.port
    rw [State.modChan_chan]
    split
    · next e => subst e; exact congrArg (fun v : Vector Port 6 => v[p.val].standing) (hf _).ports
    · rfl

theorem mem_sending (c : Fin 9) : Sending (MemStands c) where
  trans h k := Eq.trans k h
  sent s d f hf := by
    unfold MemStands
    rw [State.modChan_chan]
    split
    · next e => subst e; exact (hf _).mem
    · rfl

/-- The page headers stand. -/
def HdrsStand (s t : State) : Prop := t.hdrs = s.hdrs

theorem hdrs_sending : Sending HdrsStand where
  trans h k := Eq.trans k h
  sent _ _ _ _ := rfl

/-! ## Sending -/

theorem Sending.sendLinkMsg {R : State → State → Prop} (F : Sending R) (h : R r s) {code : Byte} {body : List Byte} :
    R r (sendLinkMsg c p code body s) :=
  F.modPort h

theorem Sending.startLinkMsg {R : State → State → Prop} (F : Sending R) (h : R r s) {code : Byte} {body : List Byte} {left : Option Nat} :
    R r (startLinkMsg c p code body left s) := by
  unfold Machine.startLinkMsg
  exact F.modPort (F.sendLinkMsg h)

theorem foldl_standing {f : Port → Nat → Port} (hf : ∀ q i, (f q i).standing = q.standing) (l : List Nat) (q : Port) :
    (l.foldl f q).standing = q.standing := by
  induction l generalizing q with
  | nil => rfl
  | cons i l ih => exact (ih _).trans (hf q i)

theorem idleFlit_standing (i n : Nat) (q : Port) : (idleFlit i n q).standing = q.standing := rfl

/-- The IDLE flits that tell a peer what is new. -/
theorem Sending.sendIdle {R : State → State → Prop} (F : Sending R) (h : R r s) : R r (sendIdle c p s) := by
  unfold Machine.sendIdle
  split
  · exact h
  · refine F.modPort h fun q => ?_
    extract_lets told
    have kept : told.standing = q.standing := foldl_standing (fun q i => by
      dsimp only
      split
      · rfl
      · exact idleFlit_standing i _ q) _ q
    split
    · exact kept
    · exact (idleFlit_standing 0 0 told).trans kept

theorem Sending.envelope {R : State → State → Prop} (F : Sending R) (h : R r s) {b : List Byte} : R r (envelope c p b s) := by
  unfold Machine.envelope
  exact F.pumpPort (F.modPort h) _

theorem Sending.abandonFlits {R : State → State → Prop} (F : Sending R) (h : R r s) : R r (abandonFlits c s) := by
  unfold Machine.abandonFlits
  refine F.modChan h fun x => ⟨rfl, rfl, fun o => ?_⟩
  rw [Vector.getElem_map]
  rfl

/-! ## Faults of a port (R353) -/

theorem PortStands.startCopy (h : PortStands c p r s) (n : Nat) : PortStands c p r (startCopy c n s) := by
  have S := portStands_sending c p
  have W := portStands_work c p
  induction n generalizing s with
  | zero => exact h
  | succ n ih =>
    unfold Machine.startCopy
    dsimp only
    split
    · split
      · exact ih (W.modPlat h)
      · split
        · exact S.platMsg (W.modPlat (W.modPlat h))
        · exact ih (W.copyFail (W.modPlat (W.modPlat h)))
    · exact h

theorem PortStands.partnerLost (h : PortStands c p r s) {o : Fin 6} : PortStands c p r (partnerLost c o s) := by
  have W := portStands_work c p
  unfold Machine.partnerLost
  split
  · split
    · exact W.endMove (W.modPlat h)
    · exact h
  · exact h

theorem PortStands.endPath {k : State → State} (h : PortStands c p r (k s)) {o : Fin 6} : PortStands c p r (endPath c o k s) := by
  have S := portStands_sending c p
  have W := portStands_work c p
  unfold Machine.endPath
  extract_lets out copying dropped copied
  have hdropped : PortStands c p r dropped := W.modPlat h
  refine PortStands.partnerLost (PortStands.startCopy ?_ 3)
  split
  · exact W.copyFail (S.abandonFlits hdropped)
  · exact hdropped

/-- A port at fault is fenced. -/
theorem portFault_fenced (s : State) (c : Fin 9) (p : Fin 6) (inj : Bool) : ((portFault c p inj s).port c p).state = .fenced := by
  have W := portStands_work c p
  have lasting : ((lastingFence (travPage c p) inj none noDetail s).port c p).state = .fenced := by
    unfold lastingFence
    extract_lets told drained d released ramped down ended
    have isChan : (travPage c p).blk.isChan = true := rfl
    rw [isChan, if_pos rfl]
    refine (PortStands.read (r := down) ?_ Port.state).trans ?_
    · exact W.when (fun _ ht => W.withGaps ht fun _ hu => W.stackEnds hu)
        (W.each _ (fun u _ _ ht => W.withGaps ht fun _ hu => W.endUnit hu) (W.refl down))
    · have placed : down = (portDown c p stFault ramped).modPort c p fun q => { q with state := .fenced } := rfl
      rw [placed, modPort_port_self]
  have ended : PortStands c p (lastingFence (travPage c p) inj none noDetail s) (portFault c p inj s) := W.injectedIf (PortStands.endPath (W.refl _))
  exact (ended.read Port.state).trans lasting

end

/-! ## Received flits (R352, R353) -/

section
variable {c : Fin 9} {p : Fin 6} {s t : State} {b : List Byte}

theorem flitInjected_of_hdrs (h : HdrsStand s t) : flitInjected t c p = flitInjected s c p := by
  have hdr : t.hdr (travPage c p) = s.hdr (travPage c p) := congrArg (fun l => spGet hdrDefault l (travPage c p).key) h
  simp only [flitInjected, armed, hdr]

theorem envelope_stands (b : List Byte) : PortStands c p s (envelope c p b s) := (portStands_sending c p).envelope rfl

/-- A data flit that passes its CRC, its envelope taken. -/
theorem flitReceive_data (active : (s.port c p).state = .active) (locked : (s.port c p).lockLost = false) (crc : flitCrcOk b = true)
    (data : (flitOf b).kind ≠ 2 ∧ (flitOf b).kind ≠ 3) : flitReceive c p b s = sendIdle c p (dataFlit c p b (envelope c p b s)) := by
  simp [flitReceive, active, locked, crc, data]

theorem dataFlit_behind (away : (flitOf b).seq ≠ (t.port c p).rxSeq + 1) : dataFlit c p b t = t.when (t.port c p).nakking (flitBehind c p) :=
  if_pos away

theorem dataFlit_accepted (next : (flitOf b).seq = (t.port c p).rxSeq + 1) (unarmed : flitInjected t c p = none) :
    dataFlit c p b t = flitAccept c p (flitOf b) t := by
  simp only [dataFlit, next, unarmed, ne_eq, not_true_eq_false, if_false]

theorem flitReceive_bad (active : (s.port c p).state = .active) (locked : (s.port c p).lockLost = false) (crc : flitCrcOk b = false)
    (data : (flitOf b).kind ≠ 2 ∧ (flitOf b).kind ≠ 3) : flitReceive c p b s = sendIdle c p (flitFailed c p b false s) := by
  simp [flitReceive, active, locked, crc, data]

/-- The port after a flit that fails first: it asks for a replay. -/
def nakAsked (c : Fin 9) (p : Fin 6) (s : State) : State :=
  s.modPort c p fun q => { q with nakking := true, nakLock := false, retryLeft := 1, retryInj := false }

theorem flitFailed_first (noNak : (s.port c p).nakking = false) (noRetry : (s.port c p).retryLeft = 0) :
    flitFailed c p b false s = startLinkMsg c p 0x04 (toLE 2 ((s.port c p).rxSeq + 1).toNat) none (nakAsked c p s) := by
  simp [flitFailed, noNak, noRetry, nakAsked]

theorem flitFailed_again (again : ((s.port c p).nakking = true ∧ BitVec.ofNat 12 (fld b 8 4) = (s.port c p).rxSeq + 1) ∨
    ((s.port c p).nakking = false ∧ (s.port c p).retryLeft ≠ 0)) : flitFailed c p b false s = portFault c p false s := by
  rcases again with ⟨nak, awaited⟩ | ⟨nak, left⟩
  · simp [flitFailed, nak, awaited]
  · simp [flitFailed, nak, Nat.pos_of_ne_zero left]

theorem sendIdle_fenced (h : (s.port c p).state = .fenced) : sendIdle c p s = s := by
  unfold sendIdle
  rw [if_pos (by rw [h]; decide)]

/-! ## Bring-up (R349, R350) -/

theorem identReceived_other {m : IdentMsg} (hw : s.wf) (training : (s.port c p).state = .training) (plane : s.planeOf c ≠ some m.plane) :
    ((identReceived c p m s).hdr (travPage c p)).errStat.getLsbD 20 = true ∧ PortStands c p s (identReceived c p m s) := by
  have marked : (s.setField (travPage c p) 0x100 3 3 1).wf := ((Keeps.refl s).setField _ _ _ _ _).wf hw
  have refused : identReceived c p m s = cause (travPage c p) 20 (s.setField (travPage c p) 0x100 3 3 1) := by
    simp [identReceived, training, plane]
  have hdr := causeAt_hdr_self marked (travPage c p) 20 false noDetail
  rw [refused]
  have W := portStands_work c p
  refine ⟨?_, W.cause (W.setField (W.refl s))⟩
  exact (congrArg (fun h : Hdr => h.errStat.getLsbD 20) hdr).trans (withCause_errStat_self _ (by decide))

/-- The port's registers and state once an IDENT is taken. -/
def identTaken (c : Fin 9) (p : Fin 6) (m : IdentMsg) (s : State) : State :=
  let pg := travPage c p
  let s := ((s.setField pg 0x100 3 3 0).setField pg 0x100 5 5 0).setReg pg 0x104 (w32 (m.station.toNat + m.chan.toNat * 2 ^ 16 + m.epoch.toNat * 2 ^ 20))
  (s.setReg pg 0x108 (w32 (m.feedTag.toNat % 65536 + boolBit (m.feedTag.getLsbD 31) 16))).modPort c p
    fun q => { q with peer := some (m.station, m.chan, m.epoch), identOk := true }

theorem identReceived_taken {m : IdentMsg} (training : (s.port c p).state = .training) (plane : s.planeOf c = some m.plane)
    (station : m.station.toNat ≠ ownStation s c) (fresh : (s.port c p).peer = none) : identReceived c p m s =
      startLinkMsg c p 0x02 ((freeCredits (identTaken c p m s) c p).flatMap (toLE 2)) none (identTaken c p m s) := by
  have same : ((s.setField (travPage c p) 0x100 3 3 0).setField (travPage c p) 0x100 5 5 0).port c p = s.port c p := rfl
  simp only [identReceived, training, plane, station, same, fresh, ne_eq, not_true_eq_false, if_false]
  rfl

theorem startLinkMsg_reg (s : State) (code : Byte) (body : List Byte) (left : Option Nat) (q : Page) (o : Nat) :
    (startLinkMsg c p code body left s).reg q o = s.reg q o := by
  rw [startLinkMsg, State.modPort_reg, sendLinkMsg, State.modPort_reg]

theorem identTaken_reg (hw : s.wf) (m : IdentMsg) :
    (identTaken c p m s).reg (travPage c p) 0x104 = w32 (m.station.toNat + m.chan.toNat * 2 ^ 16 + m.epoch.toNat * 2 ^ 20) := by
  have marked : ((s.setField (travPage c p) 0x100 3 3 0).setField (travPage c p) 0x100 5 5 0).wf :=
    (((Keeps.refl s).setField _ _ _ _ _).setField _ _ _ _ _).wf hw
  have apart : (travPage c p).base + 0x104 ≠ (travPage c p).base + 0x108 := by omega
  rw [identTaken, State.modPort_reg, State.setReg_reg_ne apart, State.setReg_reg_self marked]

/-- The port of a link that comes up. -/
def linkUp (credits : List Nat) (q : Port) : Port :=
  let zeros : List H16 := List.replicate 8 0
  let used := fun (i : Nat) => (q.replay.filter fun t => slotIx t.flit.lane t.flit.cls = i).length
  { (stopLinkMsg 0x01 q) with
    state := .active, failures := 0
    credits := (List.range 8).map fun i => credits.getD i 0 - used i
    creditSeen := zeros, creditRet := zeros, creditTold := zeros, creditSent := zeros, creditMore := false
    nakking := false, nakLock := false, replayedOnce := false, retryLeft := 0, retryInj := false
    line := q.line ++ q.replay.map fun t => flitBytes t.flit q.rxSeq 0 0 }

/-- The link's event, and the transient event of one whose training failed once. -/
def linkReported (c : Fin 9) (p : Fin 6) (q : Port) (s : State) : State :=
  (eventNoNote 0x0100 0 (2 + c.val) 12 p.val false s).when (q.failures = 1)
    fun s => injectedIf q.retryInj (travPage c p) (transientEvent (travPage c p) q.retryInj s)

theorem creditInit_eq {l : List Nat} (training : (s.port c p).state = .training) (ident : (s.port c p).identOk = true) :
    ∃ n, creditInit c p l s = pumpPort c p n (linkReported c p (s.port c p) (s.modPort c p (linkUp l))) := by
  unfold creditInit
  rw [if_neg (by simp [training, ident])]
  exact ⟨_, rfl⟩

theorem linkReported_stands (q : Port) : PortStands c p s (linkReported c p q s) := by
  have W := portStands_work c p
  exact W.when (fun _ ht => W.injectedIf (W.transientEvent ht)) (W.eventNoNote rfl)

/-- CREDIT_INIT after an IDENT makes the link ACTIVE. -/
theorem creditInit_up {l : List Nat} (training : (s.port c p).state = .training) (ident : (s.port c p).identOk = true) :
    ((creditInit c p l s).port c p).state = .active ∧ ((creditInit c p l s).port c p).failures = 0 := by
  obtain ⟨n, up⟩ := creditInit_eq (l := l) training ident
  have stands : PortStands c p (s.modPort c p (linkUp l)) (creditInit c p l s) := by
    rw [up]
    exact (portStands_sending c p).pumpPort (linkReported_stands _) n
  have brought : (s.modPort c p (linkUp l)).port c p = linkUp l (s.port c p) := modPort_port_self s c p _
  exact ⟨(stands.read Port.state).trans (by rw [brought]; rfl), (stands.read Port.failures).trans (by rw [brought]; rfl)⟩

theorem creditInit_ignored {l : List Nat} (none : (s.port c p).identOk = false) : creditInit c p l s = s := by
  simp [creditInit, none]

/-! ## Credits (R351) -/

/-- What a port gains at one slot from the totals of a CREDIT message. -/
def creditStep (totals : List H16) (q : Port) (i : Nat) : Port :=
  let d := (totals.getD i (q.creditSeen.getD i 0) - q.creditSeen.getD i 0).toNat
  if d < 32768 then gainCredits i d q else q

/-- What a slot gains in all. -/
def creditGain (totals : List H16) (q : Port) (i : Nat) : Nat :=
  let d := (totals.getD i (q.creditSeen.getD i 0) - q.creditSeen.getD i 0).toNat
  if d < 32768 then d else 0

theorem creditStep_self {totals : List H16} {q : Port} {i : Nat} (hi : i < q.credits.length) :
    (creditStep totals q i).credits.getD i 0 = q.credits.getD i 0 + creditGain totals q i := by
  unfold creditStep creditGain
  dsimp only
  split
  · simp [gainCredits, List.getD, hi]
  · rfl

/-- A step at one slot leaves the others. -/
theorem creditStep_other (totals : List H16) (q : Port) {i j : Nat} (h : i ≠ j) :
    (creditStep totals q i).credits.getD j 0 = q.credits.getD j 0 ∧ (creditStep totals q i).creditSeen.getD j 0 = q.creditSeen.getD j 0 := by
  unfold creditStep
  dsimp only
  split
  · simp [gainCredits, addAt16, List.getD, h]
  · exact ⟨rfl, rfl⟩

theorem creditStep_same (totals : List H16) (q : Port) (i : Nat) :
    (creditStep totals q i).credits.length = q.credits.length ∧ (creditStep totals q i).txq = q.txq := by
  unfold creditStep
  dsimp only
  split
  · simp [gainCredits]
  · exact ⟨rfl, rfl⟩

/-- The steps before a slot leave it as it is, and those up to it and past it give it its gain once. -/
theorem creditSteps (totals : List H16) (q : Port) (n : Nat) : let r := (List.range n).foldl (creditStep totals) q
    r.credits.length = q.credits.length ∧ r.txq = q.txq ∧
      (∀ i, n ≤ i → r.credits.getD i 0 = q.credits.getD i 0 ∧ r.creditSeen.getD i 0 = q.creditSeen.getD i 0) ∧
      ∀ i < n, i < q.credits.length → r.credits.getD i 0 = q.credits.getD i 0 + creditGain totals q i := by
  induction n with
  | zero => exact ⟨rfl, rfl, fun _ _ => ⟨rfl, rfl⟩, fun _ hi => absurd hi (Nat.not_lt_zero _)⟩
  | succ n ih =>
    obtain ⟨length, txq, later, earlier⟩ := ih
    rw [List.range_succ, List.foldl_append, List.foldl_cons, List.foldl_nil]
    generalize (List.range n).foldl (creditStep totals) q = r at length txq later earlier
    obtain ⟨length', txq'⟩ := creditStep_same totals r n
    refine ⟨length'.trans length, txq'.trans txq, fun i hi => ?_, fun i hi hl => ?_⟩
    · obtain ⟨credits, seen⟩ := creditStep_other totals r (show n ≠ i by omega)
      obtain ⟨credits', seen'⟩ := later i (by omega)
      exact ⟨credits.trans credits', seen.trans seen'⟩
    · rcases Nat.lt_succ_iff_lt_or_eq.mp hi with before | rfl
      · rw [(creditStep_other totals r (show n ≠ i by omega)).1]
        exact earlier i before hl
      · obtain ⟨credits, seen⟩ := later i le_rfl
        rw [creditStep_self (by rw [length]; exact hl), credits, creditGain, creditGain, seen]

/-- With nothing waiting to be sent, CREDIT gives each slot its gain (R351). -/
theorem creditTotals_gain {totals : List H16} (active : (s.port c p).state = .active) (idle : (s.port c p).txq = []) {i : Nat} (hi : i < 8)
    (slots : (s.port c p).credits.length = 8) :
    ((creditTotals c p totals s).port c p).credits.getD i 0 = (s.port c p).credits.getD i 0 + creditGain totals (s.port c p) i := by
  obtain ⟨-, txq, -, gained⟩ := creditSteps totals (stopLinkMsg 0x02 (s.port c p)) 8
  have taken : creditTotals c p totals s = s.modPort c p fun q => (List.range 8).foldl (creditStep totals) (stopLinkMsg 0x02 q) := by
    have none : ((s.modPort c p fun q => (List.range 8).foldl (creditStep totals) (stopLinkMsg 0x02 q)).port c p).txq.length = 0 := by
      rw [modPort_port_self, txq]
      exact List.length_eq_zero_iff.mpr idle
    unfold creditTotals
    rw [if_neg (by simp [active])]
    exact congrArg (fun n => pumpPort c p n (s.modPort c p fun q => (List.range 8).foldl (creditStep totals) (stopLinkMsg 0x02 q))) none
  rw [taken, modPort_port_self]
  exact gained i hi (lt_of_lt_of_eq hi slots.symm)

/-! ## Replays (R353) -/

theorem nakReceived_again {n : BitVec 12} (once : (s.port c p).replayedOnce = true) : nakReceived c p n s = s := by
  simp [nakReceived, once]

theorem nakReceived_port {n : BitVec 12} (active : (s.port c p).state = .active) (first : (s.port c p).replayedOnce = false) :
    ((nakReceived c p n s).port c p).replay = (s.port c p).replay ∧ ((nakReceived c p n s).port c p).line = (s.port c p).line ++
      ((s.port c p).replay.filter fun x => lseqLe n x.flit.seq).map fun x => flitBytes x.flit (s.port c p).rxSeq 0 0 := by
  unfold nakReceived
  simp only [active, first, ne_eq, not_true_eq_false, decide_false, Bool.or_self, Bool.false_eq_true, if_false, modPort_port_self]
  exact ⟨trivial, trivial⟩

theorem onTrav_live (live : travLive s c = true) (g : State → State) : onTrav c g s = .next (g s) := if_pos live

end

section
variable {c : Fin 9} {p : Fin 6} {s : State} {b : List Byte}

/-- What an ACTIVE port does with a data flit that passes its CRC (R352, R353). -/
theorem execFlitReceive_good (live : travLive s c = true) (active : (s.port c p).state = .active) (locked : (s.port c p).lockLost = false)
    (crc : flitCrcOk b = true) (data : (flitOf b).kind ≠ 2 ∧ (flitOf b).kind ≠ 3) (unarmed : flitInjected s c p = none) :
    ((flitOf b).seq ≠ (s.port c p).rxSeq + 1 → exec (.flitReceive c p b) s = .next (sendIdle c p
      ((envelope c p b s).when ((envelope c p b s).port c p).nakking (flitBehind c p)))) ∧
    ((flitOf b).seq = (s.port c p).rxSeq + 1 →
      exec (.flitReceive c p b) s = .next (sendIdle c p (flitAccept c p (flitOf b) (envelope c p b s)))) := by
  have run : exec (.flitReceive c p b) s = .next (flitReceive c p b s) := onTrav_live live _
  have order := (envelope_stands (c := c) (p := p) (s := s) b).read Port.rxSeq
  have injected : flitInjected (envelope c p b s) c p = none := (flitInjected_of_hdrs (hdrs_sending.envelope rfl)).trans unarmed
  rw [run, flitReceive_data active locked crc data]
  refine ⟨fun away => ?_, fun next => ?_⟩
  · rw [dataFlit_behind (by rw [order]; exact away)]
  · rw [dataFlit_accepted (by rw [order]; exact next) injected]

/-- The first flit that fails its CRC asks for a replay. -/
theorem execFlitReceive_first (live : travLive s c = true) (active : (s.port c p).state = .active) (locked : (s.port c p).lockLost = false)
    (crc : flitCrcOk b = false) (data : (flitOf b).kind ≠ 2 ∧ (flitOf b).kind ≠ 3) (noNak : (s.port c p).nakking = false)
    (noRetry : (s.port c p).retryLeft = 0) : ∃ t, exec (.flitReceive c p b) s = .next t ∧ (t.port c p).nakking = true ∧
      (t.port c p).rxSeq = (s.port c p).rxSeq ∧ (t.chan c).mem = (s.chan c).mem ∧ t.hdrs = s.hdrs := by
  have run : exec (.flitReceive c p b) s = .next (flitReceive c p b s) := onTrav_live live _
  have told {R : State → State → Prop} (F : Sending R) {r : State} (h : R r (nakAsked c p s)) : R r (sendIdle c p (flitFailed c p b false s)) := by
    rw [flitFailed_first noNak noRetry]
    exact F.sendIdle (F.startLinkMsg h)
  have stands : PortStands c p (nakAsked c p s) _ := told (portStands_sending c p) rfl
  have asked : (nakAsked c p s).port c p = { s.port c p with nakking := true, nakLock := false, retryLeft := 1, retryInj := false } :=
    modPort_port_self s c p _
  have mem : MemStands c s (nakAsked c p s) := by
    rw [MemStands, nakAsked, State.modPort, State.modChan_chan_self]
  have hdrs : HdrsStand s (nakAsked c p s) := State.modPort_hdrs ..
  rw [run, flitReceive_bad active locked crc data]
  exact ⟨_, rfl, (stands.read Port.nakking).trans (by rw [asked]), (stands.read Port.rxSeq).trans (by rw [asked]), told (mem_sending c) mem,
    told hdrs_sending hdrs⟩

/-- The flit that a replay was asked for, failing again, fences the port. -/
theorem execFlitReceive_again (live : travLive s c = true) (active : (s.port c p).state = .active) (locked : (s.port c p).lockLost = false)
    (crc : flitCrcOk b = false) (data : (flitOf b).kind ≠ 2 ∧ (flitOf b).kind ≠ 3) (again : ((s.port c p).nakking = true ∧
      BitVec.ofNat 12 (fld b 8 4) = (s.port c p).rxSeq + 1) ∨ ((s.port c p).nakking = false ∧ (s.port c p).retryLeft ≠ 0)) :
    ∃ t, exec (.flitReceive c p b) s = .next t ∧ (t.port c p).state = .fenced := by
  have run : exec (.flitReceive c p b) s = .next (flitReceive c p b s) := onTrav_live live _
  have fenced := portFault_fenced s c p false
  rw [run, flitReceive_bad active locked crc data, flitFailed_again again, sendIdle_fenced fenced]
  exact ⟨_, rfl, fenced⟩

end

/-- Settles O58: sending leaves the standing parts of a port, so what a flit or a message has set stands. -/
theorem traverseFlits : Obligations.TraverseFlits := by
  intro c p s live q
  refine ⟨fun b => ?_, fun m ⟨hw, _⟩ training => ⟨fun plane => ?_, fun plane station fresh => ?_⟩,
    fun l training => ⟨fun ident => ?_, fun none => ?_⟩, fun l active idle slots _ => ?_, fun n active => ⟨fun once => ?_, fun first => ?_⟩⟩
  · intro f
    refine ⟨fun down => (onTrav_live live _).trans ?_, fun active locked => ⟨fun crc kind2 kind3 => ?_, fun crc kind2 kind3 => ⟨?_, ?_⟩⟩⟩
    · rw [flitReceive, if_pos down]
    · exact execFlitReceive_good live active locked crc ⟨kind2, kind3⟩
    · exact execFlitReceive_first live active locked crc ⟨kind2, kind3⟩
    · exact execFlitReceive_again live active locked crc ⟨kind2, kind3⟩
  · have run : exec (.ident c p m) s = .next (identReceived c p m s) := onTrav_live live _
    obtain ⟨told, stands⟩ := identReceived_other (p := p) hw training plane
    exact ⟨_, run, told, stands.read Port.identOk, (stands.read Port.state).trans training⟩
  · have run : exec (.ident c p m) s = .next (identReceived c p m s) := onTrav_live live _
    have stands : PortStands c p (identTaken c p m s) (identReceived c p m s) := by
      rw [identReceived_taken training plane station fresh]
      exact (portStands_sending c p).startLinkMsg ((portStands_work c p).refl _)
    have reg : (identReceived c p m s).reg (travPage c p) 0x104 = (identTaken c p m s).reg (travPage c p) 0x104 := by
      rw [identReceived_taken training plane station fresh, startLinkMsg_reg]
    have port : ((identTaken c p m s).port c p).identOk = true ∧ ((identTaken c p m s).port c p).peer = some (m.station, m.chan, m.epoch) := by
      rw [identTaken, modPort_port_self]
      exact ⟨rfl, rfl⟩
    exact ⟨_, run, (stands.read Port.identOk).trans port.1, (stands.read Port.peer).trans port.2, reg.trans (identTaken_reg hw m)⟩
  · have run : exec (.creditInit c p l) s = .next (creditInit c p l s) := onTrav_live live _
    exact ⟨_, run, creditInit_up training ident⟩
  · have run : exec (.creditInit c p l) s = .next (creditInit c p l s) := onTrav_live live _
    rw [run, creditInit_ignored none]
  · have run : exec (.credit c p l) s = .next (creditTotals c p l s) := onTrav_live live _
    exact ⟨_, run, fun i hi => creditTotals_gain active idle hi slots⟩
  · have run : exec (.nak c p n) s = .next (nakReceived c p n s) := onTrav_live live _
    rw [run, nakReceived_again once]
  · have run : exec (.nak c p n) s = .next (nakReceived c p n s) := onTrav_live live _
    exact ⟨_, run, nakReceived_port active first⟩

end Sys2Proof.Machine
end
